-- ==== Sys2Proof/Word.lean ====
section
/-! DEFINITION. The word types of the Twidin P1: a BAR0 register word (R518) and a memory byte (R7). -/
namespace Sys2Proof

/-- A 32-bit BAR0 register word. -/
abbrev Word := BitVec 32

/-- One byte of module or host memory; multi-byte values are little-endian (R7). -/
abbrev Byte := BitVec 8

end Sys2Proof
end

