-- ==== Sys2Proof/Syntax.lean ====
section
/-! DEFINITION. The commands of the Twidin P1: one constructor of `Instr` per row of the table of operations
and events, with the records their operands are made of. Fields are numbers as the manual's tables give
them; `WellFormed.lean` states their widths. -/
namespace Sys2Proof

/-- A stride stamp (R37): epoch, step, slot and phase code (R38). -/
structure Stamp where
  epoch : Nat
  step : Nat
  slot : Nat
  phase : Nat
  deriving DecidableEq, Repr

/-- Header of an accepted submission slot (R416): the ring it came from, TAG, SSTAMP and IRQ. -/
structure HostHdr where
  ring : Nat
  tag : Nat
  sstamp : Nat
  irq : Bool
  deriving DecidableEq, Repr

/-- Operands of SNAPSHOT (R425). -/
structure SnapOps where
  what : Nat
  dest : Nat
  port : Nat
  win : Nat
  region : Nat
  gen : Nat
  daddr : Nat
  dlen : Nat
  entry : Nat
  nent : Nat
  deriving DecidableEq, Repr

/-- Operands of COPY (R425, R428). `portCtx` is byte 9: the port, or the context under KIND 0x4. -/
structure CopyOps where
  kind : Nat
  portCtx : Nat
  win : Nat
  tflag : Bool
  vflag : Nat
  fctx : Nat
  src : Nat
  dst : Nat
  length : Nat
  tok32 : Nat
  deriving DecidableEq, Repr

/-- A tile instruction without its OPCODE (R79). -/
structure TileWords where
  cont : Bool
  hold : Bool
  skip : Bool
  eng : Nat
  fmtA : Nat
  fmtB : Nat
  fmtC : Nat
  sparse : Nat
  mlog : Nat
  nlog : Nat
  kb : Nat
  ta : Nat
  tb : Nat
  tc : Nat
  arrays : Nat
  deriving DecidableEq, Repr

/-- A vector instruction without its VOP (R138). -/
structure VecWords where
  fmtA : Nat
  fmtB : Nat
  fmtC : Nat
  units : Nat
  sub : Nat
  rowlen : Nat
  cst : Nat
  ta : Nat
  tb : Nat
  tc : Nat
  td : Nat
  deriving DecidableEq, Repr

/-- A sequencer flag instruction without its OPCODE (R287). -/
structure FlagWords where
  val : Bool
  consume : Bool
  remote : Bool
  fence : Bool
  vflag : Nat
  fctx : Nat
  dest : Nat
  vcmask : Nat
  deriving DecidableEq, Repr

/-- A flag record (R294). -/
structure FlagRec where
  op : Nat
  status : Nat
  fctx : Nat
  vflag : Nat
  fence : Bool
  consume : Bool
  vcmask : Nat
  seq : Nat
  wtag : Nat
  deriving DecidableEq, Repr

/-- A transfer header (R330). `resv` is true when a reserved bit is set. -/
structure XferHdr where
  tkind : Nat
  win : Nat
  seq : Nat
  offset : Nat
  bytes : Nat
  tdesc : Bool
  tflag : Bool
  ctx : Nat
  q : Nat
  count : Nat
  resv : Bool
  deriving DecidableEq, Repr

/-- A queue-entry descriptor (R213). -/
structure QDesc where
  stamp : Stamp
  kind : Nat
  src : Nat
  tok32 : Nat
  texp : Nat
  bytes : Nat
  buf : Nat
  ctx : Nat
  q : Nat
  deriving DecidableEq, Repr

/-- A dispatch or combine batch header (R187). -/
structure BatchHdr where
  stamp : Stamp
  router : Nat
  expert : Nat
  src : Nat
  dir : Nat
  count : Nat
  rowbytes : Nat
  deriving DecidableEq, Repr

/-- A ring block header (R202). -/
structure RingHdr where
  stamp : Stamp
  layer : Nat
  origin : Nat
  hop : Nat
  kind : Nat
  tokens : Nat
  deriving DecidableEq, Repr

/-- A gather header (R238). -/
structure GatherHdr where
  stamp : Stamp
  region : Nat
  gen : Nat
  kind : Nat
  src : Nat
  offset : Nat
  bytes : Nat
  deriving DecidableEq, Repr

/-- A reduction partial header (R364). `resv` is true when a reserved bit is set. -/
structure PartialHdr where
  stamp : Stamp
  bucket : Nat
  grp : Nat
  prec : Nat
  kind : Nat
  src : Nat
  owner : Nat
  ncontrib : Nat
  first : Nat
  count : Nat
  esize : Nat
  resv : Bool
  deriving DecidableEq, Repr

/-- An Iluxa message header (R442). -/
structure IxHdr where
  cls : Nat
  sub : Nat
  srca : Nat
  dsta : Nat
  tid : Nat
  crpool : Nat
  crcnt : Nat
  len64 : Nat
  addr : Nat
  space : Nat
  ext : Nat
  resv : Bool
  mdl : Nat
  deriving DecidableEq, Repr

/-- What the boot sequence meets in the parts it trains and tests (R471): each field is the outcome of one
test of the hardware, which no rule computes from the module's state. `dieFail`, `idFail`, `sramFail` and
`memFail` hold the agent ID of the first die that fails that step; `arrayFail` lists (die, physical array)
pairs that fail the self-test of R97; `slow` is a step that exceeds its time limit; `badSlices` lists
(base die, bank, slice) triples that the SRAM self-test of step 9 finds failed. -/
structure BootEnv where
  fuseOk : Bool
  katOk : Bool
  flashOk : Bool
  burnOk : Bool
  dieFail : Option Nat
  idFail : Option Nat
  sramFail : Option Nat
  memFail : Option Nat
  arrayFail : List (Nat × Nat)
  badSlices : List (Nat × Nat × Nat)
  slow : Option Nat
  deriving DecidableEq, Repr

/-- A place in module memory where the memory's own check reports an error (R24, R532): a version-store or
HBM or LPDDR5X address in the HDM window, or a word of an SRAM outside it (agent ID and word offset). -/
inductive MemPlace where
  | hdm (addr : Nat)
  | opbuf (die word : Nat)
  | staging (word : Nat)
  | updSram (word : Nat)
  deriving DecidableEq, Repr

/-- Why the rails are removed (R485), with the codes of PWR_PS_STAT.LAST_FAULT (R501). -/
inductive RailCause where
  | inputLow
  | inputHigh
  | overcurrent
  | overTemp
  | trip (agent : Nat)
  | regulation
  | powerEnable
  | railOff
  deriving DecidableEq, Repr

/-- The two resets pins of R537. -/
inductive ResetPin where
  | modRst
  | cxlPerst
  deriving DecidableEq, Repr

/-- The two MCTP transports of R476 and R478. -/
inductive Transport where
  | i3c
  | doe
  deriving DecidableEq, Repr

/-- The commands and events of the module, one constructor per row of the table. `h` is the header of the
accepted slot that carries a host command; `x` a stage context; `p` a stage-link port; `d` a die. -/
inductive Instr where
  | nop (h : HostHdr)
  | fence (h : HostHdr) (rmask : Nat)
  | patternLoad (h : HostHdr) (x image vsBase fastBase slowBase : Nat)
  | patternUnload (h : HostHdr) (x : Nat)
  | contextStart (h : HostHdr) (x : Nat)
  | contextPreempt (h : HostHdr) (x : Nat)
  | contextResume (h : HostHdr) (x : Nat)
  | contextReset (h : HostHdr) (x : Nat)
  | stepBegin (h : HostHdr) (epoch step m eta : Nat)
  | stepCommit (h : HostHdr) (step : Nat)
  | stepAbandon (h : HostHdr) (step : Nat)
  | snapshot (h : HostHdr) (o : SnapOps)
  | copy (h : HostHdr) (o : CopyOps) (hostData : List Byte)
  | fill (h : HostHdr) (dst length value : Nat)
  | flagSet (h : HostHdr) (vflag fctx : Nat)
  | flagClear (h : HostHdr) (vflag fctx : Nat)
  | flagWait (h : HostHdr) (vflag fctx : Nat) (val consume : Bool) (timeoutUs : Nat)
  | flagWaitCancel (h : HostHdr) (ctag : Nat)
  | quiesce (h : HostHdr)
  | resumeAll (h : HostHdr)
  | linkControl (h : HostHdr) (port cmd vcmask : Nat)
  | submissionSlotAccept (ring : Nat)
  | ringDoorbell (ring tail : Nat)
  | staleSlotReread (ring : Nat)
  | doorbellEarly (ring : Nat)
  | ringEnable (ring slog : Nat)
  | ringDisable (ring : Nat)
  | hwgenWrite (gen : Nat)
  | urgentQuiesce
  | urgentResumeAll
  | urgentRingStop (ring : Nat)
  | urgentPreempt (x : Nat)
  | urgentReset (x : Nat)
  | registerWrite (off : Nat) (words : List (Word × Nat))
  | cfgLockSet
  | irqMaskWrite (mask : Nat)
  | glbRstModule (key : Nat) (env : BootEnv)
  | powerDown (key : Nat)
  | strEvtArm (k : Nat) (ctl : Word)
  | strEvtDisarm (k : Nat) (ctl : Word)
  | strEvtFire (k : Nat)
  | censusClearAll (d : Nat) (withHist : Bool)
  | censusClearOne (d idx : Nat) (withHist : Bool)
  | flagMapValidate (fctx owner : Nat)
  | flagMapInvalidate (fctx : Nat)
  | ownerlostClear (fctx : Nat)
  | directQuery (vflag fctx : Nat)
  | directSet (vflag fctx : Nat)
  | directClear (vflag fctx : Nat)
  | directClearOverrun (vflag fctx : Nat)
  | linkEnable (p : Nat)
  | linkDisable (p : Nat)
  | linkRetrain (p : Nat)
  | portReset (p : Nat)
  | committedStepWrite (step : Nat)
  | updEntryValidate (i : Nat) (w0 : Word)
  | updEntryInvalidate (i : Nat)
  | residualZero
  | updStatsDataAccess (write : Option Word)
  | clockFloorWrite (d floor : Nat)
  | hdmRead (addr len : Nat)
  | hdmWrite (addr : Nat) (data : List Byte)
  | tmmF (x : Nat) (st : Stamp) (idx : Nat) (w : TileWords)
  | tmmB (x : Nat) (st : Stamp) (idx : Nat) (w : TileWords)
  | tmmW (x : Nat) (st : Stamp) (idx : Nat) (w : TileWords)
  | fset (x : Nat) (st : Stamp) (idx : Nat) (w : FlagWords)
  | fclr (x : Nat) (st : Stamp) (idx : Nat) (w : FlagWords)
  | fwait (x : Nat) (st : Stamp) (idx : Nat) (w : FlagWords)
  | vadd (x : Nat) (st : Stamp) (idx : Nat) (w : VecWords)
  | vsub (x : Nat) (st : Stamp) (idx : Nat) (w : VecWords)
  | vmul (x : Nat) (st : Stamp) (idx : Nat) (w : VecWords)
  | vfma (x : Nat) (st : Stamp) (idx : Nat) (w : VecWords)
  | vdiv (x : Nat) (st : Stamp) (idx : Nat) (w : VecWords)
  | vsqrt (x : Nat) (st : Stamp) (idx : Nat) (w : VecWords)
  | vmin (x : Nat) (st : Stamp) (idx : Nat) (w : VecWords)
  | vmax (x : Nat) (st : Stamp) (idx : Nat) (w : VecWords)
  | vcvt (x : Nat) (st : Stamp) (idx : Nat) (w : VecWords)
  | vfunc (x : Nat) (st : Stamp) (idx : Nat) (w : VecWords)
  | vsum (x : Nat) (st : Stamp) (idx : Nat) (w : VecWords)
  | vmaxr (x : Nat) (st : Stamp) (idx : Nat) (w : VecWords)
  | vlnorm (x : Nat) (st : Stamp) (idx : Nat) (w : VecWords)
  | vrnorm (x : Nat) (st : Stamp) (idx : Nat) (w : VecWords)
  | vsmx (x : Nat) (st : Stamp) (idx : Nat) (w : VecWords)
  | vsmxm (x : Nat) (st : Stamp) (idx : Nat) (w : VecWords)
  | vtopk (x : Nat) (st : Stamp) (idx : Nat) (w : VecWords)
  | vcount (x : Nat) (st : Stamp) (idx : Nat) (w : VecWords)
  | vscan (x : Nat) (st : Stamp) (idx : Nat) (w : VecWords)
  | vgather (x : Nat) (st : Stamp) (idx : Nat) (w : VecWords)
  | vscatter (x : Nat) (st : Stamp) (idx : Nat) (w : VecWords)
  | vialu (x : Nat) (st : Stamp) (idx : Nat) (w : VecWords)
  | vrand (x : Nat) (st : Stamp) (idx : Nat) (w : VecWords)
  | vdrop (x : Nat) (st : Stamp) (idx : Nat) (w : VecWords)
  | instructionComplete (x : Nat) (st : Stamp) (idx : Nat)
  | arrayCheckFail (d phys cause : Nat)
  | spareCheckFail (d phys cause : Nat)
  | tempoBlockOrigin (x idx cycle : Nat)
  | phaseFStart (x : Nat)
  | phaseXStart (x : Nat) (st : Stamp)
  | phaseBStart (x : Nat)
  | phaseWStart (x step window : Nat)
  | offloadComplete (x : Nat) (st : Stamp)
  | offloadFetchBack (x : Nat) (st : Stamp)
  | fetchBackComplete (x : Nat) (st : Stamp)
  | moeDispatch (x router : Nat) (st : Stamp)
  | moeBatchArrival (port : Option Nat) (x : Nat) (srcmod : Nat) (hdr : BatchHdr) (idxs : List Nat) (rows : List Byte)
  | ringBlockArrival (p x srcmod : Nat) (hdr : RingHdr) (data : List Byte)
  | queueEntryArrival (p srcmod hbuf hctx hq : Nat) (desc : QDesc) (data : List Byte)
  | queueCreditReturn (p srcmod x q : Nat) (bufs : List Nat)
  | gatherRequest (p srcmod : Nat) (hdr : GatherHdr)
  | gatherResponse (p srcmod : Nat) (hdr : GatherHdr) (data : List Byte)
  | windowWrite (p vc srcmod dstmod : Nat) (hdr : XferHdr) (data : List Byte)
  | transferCommit (p vc : Nat) (desc : Option QDesc) (rec : Option FlagRec)
  | fenceMarker (p vc seq : Nat)
  | fencedRecordApply (p : Nat) (rec : FlagRec)
  | remoteFlagSet (p : Nat) (rec : FlagRec)
  | remoteFlagClear (p : Nat) (rec : FlagRec)
  | remoteWaitFor1 (p : Nat) (rec : FlagRec)
  | remoteWaitFor0 (p : Nat) (rec : FlagRec)
  | remoteWaitCancel (p wtag : Nat)
  | remoteWake (p : Nat) (rec : FlagRec)
  | linkPause (p vcmask : Nat)
  | linkResume (p vcmask : Nat)
  | flitReceive (p : Nat) (bytes : List Byte) (fecBad : Bool) (corr uncorr : Nat)
  | flitTransmit (p : Nat)
  | replayTimer (p : Nat)
  | deliveryBoundExpiry (p : Nat)
  | creditStall (p vc : Nat)
  | laneFail (p lane : Nat)
  | retrainTimeout (p : Nat)
  | linkTrainingStart (p rxmask invert : Nat)
  | trainingRecordReceived (p : Nat) (rec : List Byte)
  | trainingTimeout (p : Nat)
  | authMessageReceived (p : Nat) (msg : List Byte)
  | authTimeout (p : Nat)
  | refclkSlLoss
  | reductionPartialArrival (p vc srcmod : Nat) (hdr : PartialHdr) (data : List Byte)
  | segmentTimeout (g bucket seg newer : Nat)
  | farCompress (bucket seg step : Nat)
  | updatePassStart
  | updatePassComplete
  | updateDatapathFault
  | restoreComplete (r : Nat)
  | copyComplete (h : HostHdr)
  | snapshotComplete (h : HostHdr)
  | contextWaitWarn (x : Nat)
  | contextWaitStop (x : Nat)
  | hostFlagWaitTimeout (h : HostHdr)
  | irqHoldoffExpiry (v : Nat)
  | uncorrectableMemoryError (place : MemPlace) (consumer : Option Nat)
  | correctedMemoryError (place : MemPlace) (slice : Option Nat)
  | iluxaNegotiationRecord (dp : Nat) (rec : List Byte)
  | iluxaNegotiationTimeout (dp : Nat)
  | iluxaModuleRetrainTimeout (dp module : Nat)
  | mrd (h : IxHdr)
  | mrsp (h : IxHdr) (data : List Byte)
  | mwr (h : IxHdr) (data : List Byte)
  | mack (h : IxHdr)
  | iluxaFlag (h : IxHdr)
  | qent (h : IxHdr) (data : List Byte)
  | redData (h : IxHdr) (data : List Byte)
  | redEmptyTileMarker (h : IxHdr) (data : List Byte)
  | ctlCreditReturn (h : IxHdr)
  | ctlErrorReport (h : IxHdr) (data : List Byte)
  | ctlDrainRequest (dp : Nat)
  | ctlDrainDone (h : IxHdr)
  | powerOn (env : BootEnv)
  | powerRemoval (cause : RailCause)
  | bootStepTimeout (step : Nat)
  | modRstNAssert
  | cxlConventionalReset
  | hostLoss (cause : Nat)
  | flr
  | tempSample (agent temp : Nat) (sensorErr : Bool)
  | thermalTick (watts volts : Nat)
  | psAlert
  | clockLevelApply (d : Nat)
  | bootStatus (t : Transport)
  | imgBegin (t : Transport) (length : Nat)
  | imgData (t : Transport) (off : Nat) (data : List Byte)
  | imgCommit (t : Transport)
  | imgCommitComplete (ok : Bool) (env : BootEnv)
  | imgAbort (t : Transport)
  | imgSessionTimeout
  | moduleReset (t : Transport) (env : BootEnv)
  | getVersion (t : Transport)
  | getCapabilities (t : Transport)
  | negotiateAlgorithms (t : Transport) (asym hash : Nat)
  | getDigests (t : Transport)
  | getCertificate (t : Transport) (slot off len : Nat)
  | challenge (t : Transport) (slot nonce : Nat)
  | getMeasurements (t : Transport) (index nonce : Nat)
  | pldmSensorRead (sensor : Nat)
  | resetPinRelease (pin : ResetPin) (env : BootEnv)
  | registerRead (off nwords : Nat)
  deriving DecidableEq, Repr

end Sys2Proof
end

