-- ==== Sys2Proof/Decode.lean ====
section
/-! DEFINITION. The table of this block gives no row any bits: its commands come as events, not as words. The
submission slots of R416, which do encode host commands, are decoded by `slotCommand` in `Machine/Host.lean`. -/
namespace Sys2Proof

/-- The command that a word of the table's bits spells: none, since no row has bits. -/
def decodeTableWord (_nbits _w : Nat) : Option Instr := none

end Sys2Proof
end

