-- ==== Sys2Proof/Config.lean ====
section
/-! DEFINITION. What the spec leaves to an implementation or leaves open: constants without a body, so that no
proof can see their values (free values), each named in the assumption log. -/
namespace Sys2Proof

/-- The result the vector units give for function SUB on an FP32 code where R146 fixes only an error bound
(log 10); `Machine/VecFun.lean` keeps the value inside that bound. -/
opaque Config.vfunc : Nat → Nat → Nat

/-- A signature that the module identity key makes over a digest (R462): the key never leaves the die (log 11). -/
opaque Config.identitySign : Nat → Nat → List Byte

/-- The module identity public key, 97 bytes SEC1 (R462), set at manufacture (log 11). -/
opaque Config.identityKey : List Byte

/-- The certificate chain of slot 0 (R478), set at manufacture (log 11). -/
opaque Config.certChain : List Byte

/-- The verdict of X.509 path validation of a received chain against trust anchors (R338), with the leaf
public key it yields (log 11). -/
opaque Config.chainLeaf : List Byte → List (List Byte) → Option (List Byte)

/-- The PCI-SIG vendor ID of Olienuk (R455, R476), which no rule gives (log 11). -/
opaque Config.olienukVendor : Nat

/-- Random bytes: the 48-byte nonces of training records and the SPDM nonces (R334, R478), one draw per count
(log 12). -/
opaque Config.random : Nat → Nat → List Byte

/-- Identity digest of the die with an agent ID (R462, R479), set at manufacture (log 11). -/
opaque Config.dieDigest : Nat → Nat

/-- SHA-384 of the mask ROM (R479) (log 11). -/
opaque Config.romDigest : Nat

/-- A value the spec leaves unstated: the n-th draw (log 13). -/
opaque Config.freeValue : Nat → Nat

/-- Bytes of a PLDM or SPDM message that another standard, not this spec, lays out (log 14). -/
opaque Config.foreignBytes : Nat → Nat → List Byte

/-- Byte `i` of the 64-byte header of a state snapshot (R405), whose layout no rule gives: a function of c and of the
words of UPD_HYPER (log 65). -/
opaque Config.snapHeader : Nat → List Nat → Nat → Byte

/-- The MAXLEN that the hub offers on its die ports, less 1 and modulo 64 (R452) (log 97). -/
opaque Config.hubMaxlen : Nat
/-- What the credits that the hub grants per pool and module rest on (R445, log 97). -/
opaque Config.hubGrant : Nat → Nat
/-- DEVREV of the hub, its maker's device and revision code (R452, log 97). -/
opaque Config.hubDevrev : Nat

/-- The bits of an element that a tile reads outside ROWS and COLS of its tensor, or of a tensor slot that has no place,
from the stamp, the tensor slot, the row and the column (log 43). -/
opaque Config.outside : Nat → Nat → Nat → Nat → Nat

/-- The 64-byte unit of an agent's SRAM that holds one element of a staged segment or one statistics word: no rule lays these
SRAMs out (log 133). -/
opaque Config.sramUnit : Nat → List Nat → Nat

/-- Does one write of the listed elements to an agent's SRAM cover a unit of it whole? (log 133). -/
opaque Config.sramWhole : Nat → Nat → List (List Nat) → Bool

/-- The tensor slot that plays a role in an MoE layer for which no descriptor field exists, from the digest of the Pattern, the
router, the LOCAL of the expert and the role: 0 the expert's input, 1 its output, 2 the gradient of its output, 3 its input
gradient; with LOCAL 0, 4 the dy of the source, 5 its summed input gradient, 6 its gate gradients (log 45). -/
opaque Config.moeSlot : Nat → Nat → Nat → Nat → Nat

/-- How many ring attention layers a Pattern has, from its digest (log 49). -/
opaque Config.ringLayers : Nat → Nat

/-- The tensor slot of a ring layer for the block that came with a hop, 0 for the member's own, from the digest, the layer, the hop
and the role: 0 K, 1 V, 2 dK, 3 dV (log 49). -/
opaque Config.ringSlot : Nat → Nat → Nat → Nat → Nat

/-- Array cycles by which an issue in a tempo block comes late after an array was lost, 0 when it does not (log 145). -/
opaque Config.tempoDelay : Nat → Nat

/-- Address and data that the host puts into an entry of the MSI-X table (log 69). -/
opaque Config.msixEntry : Nat → Nat × Nat

/-- Whether an update instruction of a pass at the vector site is in progress when a tempo block would begin (log 144). -/
opaque Config.updateBusy : Nat → Bool

end Sys2Proof
end

