-- ==== Sys2Proof/Machine/Table.lean ====
section
/-! DEFINITION. Sparse tables in one canonical form (addresses strictly rising, no entry equal to what
an unlisted key reads as), bit fields, byte order, and the list helpers every other file uses. -/
namespace Sys2Proof.Machine

/-! ### Sparse tables -/

/-- What a table lists at key `k`. -/
def tabFind {α : Type} : List (Nat × α) → Nat → Option α
  | [], _ => none
  | (a, v) :: t, k => if a = k then some v else tabFind t k

/-- The value at `k`; an unlisted key reads as `d k`. -/
def tabGet {α : Type} (d : Nat → α) (t : List (Nat × α)) (k : Nat) : α :=
  match tabFind t k with
  | some v => v
  | none => d k

/-- Put `v` at `k`, keeping the keys strictly rising. -/
def tabInsert {α : Type} : List (Nat × α) → Nat → α → List (Nat × α)
  | [], k, v => [(k, v)]
  | (a, u) :: t, k, v =>
    if k < a then (k, v) :: (a, u) :: t
    else if k = a then (k, v) :: t
    else (a, u) :: tabInsert t k v

/-- Remove the entry of `k`. -/
def tabErase {α : Type} : List (Nat × α) → Nat → List (Nat × α)
  | [], _ => []
  | (a, u) :: t, k => if a = k then t else (a, u) :: tabErase t k

/-- Write `v` at `k`; writing what an unlisted key reads as removes the entry. -/
def tabSet {α : Type} [DecidableEq α] (d : Nat → α) (t : List (Nat × α)) (k : Nat) (v : α) :
    List (Nat × α) :=
  if v = d k then tabErase t k else tabInsert t k v

/-- Every key of the table is above `b`, keys rise strictly, and no entry equals its default. -/
def tabWfFrom {α : Type} [DecidableEq α] (d : Nat → α) : Nat → List (Nat × α) → Bool
  | _, [] => true
  | b, (a, v) :: t => decide (b ≤ a) && decide (v ≠ d a) && tabWfFrom d (a + 1) t

/-- The canonical form of a sparse table. -/
def tabWf {α : Type} [DecidableEq α] (d : Nat → α) (t : List (Nat × α)) : Bool := tabWfFrom d 0 t

/-! ### Bit fields (R6) and signed fields (R545) -/

/-- Bits `lo + n - 1` to `lo` of `v`. -/
def bits (v lo n : Nat) : Nat := (v >>> lo) % 2 ^ n

/-- Bit `i` of `v`. -/
def bit (v i : Nat) : Bool := Nat.testBit v i

/-- `v` with its `n` bits from `lo` replaced by those of `x`. -/
def putBits (v lo n x : Nat) : Nat := v - (bits v lo n <<< lo) + ((x % 2 ^ n) <<< lo)

/-- A Bool as a bit. -/
def b2n (b : Bool) : Nat := if b then 1 else 0

/-- The `n`-bit field `v` read as two's complement (R545). -/
def toSigned (v n : Nat) : Int := if v % 2 ^ n < 2 ^ (n - 1) then (v % 2 ^ n : Nat) else ((v % 2 ^ n : Nat) : Int) - (2 ^ n : Nat)

/-- The `n`-bit two's-complement code of `i`. -/
def ofSigned (i : Int) (n : Nat) : Nat := (i % (2 ^ n : Nat)).toNat

/-- Add to a counter that stops at `top`. -/
def satAdd (top a b : Nat) : Nat := min top (a + b)

/-- Ceiling division. -/
def cdiv (a b : Nat) : Nat := (a + b - 1) / b

/-- `a` rounded up to a multiple of `b`. -/
def roundUp (a b : Nat) : Nat := cdiv a b * b

/-! ### Bytes, little-endian (R7) -/

/-- The little-endian value of a byte list. -/
def leNat : List Byte → Nat
  | [] => 0
  | b :: t => b.toNat + 256 * leNat t

/-- The `n` little-endian bytes of `v`. -/
def leBytes : Nat → Nat → List Byte
  | 0, _ => []
  | n + 1, v => BitVec.ofNat 8 v :: leBytes n (v / 256)

/-- `n` bytes of `l` from offset `o` as a little-endian number (bytes past the end count as absent). -/
def leAt (l : List Byte) (o n : Nat) : Nat := leNat ((l.drop o).take n)

/-- Pad with zero bytes to `n` bytes. -/
def padTo (n : Nat) (l : List Byte) : List Byte := l ++ List.replicate (n - l.length) 0

/-- Cut a list into pieces of `n` (n ≥ 1); `f` bounds the number of pieces. -/
def chunks {α : Type} (n : Nat) : Nat → List α → List (List α)
  | 0, _ => []
  | _, [] => []
  | f + 1, l => l.take n :: chunks n f (l.drop n)

/-! ### Lists -/

/-- Element `i`, or `d`. -/
def nth {α : Type} (d : α) : List α → Nat → α
  | [], _ => d
  | a :: _, 0 => a
  | _ :: t, n + 1 => nth d t n

/-- Replace element `i` by `f` of it. -/
def modNth {α : Type} (f : α → α) : List α → Nat → List α
  | [], _ => []
  | a :: t, 0 => f a :: t
  | a :: t, n + 1 => a :: modNth f t n

/-- `0, 1, …, n - 1`. -/
def upto (n : Nat) : List Nat := List.range n

/-- Sum of a list of numbers. -/
def sumNat (l : List Nat) : Nat := l.foldl (· + ·) 0

/-- Largest of a list of numbers, 0 when empty. -/
def maxNat (l : List Nat) : Nat := l.foldl max 0

/-- Position of the first element that satisfies `p`. -/
def findIdxN {α : Type} (p : α → Bool) : List α → Nat → Option Nat
  | [], _ => none
  | a :: t, i => if p a then some i else findIdxN p t (i + 1)

/-- The list without the first element that satisfies `p`. -/
def dropFirst {α : Type} (p : α → Bool) : List α → List α
  | [] => []
  | a :: t => if p a then t else a :: dropFirst p t

/-- Insert into a list sorted by a natural key (stable: after equals). -/
def insertBy {α : Type} (k : α → Nat) (x : α) : List α → List α
  | [] => [x]
  | a :: t => if k x < k a then x :: a :: t else a :: insertBy k x t

/-- Sort by a natural key, stable. -/
def sortBy {α : Type} (k : α → Nat) (l : List α) : List α := l.foldl (fun acc x => insertBy k x acc) []

/-- No element occurs twice. -/
def noDup : List Nat → Bool
  | [] => true
  | a :: t => !t.contains a && noDup t

end Sys2Proof.Machine
end

