-- ==== Sys2Proof/Machine/RegMap.lean ====
section
/-! DEFINITION. The register map of BAR0 (R518, R519, R526): which block holds an offset, and the fields of every
register that stores bits, with their access codes (R10) and reset values (R13). Fields that a read computes
from the state stand in `Machine/Registers.lean`. -/
namespace Sys2Proof.Machine

/-- Access codes (R10). `ro` fields are written by hardware only. -/
inductive Access where
  | ro | rw | rwl | w1c | w1s | rc
  deriving DecidableEq, Repr

/-- A stored field: lowest bit, width, access and reset value. -/
structure Fld where
  lo : Nat
  n : Nat
  acc : Access
  reset : Nat
  deriving DecidableEq, Repr

/-- The blocks of R518. -/
inductive Blk where
  | glb | hif | lnk | red | flg | str | ant | upd | pwr | cmp | bse | reserved
  deriving DecidableEq, Repr

/-- Block, replica index and offset inside the block. -/
def blockOf (off : Nat) : Blk × Nat × Nat :=
  if off < 0x100000 then (.glb, 0, off)
  else if off < 0x200000 then (.hif, 0, off - 0x100000)
  else if off < 0x300000 then (.lnk, (off - 0x200000) / 0x10000, (off - 0x200000) % 0x10000)
  else if off < 0x400000 then (.red, 0, off - 0x300000)
  else if off < 0x500000 then (.flg, 0, off - 0x400000)
  else if off < 0x580000 then (.str, 0, off - 0x500000)
  else if off < 0x600000 then (.ant, 0, off - 0x580000)
  else if off < 0x700000 then (.upd, 0, off - 0x600000)
  else if off < 0x800000 then (.pwr, 0, off - 0x700000)
  else if off < 0xC00000 then (.cmp, (off - 0x800000) / 0x100000, (off - 0x800000) % 0x100000)
  else if off < 0x1000000 then (.bse, (off - 0xC00000) / 0x100000, (off - 0xC00000) % 0x100000)
  else (.reserved, 0, off)

/-! Offsets of registers that other files name. -/
def oRstCause : Nat := 0x024
def oCfgLock : Nat := 0x028
def oErrCtl : Nat := 0x030
def oIrqRaw : Nat := 0x040
def oIrqMask : Nat := 0x044
def oIrqVec : Nat := 0x048
def oSqBase (n : Nat) : Nat := 0x100000 + 0x80 * n
def oSqSize (n : Nat) : Nat := 0x100008 + 0x80 * n
def oCqBase (n : Nat) : Nat := 0x100020 + 0x80 * n
def oCqSize (n : Nat) : Nat := 0x100028 + 0x80 * n
def oHostLoss : Nat := 0x100404
def oRetry : Nat := 0x100408
def oUrgStat : Nat := 0x100808
def oLnk (p r : Nat) : Nat := 0x200000 + 0x10000 * p + r
def oRed (r : Nat) : Nat := 0x300000 + r
def oGrp (g w : Nat) : Nat := 0x300000 + 0x40 * g + w
def oRoute (g o : Nat) : Nat := 0x301000 + 0x1000 * g + 4 * o
def oFlg (r : Nat) : Nat := 0x400000 + r
def oStrCfg : Nat := 0x500014
def oEvt (k w : Nat) : Nat := 0x500100 + 0x10 * k + w
def oAnt (r : Nat) : Nat := 0x580000 + r
def oUpd (r : Nat) : Nat := 0x600000 + r
def oEntry (i w : Nat) : Nat := 0x601000 + 0x20 * i + w
def oPwr (r : Nat) : Nat := 0x700000 + r
def oCmp (d r : Nat) : Nat := 0x800000 + 0x100000 * d + r
def oBse (d r : Nat) : Nat := 0xC00000 + 0x100000 * d + r

/-- CREDITS reset of a VC (R325). -/
def vcCredits (v : Nat) : Nat :=
  if v < 4 then 112 else if v < 6 then 128 else if v = 6 then 192 else if v = 7 then 96
  else if v < 14 then 128 else if v = 14 then 256 else 32

/-- WEIGHT reset of a VC (R325). -/
def vcWeight (v : Nat) : Nat :=
  if v < 7 then 32 else if v < 14 then 16 else if v = 14 then 4 else 0

/-- GLB block (R527). -/
def glbFields (r : Nat) : List Fld :=
  if r = 0x024 then [⟨0, 4, .ro, 0⟩, ⟨4, 4, .ro, 0⟩, ⟨8, 4, .w1c, 0⟩, ⟨16, 4, .ro, 0⟩, ⟨20, 4, .ro, 0⟩]
  else if r = 0x028 then [⟨0, 1, .w1s, 0⟩]
  else if r = 0x030 then [⟨0, 5, .rw, 0⟩, ⟨16, 16, .rc, 0⟩]
  else if r = 0x040 then [⟨0, 16, .w1c, 0⟩]
  else if r = 0x044 then [⟨0, 16, .rw, 0⟩]
  else if r = 0x048 then [⟨0, 4, .rw, 0⟩]
  else if 0x200 ≤ r ∧ r < 0x220 then [⟨0, 32, .rw, 0⟩]
  else []

/-- HIF block (R434, R436). -/
def hifFields (r : Nat) : List Fld :=
  if r < 0x200 then
    let w := r % 0x80
    if w = 0x00 then [⟨12, 20, .rw, 0⟩]
    else if w = 0x04 then [⟨0, 8, .rw, 0⟩]
    else if w = 0x08 then [⟨0, 4, .rw, 0⟩, ⟨16, 8, .rc, 0⟩, ⟨30, 1, .w1c, 0⟩]
    else if w = 0x20 then [⟨12, 20, .rw, 0⟩]
    else if w = 0x24 then [⟨0, 32, .rw, 0⟩]
    else if w = 0x28 then [⟨0, 4, .rw, 0⟩]
    else []
  else if r = 0x404 then [⟨3, 1, .w1c, 0⟩, ⟨16, 16, .rc, 0⟩]
  else if r = 0x408 then [⟨0, 16, .rw, 0x07D0⟩]
  else if r = 0x808 then [⟨2, 1, .w1c, 0⟩, ⟨3, 1, .rw, 1⟩]
  else []

/-- LNK block (R345). -/
def lnkFields (r : Nat) : List Fld :=
  if r = 0x000 then [⟨0, 1, .rw, 0⟩, ⟨3, 1, .rw, 1⟩, ⟨4, 1, .rw, 1⟩, ⟨5, 1, .rwl, 0⟩]
  else if r = 0x004 then [⟨5, 1, .w1c, 0⟩]
  else if r = 0x030 then [⟨0, 1, .rwl, 0⟩, ⟨1, 1, .rw, 1⟩, ⟨8, 8, .rw, 0x10⟩, ⟨16, 8, .rw, 0x08⟩, ⟨24, 8, .rw, 0x40⟩]
  else if 0x100 ≤ r ∧ r < 0x140 then
    let v := (r - 0x100) / 4
    [⟨0, 11, .rw, vcCredits v⟩, ⟨12, 1, .rw, 0⟩, ⟨16, 8, .rw, vcWeight v⟩]
  else if 0x180 ≤ r ∧ r < 0x1C0 then [⟨23, 1, .w1c, 0⟩]
  else if r = 0x200 then [⟨0, 6, .w1c, 0⟩, ⟨16, 16, .rc, 0⟩]
  else if r = 0x204 then [⟨0, 16, .rc, 0⟩, ⟨16, 16, .rc, 0⟩]
  else if r = 0x208 then [⟨0, 20, .rc, 0⟩, ⟨20, 12, .rc, 0⟩]
  else if 0x400 ≤ r ∧ r < 0x800 then
    let w := r % 0x10
    if w = 0 then [⟨0, 28, .rw, 0⟩]
    else if w = 4 then [⟨0, 28, .rw, 0⟩]
    else if w = 8 then [⟨0, 8, .rw, 0⟩, ⟨8, 1, .rw, 0⟩, ⟨9, 1, .ro, 0⟩, ⟨10, 4, .ro, 0⟩, ⟨16, 16, .rw, 0⟩]
    else [⟨0, 16, .rw, 0xFFFF⟩]
  else []

/-- RED block (R384). -/
def redFields (r : Nat) : List Fld :=
  if r < 0x180 then
    let w := r % 0x40
    if w = 0x00 then [⟨0, 1, .rwl, 0⟩, ⟨1, 3, .rwl, 0⟩, ⟨4, 6, .rwl, 0⟩, ⟨10, 10, .rwl, 0⟩, ⟨20, 10, .rwl, 0⟩]
    else if w = 0x04 then [⟨0, 16, .rw, 0x03E8⟩, ⟨16, 1, .rw, 1⟩]
    else if w = 0x08 then [⟨0, 28, .rwl, 0⟩]
    else if w = 0x0C then [⟨0, 28, .rwl, 0⟩]
    else if w = 0x14 then [⟨0, 7, .w1c, 0⟩]
    else if w = 0x18 then [⟨0, 32, .rc, 0⟩]
    else []
  else if r = 0x404 then [⟨0, 16, .rw, 0⟩, ⟨16, 3, .rw, 0⟩, ⟨19, 1, .rw, 0⟩]
  else if r = 0x410 then [⟨0, 20, .rwl, 0⟩, ⟨20, 8, .rwl, 0⟩]
  else if r = 0x414 ∨ r = 0x418 then [⟨0, 32, .rc, 0⟩]
  else if r = 0x420 then [⟨0, 1, .rwl, 0⟩, ⟨1, 3, .rwl, 0⟩, ⟨4, 3, .rwl, 0⟩, ⟨7, 1, .rwl, 0⟩, ⟨8, 3, .rwl, 0⟩]
  else if 0x1000 ≤ r ∧ r < 0x7000 then [⟨0, 10, .rwl, 0⟩, ⟨10, 5, .rwl, 0⟩, ⟨16, 5, .rwl, 0⟩]
  else []

/-- FLG block (R306). -/
def flgFields (r : Nat) : List Fld :=
  if r = 0x400 then [⟨0, 24, .ro, 0⟩, ⟨24, 6, .ro, 0⟩, ⟨30, 1, .w1c, 0⟩, ⟨31, 1, .rw, 1⟩]
  else if r = 0x404 then [⟨0, 16, .rc, 0⟩]
  else if r = 0x500 then [⟨0, 12, .rw, 0⟩]
  else if r = 0x1004 then [⟨0, 6, .rw, 0⟩, ⟨8, 6, .rw, 0⟩]
  else []

/-- STR block (R65). -/
def strFields (r : Nat) : List Fld :=
  if r = 0x014 then [⟨0, 1, .rw, 1⟩, ⟨1, 1, .rw, 1⟩, ⟨16, 16, .rc, 0⟩]
  else if 0x100 ≤ r ∧ r < 0x200 then
    let w := r % 0x10
    if w = 0 then [⟨0, 4, .rw, 0⟩, ⟨4, 4, .rw, 0⟩, ⟨8, 4, .rw, 0⟩, ⟨12, 1, .rw, 0⟩, ⟨13, 1, .rw, 0⟩, ⟨16, 1, .rw, 0⟩, ⟨17, 2, .w1c, 0⟩]
    else if w = 4 then [⟨0, 32, .rw, 0⟩]
    else if w = 8 then [⟨0, 16, .rw, 0⟩, ⟨16, 16, .rw, 0⟩]
    else [⟨0, 24, .rw, 0⟩, ⟨24, 6, .rw, 0⟩]
  else []

/-- ANT block (R244). -/
def antFields (r : Nat) : List Fld :=
  if r = 0 then [⟨0, 16, .rw, 0x03E8⟩, ⟨16, 16, .rw, 0⟩]
  else if r = 4 then [⟨0, 3, .w1c, 0⟩, ⟨24, 8, .rc, 0⟩]
  else []

/-- UPD block (R406). -/
def updFields (r : Nat) : List Fld :=
  if r = 0x000 then [⟨0, 1, .rw, 1⟩, ⟨1, 1, .rw, 1⟩, ⟨2, 1, .rw, 1⟩]
  else if r = 0x004 then [⟨0, 1, .rw, 0⟩, ⟨1, 1, .rw, 1⟩]
  else if r = 0x010 then [⟨3, 1, .w1c, 0⟩, ⟨6, 1, .w1c, 0⟩]
  else if r = 0x018 then [⟨0, 32, .rc, 0⟩]
  else if r = 0x020 then [⟨0, 32, .rw, 0x3F666666⟩]
  else if r = 0x024 then [⟨0, 32, .rw, 0x3F7FBE77⟩]
  else if r = 0x028 then [⟨0, 32, .rw, 0x322BCC77⟩]
  else if r = 0x02C then [⟨0, 32, .rw, 0⟩]
  else if r = 0x030 then [⟨0, 1, .rw, 1⟩, ⟨1, 1, .rw, 0⟩]
  else if r = 0x060 then [⟨0, 32, .rw, 0⟩]
  else if r = 0x070 then [⟨0, 32, .rw, 0⟩]
  else if 0x1000 ≤ r ∧ r < 0x9000 then
    let w := r % 0x20
    if w = 0x00 then [⟨0, 1, .rw, 0⟩, ⟨1, 2, .rw, 0⟩, ⟨3, 3, .rw, 0⟩, ⟨6, 4, .rw, 0⟩, ⟨10, 1, .w1c, 0⟩, ⟨16, 16, .rw, 0⟩]
    else if w = 0x08 ∨ w = 0x0C then [⟨0, 24, .rw, 0⟩]
    else if w = 0x10 ∨ w = 0x14 then [⟨0, 28, .rw, 0⟩]
    else if w = 0x18 then [⟨0, 15, .rw, 0⟩, ⟨16, 9, .rw, 0⟩]
    else [⟨0, 32, .rw, 0⟩]
  else []

/-- PWR block (R501). -/
def pwrFields (r : Nat) : List Fld :=
  if r < 0x28 then [⟨0, 12, .ro, 0⟩, ⟨13, 1, .w1c, 0⟩, ⟨14, 1, .ro, 0⟩, ⟨16, 12, .rc, 0⟩]
  else if 0x30 ≤ r ∧ r < 0x40 then [⟨9, 3, .rw, 0⟩, ⟨16, 16, .rc, 0⟩]
  else if r = 0x40 then [⟨0, 13, .rw, 0x0D48⟩, ⟨13, 1, .rw, 1⟩]
  else if r = 0x44 then [⟨0, 1, .rw, 1⟩, ⟨1, 3, .rw, 7⟩, ⟨16, 16, .rc, 0⟩]
  else if r = 0x50 then [⟨0, 16, .ro, 0⟩, ⟨16, 16, .ro, 0⟩]
  else if r = 0x54 then [⟨12, 1, .w1c, 0⟩, ⟨16, 16, .rc, 0⟩]
  else []

/-- CMP block (R100, R132, R154, R273). -/
def cmpFields (r : Nat) : List Fld :=
  if r = 0x000 then [⟨0, 6, .rw, 0⟩]
  else if r = 0x004 then [⟨24, 1, .w1c, 0⟩, ⟨28, 4, .rc, 0⟩]
  else if r = 0x100 then [⟨0, 1, .rw, 1⟩, ⟨1, 1, .rw, 1⟩, ⟨2, 3, .rw, 2⟩, ⟨12, 12, .rw, 0⟩]
  else if r = 0x200 then [⟨0, 1, .w1c, 0⟩, ⟨1, 1, .rw, 1⟩, ⟨2, 2, .ro, 0⟩, ⟨4, 4, .ro, 0⟩, ⟨16, 16, .rc, 0⟩]
  else if r = 0x300 then [⟨0, 1, .rw, 0⟩, ⟨1, 1, .rw, 1⟩, ⟨4, 4, .ro, 0⟩, ⟨16, 16, .rc, 0⟩]
  else if r = 0x400 ∨ r = 0x404 then [⟨0, 32, .rw, 0⟩]
  else []

/-- BSE block (R532). -/
def bseFields (r : Nat) : List Fld :=
  if r = 0x004 then [⟨0, 7, .rw, 0⟩]
  else if r = 0x020 then [⟨0, 16, .rc, 0⟩, ⟨16, 8, .rc, 0⟩]
  else if r = 0x024 then [⟨0, 16, .rc, 0⟩, ⟨16, 8, .rc, 0⟩]
  else []

/-- The stored fields of the register at a BAR0 offset; none at a reserved offset (R519). -/
def fieldsOf (off : Nat) : List Fld :=
  if off % 4 = 0 then
    match blockOf off with
    | (.glb, _, r) => glbFields r
    | (.hif, _, r) => hifFields r
    | (.lnk, _, r) => lnkFields r
    | (.red, _, r) => redFields r
    | (.flg, _, r) => flgFields r
    | (.str, _, r) => strFields r
    | (.ant, _, r) => antFields r
    | (.upd, _, r) => updFields r
    | (.pwr, _, r) => pwrFields r
    | (.cmp, _, r) => cmpFields r
    | (.bse, _, r) => bseFields r
    | (.reserved, _, _) => []
  else []

/-- The reset value of the stored fields of a register (R13). -/
def resetWord (off : Nat) : Word :=
  BitVec.ofNat 32 ((fieldsOf off).foldl (fun w f => w + ((f.reset % 2 ^ f.n) <<< f.lo)) 0)

/-- What a latched later word of a multi-word register reads before the first word has been read (R522): its Reset value. -/
def latchReset (off : Nat) : Word :=
  if off = 0x194 then 0x1F1F0000 else if off = 0x500008 then 0x00FF0000 else 0

/-- A software write of `v` to one field of `old`, under the enabled byte mask `en` (R10, R520). RWL fields
store only while the lock is clear (R524). -/
def writeField (locked : Bool) (en v : Nat) (old : Nat) (f : Fld) : Nat :=
  let cur := bits old f.lo f.n
  let m := bits en f.lo f.n
  let nv := bits v f.lo f.n
  let stored := (cur - (cur &&& m)) ||| (nv &&& m)
  match f.acc with
  | .rw => putBits old f.lo f.n stored
  | .rwl => if locked then old else putBits old f.lo f.n stored
  | .w1c => putBits old f.lo f.n (cur - (cur &&& (nv &&& m)))
  | .w1s => putBits old f.lo f.n (cur ||| (nv &&& m))
  | .ro => old
  | .rc => old

/-- A software write of a whole word to the stored fields of a register; reserved bits stay zero (R8). -/
def writeFields (locked : Bool) (off : Nat) (en v : Nat) (old : Word) : Word :=
  BitVec.ofNat 32 ((fieldsOf off).foldl (writeField locked en v) old.toNat)

/-- What a read leaves: RC fields return to their reset value (R10). -/
def clearRc (off : Nat) (old : Word) : Word :=
  BitVec.ofNat 32 ((fieldsOf off).foldl
    (fun w f => if f.acc = .rc then putBits w f.lo f.n f.reset else w) old.toNat)

/-- The 32-bit mask of four byte enables. -/
def beMask (be : Nat) : Nat :=
  (if bit be 0 then 0xFF else 0) + (if bit be 1 then 0xFF00 else 0)
    + (if bit be 2 then 0xFF0000 else 0) + (if bit be 3 then 0xFF000000 else 0)

end Sys2Proof.Machine
end

