-- ==== Sys2Proof/Machine/Fp.lean ====
section
/-! DEFINITION. The number formats (R101 to R115, R545, R547) and their exact arithmetic: decoding a code to an
exact value, round to nearest with ties to even (R16), conversion into every format (R104, R109, R110, R112). -/
namespace Sys2Proof.Machine

/-- An exact value: NaN, an infinity, or (-1)^neg * m * 2^e, which keeps the sign of a zero. -/
inductive Fv where
  | nan
  | inf (neg : Bool)
  | fin (neg : Bool) (m : Nat) (e : Int)
  deriving DecidableEq, Repr

/-- +0. -/
def fvZero : Fv := .fin false 0 0

/-- An integer. -/
def fvInt (i : Int) : Fv := .fin (decide (i < 0)) i.natAbs 0

/-- Exponent bits, mantissa bits and bias of a floating-point format by number (R102). -/
def fmtParams (fmt : Nat) : Nat × Nat × Nat :=
  match fmt with
  | 1 => (8, 23, 127)
  | 2 => (5, 10, 15)
  | 3 => (8, 7, 127)
  | 4 => (4, 3, 7)
  | 5 => (5, 2, 15)
  | 6 => (3, 2, 3)
  | 7 => (2, 3, 1)
  | 8 => (2, 1, 1)
  | _ => (8, 23, 127)

/-- Bits of an element (R101). -/
def fmtBits (fmt : Nat) : Nat :=
  match fmt with
  | 1 => 32 | 2 => 16 | 3 => 16 | 4 => 8 | 5 => 8 | 6 => 6 | 7 => 6 | 8 => 4 | 9 => 8 | 10 => 8 | 11 => 32
  | _ => 0

/-- Formats 0x4 to 0x9 carry an E8M0 scale per block of 32 (R101). -/
def isMx (fmt : Nat) : Bool := decide (4 ≤ fmt) && decide (fmt ≤ 9)

/-- Exponent of the smallest subnormal of a floating-point format. -/
def fmtEmin (fmt : Nat) : Int :=
  let (_, mb, bias) := fmtParams fmt
  1 - (bias : Int) - (mb : Int)

/-- Decode an element code of format 0x1 to 0x8 (R102). -/
def decodeFloat (fmt code : Nat) : Fv :=
  let (eb, mb, bias) := fmtParams fmt
  let neg := bit code (eb + mb)
  let ex := bits code mb eb
  let mant := bits code 0 mb
  let top := 2 ^ eb - 1
  if decide (fmt ≤ 3) && ex == top then (if mant = 0 then .inf neg else .nan)
  else if fmt == 5 && ex == top then (if mant = 0 then .inf neg else .nan)
  else if fmt == 4 && ex == top && mant == 7 then .nan
  else if ex = 0 then .fin neg mant (1 - (bias : Int) - mb)
  else .fin neg (2 ^ mb + mant) ((ex : Int) - bias - mb)

/-- Decode an element before its block scale: formats 0x1 to 0x8 as floats, MXINT8 as code * 2^-6 (R103),
formats 0xA and 0xB as the two's-complement integer (R109, R110). -/
def decodeElem (fmt code : Nat) : Fv :=
  if fmt = 9 then
    let i := toSigned code 8
    .fin (decide (i < 0)) i.natAbs (-6)
  else if fmt = 10 then fvInt (toSigned code 8)
  else if fmt = 11 then fvInt (toSigned code 32)
  else decodeFloat fmt code

/-- Multiply by 2^k exactly. -/
def fvScale (v : Fv) (k : Int) : Fv :=
  match v with
  | .fin n m e => .fin n m (e + k)
  | x => x

/-- Change the sign. -/
def fvNeg : Fv → Fv
  | .nan => .nan
  | .inf n => .inf (!n)
  | .fin n m e => .fin (!n) m e

/-- Clear the sign. -/
def fvAbs : Fv → Fv
  | .nan => .nan
  | .inf _ => .inf false
  | .fin _ m e => .fin false m e

/-- A finite nonzero or zero value as an integer over 2^e0, for e0 not above its exponent. -/
def finAt (neg : Bool) (m : Nat) (e e0 : Int) : Int :=
  let k := (m <<< (e - e0).toNat : Nat)
  if neg then -(k : Int) else k

/-- Exact sum, signs of zeros and non-finite values as IEEE 754. -/
def fvAdd : Fv → Fv → Fv
  | .nan, _ => .nan
  | _, .nan => .nan
  | .inf a, .inf b => if a = b then .inf a else .nan
  | .inf a, .fin _ _ _ => .inf a
  | .fin _ _ _, .inf b => .inf b
  | .fin na ma ea, .fin nb mb eb =>
    let e0 := min ea eb
    let s := finAt na ma ea e0 + finAt nb mb eb e0
    if s = 0 then .fin (ma == 0 && mb == 0 && na && nb) 0 e0
    else .fin (decide (s < 0)) s.natAbs e0

/-- Exact product, non-finite values as IEEE 754. -/
def fvMul : Fv → Fv → Fv
  | .nan, _ => .nan
  | _, .nan => .nan
  | .inf a, .inf b => .inf (a != b)
  | .inf a, .fin b m _ => if m = 0 then .nan else .inf (a != b)
  | .fin a m _, .inf b => if m = 0 then .nan else .inf (a != b)
  | .fin a ma ea, .fin b mb eb => .fin (a != b) (ma * mb) (ea + eb)

/-- Exact difference. -/
def fvSub (a b : Fv) : Fv := fvAdd a (fvNeg b)

/-- Is the value a zero of either sign? -/
def fvIsZero : Fv → Bool
  | .fin _ m _ => m == 0
  | _ => false

/-- Is the value NaN or an infinity? -/
def fvNonFinite : Fv → Bool
  | .nan => true
  | .inf _ => true
  | .fin _ _ _ => false

/-- Is the value NaN? -/
def fvIsNan : Fv → Bool
  | .nan => true
  | _ => false

/-- The sign bit. -/
def fvNegBit : Fv → Bool
  | .nan => false
  | .inf n => n
  | .fin n _ _ => n

/-- `a < b` on the extended reals (NaN is below nothing). -/
def fvLt : Fv → Fv → Bool
  | .nan, _ => false
  | _, .nan => false
  | .inf a, .inf b => a && !b
  | .inf a, .fin _ _ _ => a
  | .fin _ _ _, .inf b => !b
  | .fin na ma ea, .fin nb mb eb =>
    let e0 := min ea eb
    decide (finAt na ma ea e0 < finAt nb mb eb e0)

/-- Exact sum of a list, starting at +0. -/
def fvSum (l : List Fv) : Fv := l.foldl fvAdd fvZero

/-- floor(log2 |v|) of a finite nonzero value. -/
def fvLog2 : Fv → Int
  | .fin _ m e => (Nat.log2 m : Int) + e
  | _ => 0

/-- Round m * 2^e to `mb` mantissa bits with quantum not below 2^emin, to nearest with ties to even (R16):
the result is n * 2^q. -/
def roundMag (m : Nat) (e : Int) (mb : Nat) (emin : Int) : Nat × Int :=
  if m = 0 then (0, emin)
  else
    let q := max ((Nat.log2 m : Int) + e - mb) emin
    if e ≥ q then (m <<< (e - q).toNat, q)
    else
      let sh := (q - e).toNat
      let n := m >>> sh
      let rem := m % 2 ^ sh
      let half := 2 ^ (sh - 1)
      let up := decide (half < rem) || (rem == half && n % 2 == 1)
      (if up then n + 1 else n, q)

/-- Magnitude code of n * 2^q in a format with `mb` mantissa bits; carries run into the exponent. -/
def magCode (n : Nat) (q : Int) (mb : Nat) (emin : Int) : Nat := (q - emin).toNat * 2 ^ mb + n

/-- A converted element: its code, and whether it counts as a saturation or as non-finite (R112). -/
structure Conv where
  code : Nat
  sat : Bool
  nf : Bool
  deriving DecidableEq, Repr

/-- Convert into FP32, FP16 or BF16 (R16, R112, R113): FP32 overflows to an infinity, the others saturate. -/
def convFloat (fmt : Nat) (v : Fv) : Conv :=
  let (eb, mb, _) := fmtParams fmt
  let emin := fmtEmin fmt
  let signAt := 2 ^ (eb + mb)
  let infCode := (2 ^ eb - 1) * 2 ^ mb
  match v with
  | .nan => ⟨infCode + 2 ^ (mb - 1), false, true⟩
  | .inf n => ⟨(if n then signAt else 0) + infCode, false, true⟩
  | .fin n m e =>
    let (k, q) := roundMag m e mb emin
    let c := magCode k q mb emin
    let s := if n then signAt else 0
    if c ≥ infCode then
      if fmt = 1 then ⟨s + infCode, false, true⟩ else ⟨s + infCode - 1, true, false⟩
    else ⟨s + c, false, false⟩

/-- round_fp32 to a code. -/
def toFp32 (v : Fv) : Nat := (convFloat 1 v).code

/-- An FP32 code as an exact value. -/
def ofFp32 (c : Nat) : Fv := decodeFloat 1 c

/-- round_fp32 as a value. -/
def rnd32 (v : Fv) : Fv := ofFp32 (toFp32 v)

/-- Canonical NaN in FP32 (R113). -/
def nan32 : Nat := 0x7FC00000

/-- Round a value to the nearest integer, ties to even; the magnitude and the sign. -/
def roundInt (m : Nat) (e : Int) : Nat :=
  if e ≥ 0 then m <<< e.toNat
  else
    let sh := (-e).toNat
    let n := m >>> sh
    let rem := m % 2 ^ sh
    let half := 2 ^ (sh - 1)
    if decide (half < rem) || (rem == half && n % 2 == 1) then n + 1 else n

/-- Convert into format 0xA with exponent T (R109, R112). -/
def convInt8 (v : Fv) (T : Int) : Conv :=
  match v with
  | .nan => ⟨0, false, true⟩
  | .inf n => ⟨ofSigned (if n then -127 else 127) 8, false, true⟩
  | .fin n m e =>
    let k := roundInt m (e + T)
    let s := decide (127 < k)
    let c : Int := if s then 127 else k
    ⟨ofSigned (if n then -c else c) 8, s, false⟩

/-- Convert FP32 into INT32 (R110, R112). -/
def convInt32 (v : Fv) : Conv :=
  match v with
  | .nan => ⟨0, false, true⟩
  | .inf n => ⟨if n then 0x80000000 else 0x7FFFFFFF, true, false⟩
  | .fin n m e =>
    let k := roundInt m e
    if n then (if k > 0x80000000 then ⟨0x80000000, true, false⟩ else ⟨ofSigned (-(k : Int)) 32, false, false⟩)
    else (if k > 0x7FFFFFFF then ⟨0x7FFFFFFF, true, false⟩ else ⟨k, false, false⟩)

/-! ### MX blocks (R103 to R108) -/

/-- emax(fmt) of R104, which is also etop(fmt) of R124. -/
def mxEmax (fmt : Nat) : Int :=
  match fmt with
  | 4 => 8 | 5 => 15 | 6 => 4 | 7 => 2 | 8 => 2 | _ => 0

/-- Code of maxval(fmt). -/
def mxMaxCode (fmt : Nat) : Nat :=
  match fmt with
  | 4 => 0x7E | 5 => 0x7B | 6 => 0x1F | 7 => 0x1F | 8 => 7 | _ => 127

/-- Magnitude code of grid(fmt, m * 2^e), which has no upper limit (R104). -/
def mxGrid (fmt m : Nat) (e : Int) : Nat :=
  if fmt = 9 then roundInt m (e + 6)
  else
    let (_, mb, _) := fmtParams fmt
    let emin := fmtEmin fmt
    let (n, q) := roundMag m e mb emin
    magCode n q mb emin

/-- An element code from its sign and magnitude code. -/
def mxSigned (fmt : Nat) (neg : Bool) (mag : Nat) : Nat :=
  if fmt = 9 then ofSigned (if neg then -(mag : Int) else mag) 8
  else
    let (eb, mb, _) := fmtParams fmt
    (if neg then 2 ^ (eb + mb) else 0) + mag

/-- The shared exponent X of a block whose largest finite magnitude is amax (R104), already scaled by 2^T. -/
def mxExp (fmt : Nat) (amax : Fv) : Int :=
  match amax with
  | .fin _ m e =>
    let x := fvLog2 amax - mxEmax fmt
    let x := if mxGrid fmt m (e - x) > mxMaxCode fmt then x + 1 else x
    max (-127) (min 127 x)
  | _ => -127

/-- The largest finite magnitude of a list (+0 when there is none). -/
def fvAmax (l : List Fv) : Fv :=
  l.foldl (fun acc v => if fvNonFinite v then acc else if fvLt acc (fvAbs v) then fvAbs v else acc) fvZero

/-- A converted MX block: its scale code, its element codes, its saturations and its non-finite count. -/
structure MxBlock where
  scale : Nat
  codes : List Nat
  sats : Nat
  nfs : Nat
  deriving DecidableEq, Repr

/-- Convert values that share one scale (R104, R108). `n` is how many elements a non-finite block counts. -/
def mxEncode (fmt : Nat) (T : Int) (xs : List Fv) : MxBlock :=
  let bad := xs.any fun x => match x with
    | .nan => true
    | .inf _ => fmt != 5
    | .fin _ _ _ => false
  if bad then ⟨255, xs.map fun _ => 0, 0, xs.length⟩
  else
    let ys := xs.map fun x => fvScale x T
    let amax := fvAmax ys
    let zero := fvIsZero amax
    let X := if zero then -127 else mxExp fmt amax
    let one := fun y => match y with
      | .inf n => (mxSigned 5 n 0x7C, false)
      | .nan => (0, false)
      | .fin n m e =>
        let g := if m = 0 then 0 else mxGrid fmt m (e - X)
        if g > mxMaxCode fmt then (mxSigned fmt n (mxMaxCode fmt), true) else (mxSigned fmt n g, false)
    let cs := ys.map one
    ⟨(X + 127).toNat, cs.map (·.1), (cs.filter (·.2)).length, (ys.filter fvNonFinite).length⟩

/-- Decode an MX element under its scale code and pre-scale exponent (R105, R106). -/
def mxDecode (fmt scale code : Nat) (T : Int) : Fv :=
  if scale = 255 then .nan else fvScale (decodeElem fmt code) ((scale : Int) - 127 - T)

/-! ### Division and square root, correctly rounded (R139) -/

/-- An exact quotient of finite values carried far enough to round once: 96 fraction bits and a sticky bit. -/
def divMag (ma : Nat) (ea : Int) (mb : Nat) (eb : Int) : Nat × Int :=
  let k := 96 + Nat.log2 mb
  let n := ma <<< k
  (2 * (n / mb) + (if n % mb = 0 then 0 else 1), ea - eb - k - 1)

/-- A / B before rounding. -/
def fvDiv : Fv → Fv → Fv
  | .nan, _ => .nan
  | _, .nan => .nan
  | .inf _, .inf _ => .nan
  | .inf a, .fin b _ _ => .inf (a != b)
  | .fin a _ _, .inf b => .fin (a != b) 0 0
  | .fin a ma ea, .fin b mb eb =>
    if mb = 0 then (if ma = 0 then .nan else .inf (a != b))
    else if ma = 0 then .fin (a != b) 0 0
    else
      let (n, e) := divMag ma ea mb eb
      .fin (a != b) n e

/-- Integer square root by Newton steps from above; `f` bounds the steps. -/
def isqrtGo : Nat → Nat → Nat → Nat
  | 0, _, x => x
  | f + 1, n, x =>
    let y := (x + n / x) / 2
    if y < x then isqrtGo f n y else x

/-- floor of the square root. -/
def isqrt (n : Nat) : Nat := if n = 0 then 0 else isqrtGo (Nat.log2 n + 8) n (2 ^ (Nat.log2 n / 2 + 1))

/-- √A before rounding, with a sticky bit; a negative operand gives NaN, −0 gives −0 (IEEE 754). -/
def fvSqrt : Fv → Fv
  | .nan => .nan
  | .inf n => if n then .nan else .inf false
  | .fin n m e =>
    if m = 0 then .fin n 0 0
    else if n then .nan
    else
      let k := 128 + (e % 2).toNat
      let s := m <<< k
      let r := isqrt s
      .fin false (2 * r + (if r * r = s then 0 else 1)) ((e - k) / 2 - 1)

/-! ### FP32 operations on codes -/

/-- round_fp32(a + b). -/
def f32add (a b : Nat) : Nat := toFp32 (fvAdd (ofFp32 a) (ofFp32 b))
/-- round_fp32(a - b). -/
def f32sub (a b : Nat) : Nat := toFp32 (fvSub (ofFp32 a) (ofFp32 b))
/-- round_fp32(a * b). -/
def f32mul (a b : Nat) : Nat := toFp32 (fvMul (ofFp32 a) (ofFp32 b))
/-- round_fp32(a / b). -/
def f32div (a b : Nat) : Nat := toFp32 (fvDiv (ofFp32 a) (ofFp32 b))
/-- round_fp32(√a). -/
def f32sqrt (a : Nat) : Nat := toFp32 (fvSqrt (ofFp32 a))

/-- Is the FP32 code finite? -/
def f32finite (a : Nat) : Bool := bits a 23 8 != 255

/-! ### Block sums (R89, R140) -/

/-- Add one exact block sum into an FP32 accumulator: a zero sum leaves it unchanged (R89). -/
def accBlock (acc : Nat) (s : Fv) : Nat :=
  if fvIsZero s then acc else toFp32 (fvAdd (ofFp32 acc) s)

/-- An output element from the products of its present blocks in ascending order (R89). -/
def accBlocks (start : Nat) (blocks : List (List (Fv × Fv))) : Nat :=
  blocks.foldl (fun acc b => accBlock acc (fvSum (b.map fun (x, y) => fvMul x y))) start

/-- A row sum in aligned blocks of 32 terms, starting at +0 (R140). -/
def rowSum (xs : List Fv) : Nat :=
  (chunks 32 (xs.length / 32 + 1) xs).foldl (fun acc b => accBlock acc (fvSum b)) 0

end Sys2Proof.Machine
end

