-- ==== Sys2Proof/Machine/State.lean ====
section
/-! DEFINITION. The state of the module: every register, queue, table, counter and mode the spec names, as
plain data, the commands that wait, and the state after reset. -/
namespace Sys2Proof.Machine

/-- No rule of the spec stops the module with no state to go on from: a part that fails is reported and the
module goes on, is reset, or loses power, all of which are next states. So no command faults (safe). -/
inductive Fault where
  deriving DecidableEq, Repr

/-- Why a command has no meaning. -/
inductive Refusal where
  /-- Raised by `exec` for a row whose meaning has not been written; safe, the machine does not go on. -/
  | notModelled (mnemonic : String)
  deriving DecidableEq, Repr

/-- What leaves the module at its boundary, in order: host-bound writes, MSI-X messages, the data of a host
access, flits, die messages with the module of their port, the 8-byte sideband messages of a die port, MCTP messages and pin
levels. -/
inductive Out where
  | hostWrite (addr : Nat) (data : List Byte)
  | msix (v : Nat)
  | regData (off : Nat) (words : List Word)
  | hdmData (addr : Nat) (data : List Byte) (poison : Bool)
  | flit (p : Nat) (bytes : List Byte)
  | ix (mdl : Nat) (bytes : List Byte)
  | ixSide (k : Nat) (bytes : List Byte)
  | mctp (t : Transport) (data : List Byte)
  | pin (name : String) (high : Bool)
  deriving DecidableEq, Repr

/-! ### Patterns and contexts (R208 to R274) -/

/-- State of a stage context (R244, ANT_CTX_STAT.STATE). -/
inductive CtxState where
  | empty
  | loaded
  | running
  | preempted
  | stopped
  deriving DecidableEq, Repr

/-- A loaded Pattern, its tables as the raw words of the image (R245 to R252). -/
structure Pattern where
  prog : List Nat
  tempo : List Nat
  descs : List Nat
  consts : List Nat
  regions : List Nat
  policies : List Nat
  sched : Nat
  routers : List (List Nat)
  seqd : Option Nat
  flagMap : List Nat
  modes : Nat
  decl : Nat
  digest : Nat
  deriving DecidableEq, Repr

/-- A held or eligible queue entry (R48, R213). -/
structure QEntry where
  desc : QDesc
  held : Bool
  deriving DecidableEq, Repr

/-- One queue of a context (R213 to R219): depth, buffers, entries in arrival order, the buffers named by
credits granted and not yet used, the free buffers, and the stamps accepted in the current epoch. -/
structure Queue where
  depth : Nat
  nbuf : Nat
  bufBytes : Nat
  base : Nat
  entries : List QEntry
  granted : List Nat
  free : List Nat
  seen : List Stamp
  deriving DecidableEq, Repr

/-- Where the block input of a slot lies under the offload policy (R175, R176). -/
inductive InputAt where
  | fast
  | offloading
  | slow
  | fetching
  | back
  deriving DecidableEq, Repr

/-- The routing record of one router for one slot (R194): the choices in the order of R184 (token, rank, expert, kept,
pos), the kept expert outputs (token, rank, row bytes), whether F and X have combined, whether the backward batches
have left and their sums are whole, the input gradient in FP32 per token, and the gate gradients (token, rank, FP32). -/
structure RouteRec where
  router : Nat
  choices : List (Nat × Nat × Nat × Bool × Nat)
  outs : List (Nat × Nat × List Byte)
  combined : Bool
  xDone : Bool
  sentB : Bool
  backDone : Bool
  dIn : List (List Nat)
  dGate : List (Nat × Nat × Nat)
  deriving DecidableEq, Repr

/-- A slot of work on a context: its tokens, the buffers it holds and their exponents, how far its phases have come
(`done` lists the places in a phase's list that have completed), the exponents and demotions F used (R177, R493),
the operands kept for stored pairs (R158: product, X or dY, tensor slot, values), where its block input lies and the bytes of an
offloaded one with the indices of its poisoned 64-byte units (R175, R512), its routing records (R194), and what its own instructions
have stored, the latest first: a later slot does not replace an intermediate that this one keeps (R175, log 141). -/
structure SlotWork where
  stamp : Stamp
  tokens : Nat
  aBuf : Option Nat
  gBuf : Option Nat
  aTexp : Nat
  gTexp : Nat
  fDone : Bool
  xStarted : Bool
  xDone : Bool
  bStarted : Bool
  bDone : Bool
  done : List (Nat × Nat)
  tUsed : List (Nat × Int)
  demoted : List (Nat × Nat)
  kept : List (Nat × Bool × Nat × List (List Fv))
  input : InputAt
  inBytes : List Byte
  inBad : List Nat
  routes : List RouteRec
  mem : List (Nat × List Byte)
  deriving DecidableEq, Repr

/-- A stored pair (R158): the slot, the product, X and dY, and the gradient buffer whose data it holds. -/
structure Pair where
  stamp : Stamp
  product : Nat
  x : List (List Fv)
  dy : List (List Fv)
  gBuf : Option Nat
  deriving DecidableEq, Repr

/-- A tile or vector instruction as issued. -/
inductive Work where
  | tile (op : Nat) (w : TileWords)
  | vec (vop : Nat) (w : VecWords)
  deriving DecidableEq, Repr

/-- What the writes of an instruction add to the census entry of one tensor slot (R128). -/
structure SlotCount where
  slot : Nat
  zero : Nat
  sat : Nat
  nf : Nat
  maxabs : Nat
  deriving DecidableEq, Repr

/-- The exact result of an instruction, not yet visible (R85): bytes to store, contributions to hand over (bucket
element and code), counts, the accumulators a held chain keeps, the first non-finite element (slot, row, column, kind) of
each result that has one, and the exponents it converted with. -/
structure Result where
  writes : List (Nat × List Byte)
  contrib : List (Nat × Nat)
  counts : List SlotCount
  acc : List Nat
  bad : List (Nat × Nat × Nat × Nat)
  texps : List (Nat × Int)
  deriving DecidableEq, Repr

/-- An issued instruction (R82, R85): its place in the program and in its phase's list, its stamp, the arrays it holds
(engine * 32 + logical index), the operands (0 = A, 1 = B; slot) it reads demoted since its die demoted when it was issued
(R492), whether its first pass has started, and its result. -/
structure Issued where
  idx : Nat
  pos : Nat
  work : Work
  stamp : Stamp
  arrays : List Nat
  demoted : List (Nat × Nat)
  started : Bool
  result : Result
  deriving DecidableEq, Repr

/-- An open held chain (R83): its instructions so far, the accumulators left in its arrays, and those arrays. -/
structure Chain where
  links : List (Nat × Stamp)
  acc : List Nat
  arrays : List Nat
  deriving DecidableEq, Repr

/-- A batch in a receive partition (R190), with the module that sent it. -/
structure Batch where
  sender : Nat
  hdr : BatchHdr
  idxs : List Nat
  rows : List Byte
  deriving DecidableEq, Repr

/-- The assembled input of one expert for one slot and phase (R188): router, LOCAL and stamp, one part for each source in
ascending SRC (sending module, SRC, index words), the padded rows, their size and count, whether the rows lie in the expert's
tensor slot, and whether the combine batches have left. -/
structure ExpertRun where
  router : Nat
  expert : Nat
  stamp : Stamp
  parts : List (Nat × Nat × List Nat)
  rows : List Byte
  rowbytes : Nat
  count : Nat
  placed : Bool
  returned : Bool
  deriving DecidableEq, Repr

/-- A ring block in the ring buffers (R203); `ringMerged` of the context tells which are merged. -/
structure RingBlock where
  hdr : RingHdr
  data : List Byte
  deriving DecidableEq, Repr

/-- A flag wait of a context's sequencer (R289, R290): the instruction, its place in its phase, and its
status once it has one. -/
structure SeqWait where
  idx : Nat
  stamp : Stamp
  pos : Nat
  w : FlagWords
  status : Option Nat
  deriving DecidableEq, Repr

/-- A queue entry that waits for a credit of its destination (R214). -/
structure Outgoing where
  q : Nat
  desc : QDesc
  data : List Byte
  deriving DecidableEq, Repr

/-- An open tempo block (R269): the instruction that opens it, the stamp it runs for, its origin, the first program index of it not yet
issued, and whether an array lost makes its later issues late (R271). -/
structure TempoBlock where
  idx : Nat
  stamp : Stamp
  origin : Nat
  next : Nat
  hit : Bool
  deriving DecidableEq, Repr

/-- A stage context (R208). `ringSent` names the ring blocks of this member that have gone on, by layer, stamp and the hop they
came with, 0 for its own (R201). `tempos` are the open tempo blocks, `tempoFew` whether lost arrays make issues of every block late
(R269, R271).
`remoteOps` holds the remote sets and clears whose records have not left the module (R289): program index, place in the phase,
stamp. -/
structure Ctx where
  state : CtxState
  cause : Nat
  byQuiesce : Bool
  pat : Pattern
  die : Nat
  vsBase : Nat
  fastBase : Nat
  slowBase : Nat
  regionBase : List Nat
  aq : Queue
  gq : Queue
  upCredits : List Nat
  downCredits : List Nat
  outgoing : List Outgoing
  slots : List SlotWork
  injected : List (Nat × Nat)
  phaseCount : List (Nat × Nat × Nat)
  windowsDone : List (Nat × Nat)
  wActive : Option (Nat × Nat)
  wDone : List Nat
  pairs : List Pair
  issued : List Issued
  chain : Option Chain
  wait : Option SeqWait
  batches : List Batch
  batchSeen : List (Nat × BatchHdr)
  experts : List ExpertRun
  combines : List Batch
  ringHeld : List RingBlock
  ringSeen : List RingHdr
  ringMerged : List (Nat × Stamp × Nat × Nat)
  ringSent : List (Nat × Stamp × Nat)
  opBase : Nat
  progressAt : Nat
  warned : Bool
  tempos : List TempoBlock
  tempoFew : Bool
  remoteOps : List (Nat × Nat × Stamp)
  deriving DecidableEq, Repr

/-! ### Weight versions (R224 to R240) -/

/-- State of a version slot (R224). -/
inductive VState where
  | free
  | pending
  | live
  | landing
  | restoring
  deriving DecidableEq, Repr

/-- A version slot: generation, state, bound stamps, pins, whether a rollback has taken its place as newest (R230),
and its address. -/
structure VSlot where
  gen : Nat
  state : VState
  ref : Nat
  pins : Nat
  dying : Bool
  loc : Nat
  deriving DecidableEq, Repr

/-- An entry of the weight-version table (R244). -/
structure Region where
  ctx : Nat
  localIdx : Nat
  overlap : Bool
  sharded : Bool
  frozen : Bool
  owned : Bool
  dm1 : Nat
  pins : Nat
  grp : Nat
  seqHold : Bool
  waitSlot : Bool
  landed : List Nat
  slots : List VSlot
  deriving DecidableEq, Repr

/-- A binding of a stamp on a context to a generation (R226). -/
structure Binding where
  stamp : Stamp
  ctx : Nat
  region : Nat
  gen : Nat
  deriving DecidableEq, Repr

/-- A gather request that the owner holds while its generation is PENDING (R239). -/
structure HeldGather where
  port : Nat
  srcmod : Nat
  hdr : GatherHdr
  deriving DecidableEq, Repr

/-! ### Flags (R275 to R305) -/

/-- A physical flag: its state bit and its 8-bit overrun counter (R275). -/
structure Flag where
  set : Bool
  ovr : Nat
  deriving DecidableEq, Repr

/-- FLG_MAP_BASE of one flag context (R306). -/
structure FlagMap where
  first : Nat
  nent : Nat
  owner : Nat
  valid : Bool
  poison : Bool
  cfgErr : Bool
  miss : Nat
  deriving DecidableEq, Repr

/-- Who waits on a flag. -/
inductive Waiter where
  | host (h : HostHdr) (timeoutUs : Nat)
  | seq (x : Nat)
  | remote (p mod wtag : Nat)
  | die (agent tid responder : Nat)
  deriving DecidableEq, Repr

/-- A held wait (R283, R285): the flag, the value awaited and the consume bit, in order of arrival. -/
structure Wait where
  who : Waiter
  fctx : Nat
  vflag : Nat
  key : Nat
  val : Bool
  consume : Bool
  deriving DecidableEq, Repr

/-- A wait of this module pending at module `mod` over a port (R289, R300). -/
structure FarWait where
  port : Nat
  mod : Nat
  wtag : Nat
  ctx : Nat
  deriving DecidableEq, Repr

/-- The flag store and its maps. -/
structure Flg where
  maps : List FlagMap
  store : List (Nat × Nat)
  storeOwner : List (Nat × Nat)
  pageOwner : List (Nat × Nat)
  flags : List (Nat × Flag)
  waits : List Wait
  farWaits : List FarWait
  nextTag : Nat
  sel : Nat × Nat
  deriving DecidableEq, Repr

/-! ### Stage links (R307 to R345) -/

/-- State of a port (R312). -/
inductive LinkState where
  | down
  | training
  | auth
  | up
  | degraded
  deriving DecidableEq, Repr

/-- A sequenced flit kept for replay (R322). -/
structure SentFlit where
  fseq : Nat
  bytes : List Byte
  deriving DecidableEq, Repr

/-- A transfer that waits to be sent, or is being sent, on a VC (R328, R330). `done` tells what its
acknowledgement or sending completes: a remote set or clear of a sequencer retires when its record leaves (R289); a fenced
record counts as outstanding until it is acknowledged, and its markers leave before it (R297). -/
inductive TxDone where
  | nothing
  | copy (h : HostHdr)
  | snapshot (h : HostHdr)
  | control (h : HostHdr)
  | entry (x : Nat) (o : Outgoing)
  | grants (x q : Nat)
  | partialOf (g bucket seg step : Nat)
  | flagOp (x idx pos : Nat) (st : Stamp)
  | fenced
  | marker (seq : Nat)
  deriving DecidableEq, Repr

/-- A transfer queued on a port. -/
structure TxXfer where
  vc : Nat
  dstmod : Nat
  body : List Byte
  sent : Nat
  lastSeq : Option Nat
  done : TxDone
  deriving DecidableEq, Repr

/-- A fenced record whose markers have not all left (R297): where it goes, what its leaving completes, and whether its
markers are queued. -/
structure FencedOp where
  record : FlagRec
  dst : Nat
  marked : Bool
  done : TxDone
  deriving DecidableEq, Repr

/-- A transfer whose LAST flit has not come: its bytes so far, the address of its window at the FIRST flit, whether it is
still taken (R331, R332), whether R218 refused the header of a queue entry at the FIRST flit, and how many of its flits stay in
the receive buffer: R47 holds it, or its partition has no room (R48, R190, R197). -/
structure RxXfer where
  vc : Nat
  srcmod : Nat
  dstmod : Nat
  body : List Byte
  base : Nat
  alive : Bool
  refused : Bool
  stuck : Nat
  deriving DecidableEq, Repr

/-- One port SLp. `tokens` counts thousandths of a token (R342); a `fences` entry is a VC, the SEQ kept for it and the
transfers received before that marker and not committed (R297). `ctl` holds FTYPE, DSTMOD and the 16 bytes of each VC15
record. `avail` (credits to send with), `held` (credits the partner has), `returned`, `reported`, `seenRet`, `deficit`
are per VC. `fenced` holds the fenced records that wait for their markers, `cr15` how many flits in a row have reported VC15
(R327), `stalls` the VCs whose present stall has been reported (R329); `pendingRecs` are the records received that wait for
a fence, and those received after them (R298), each with the module that sent it. -/
structure Port where
  state : LinkState
  cause : Nat
  retrain : Bool
  authed : Bool
  lanes : List Nat
  spare : Nat
  failed : Nat
  invert : Nat
  minor : Nat
  major : Nat
  ncap : Nat
  peerMod : Nat
  peerId : List Byte
  lastRec : Option (List Byte)
  rxMask : Nat
  ownRec : List Byte
  certBuf : List Byte
  leaf : Option (List Byte)
  ranAuth : Bool
  txSeq : Nat
  rxSeq : Nat
  ackSeq : Nat
  nakFor : Option Nat
  nakSent : Bool
  replays : Nat
  replayFrom : Option Nat
  retry : List SentFlit
  avail : List Nat
  held : List Nat
  returned : List Nat
  reported : List Nat
  seenRet : List Nat
  deficit : List Nat
  rr : Nat
  crRr : Nat
  tx : List TxXfer
  ctl : List (Nat × Nat × List Byte × TxDone)
  rxPart : List RxXfer
  paused : Nat
  fences : List (Nat × Nat × Nat)
  fenceSeq : Nat
  pendingRecs : List (Nat × FlagRec)
  remoteWaits : Nat
  inWrite : List (Nat × Nat × Bool)
  tokens : Nat
  tokenAt : Nat
  ctlTimes : List Nat
  dropTimes : List Nat
  parked : List TxXfer
  fenced : List FencedOp
  cr15 : Nat
  stalls : Nat
  deriving DecidableEq, Repr

/-! ### Gradient reduction (R346 to R384) -/

/-- A bucket of the bucket table (R350). -/
structure Bucket where
  grp : Nat
  id : Nat
  prec : Nat
  elems : Nat
  ctx : Nat
  far : Bool
  deriving DecidableEq, Repr

/-- A reduction value (R356): the exact sum in units of 2^-149 and the sticky flags. -/
structure RVal where
  a : Int
  nan : Bool
  pinf : Bool
  ninf : Bool
  nz : Bool
  deriving DecidableEq, Repr

/-- The slot of one segment for one step (R371): its values, which elements an input has written, who has contributed, how
many of its own elements have landed, and whether it has been sent or landed. -/
structure Seg where
  grp : Nat
  bucket : Nat
  step : Nat
  first : Nat
  vals : List RVal
  written : List Bool
  raw : List Nat
  locals_ : Nat
  inputs : List Nat
  ncontrib : Nat
  localIn : Bool
  sent : Bool
  landed : Bool
  spilled : Bool
  timedOut : Bool
  deriving DecidableEq, Repr

/-- The reduction block. -/
structure Red where
  buckets : List Bucket
  segs : List Seg
  closed : List (Nat × Nat)
  poisoned : List (Nat × Nat × Nat)
  landedStep : List Nat
  timeoutLogged : List (Nat × Nat)
  nfLogged : List (Nat × Nat)
  deriving DecidableEq, Repr

/-! ### Update (R385 to R406) -/

/-- Hyperparameters and step size latched at a STEP_BEGIN (R392), with the seeds of R152. -/
structure StepRec where
  epoch : Nat
  step : Nat
  m : Nat
  eta : Nat
  hyper : List Nat
  seeds : List Nat
  deriving DecidableEq, Repr

/-- A running update pass (R397). -/
structure Pass where
  step : Nat
  site : Nat
  deriving DecidableEq, Repr

/-- A snapshot whose bytes have not all left (R232, R405). `slot` is the state slot it pins, `regionPin` the region entry and the
place in it of the version slot it pins, which a rollback may give another generation. -/
structure Snap where
  h : HostHdr
  o : SnapOps
  slot : Option Nat
  regionPin : Option (Nat × Nat)
  data : List Byte
  deriving DecidableEq, Repr

/-- The update block. `failed` is the step whose pass a datapath fault ended; `statRows` lists the valid entries with
the rows they touch; `stats` holds the statistics words; `resWritten` says which step wrote a residual slot; `commits`
are STEP_COMMITs that wait, `stepWait` the step commands accepted behind them. -/
structure Upd where
  committed : Nat
  ready : Bool
  readyStep : Nat
  rollbackOk : Bool
  active : Nat
  udFault : Bool
  failed : Option Nat
  pass : Option Pass
  stats : List (Nat × Nat)
  statRows : List (Nat × Nat)
  resWritten : List (Nat × Nat)
  nfStep : Option Nat
  commits : List (HostHdr × Nat)
  stepWait : List Instr
  snaps : List Snap
  deriving DecidableEq, Repr

/-! ### Compute dies, base dies, power -/

/-- State of a built array (R100). -/
inductive ArrState where
  | active
  | spare
  | failed
  | untested
  deriving DecidableEq, Repr

/-- A built matrix array. -/
structure Arr where
  state : ArrState
  logical : Nat
  cause : Nat
  deriving DecidableEq, Repr

/-- A census entry (R124, R128, R132). -/
structure Census where
  tid : Nat
  valid : Bool
  psMode : Nat
  ctx : Nat
  zero : Nat
  sat : Nat
  nf : Nat
  maxabs : Nat
  uses : Nat
  texp : Int
  lastSat : Bool
  hist : List Int
  histN : Nat
  histPtr : Nat
  demote : Nat
  thrZero : Nat
  thrSat : Nat
  thrNf : Nat
  thrMax : Nat
  evt : Nat
  useOpen : Bool
  useT : Int
  useMax : Nat
  useSat : Nat
  deriving DecidableEq, Repr

/-- A load entry (R196). -/
structure Load where
  routed : Nat
  dropped : Nat
  peak : Nat
  evt : Bool
  thr : Nat
  deriving DecidableEq, Repr

/-- A compute die: its arrays, the two 32-bit registers of each PE that are not zero (R66: active weight or working
accumulator, then shadow weight or unloading accumulator; ascending key 16384 * physical array + 128 * row + column), the bytes of its
operand buffers (R33, R251), its census and load tables, and the first non-finite position (R117). -/
structure Cmp where
  arrays : List Arr
  pes : List (Nat × Nat × Nat)
  sram : List (Nat × Byte)
  census : List (Nat × Census)
  load : List (Nat × Load)
  nfRow : Nat
  nfCol : Nat
  nfTid : Nat
  nfKind : Nat
  deriving DecidableEq, Repr

/-- A version-store bank (R531, R532): the slice its spare replaces (15 = none), the slices marked for replacement in the
order of marking, its corrected errors since boot, and those attributed to one slice. -/
structure Bank where
  slice : Nat
  marks : List Nat
  ce : Nat
  sliceCe : List (Nat × Nat)
  deriving DecidableEq, Repr

/-- A base die. -/
structure Bse where
  banks : List (Nat × Bank)
  done : Bool
  hbm : List Nat
  rate : Nat
  last : Nat
  deriving DecidableEq, Repr

/-- Power, heat and pins (R483 to R501, R536). -/
structure Pwr where
  powered : Bool
  modRstLow : Bool
  perstLow : Bool
  vinOk : Bool
  pgCore : Bool
  psFaultLow : Bool
  therm : List Nat
  cool : List Nat
  pwr : Nat
  pcool : Nat
  level : List Nat
  applied : List Nat
  lastFault : Nat
  tripAgent : Nat
  deriving DecidableEq, Repr

/-! ### Boot and trust (R460 to R482) -/

/-- The security fuses (R461). -/
structure Fuses where
  rootHash : Nat
  owner : List Nat
  revoked : Nat
  rootOff : Bool
  svn : Nat
  deriving DecidableEq, Repr

/-- What the boot keeps of the configuration image (R467): stage-map records, trust anchors, Pattern signing
keys, die digests, memory rates, and the measured facts. -/
structure Image where
  stageMap : List (List Byte)
  anchors : List (List Byte)
  keys : List (List Byte)
  dieDigests : List Nat
  rates : Nat × Nat
  keysel : Nat
  svn : Nat
  imgver : Nat
  digest : Nat
  deriving DecidableEq, Repr

/-- An image-write session (R477). -/
structure Session where
  transport : Transport
  length : Nat
  data : List Byte
  committing : Bool
  deriving DecidableEq, Repr

/-- The boot state. -/
structure Boot where
  fuses : Fuses
  flash : List Byte
  image : Option Image
  step : Nat
  hold : Bool
  ready : Bool
  cause : Nat
  dieCode : Nat
  bootKind : Nat
  session : Option Session
  rstPending : Bool
  negotiated : List (Transport × Nat)
  delayedLoads : List Instr
  deriving DecidableEq, Repr

/-! ### Host interface and global block -/

/-- A ring pair (R413 to R421). -/
structure Ring where
  en : Bool
  head : Nat
  tail : Nat
  expstamp : Nat
  cqHead : Nat
  cqTail : Nat
  phase : Bool
  stale : Option Nat
  stopped : Bool
  deriving DecidableEq, Repr

/-- A completion record held while host-bound writes are stopped (R432). -/
structure HeldRec where
  h : HostHdr
  status : Nat
  result : Nat
  deriving DecidableEq, Repr

/-- A COPY whose data has not all moved (R428). -/
structure CopyJob where
  h : HostHdr
  o : CopyOps
  data : List Byte
  deriving DecidableEq, Repr

/-- A FENCE that waits (R427). -/
structure FenceJob where
  h : HostHdr
  waits : List HostHdr
  deriving DecidableEq, Repr

/-- What a context command that has not completed waits for: a pre-emption or an unload for its end (R264), any other
command for its turn behind those (R429). -/
inductive JobKind where
  | preempt
  | unload
  | later (i : Instr)
  deriving DecidableEq, Repr

/-- A context command that completes later. -/
structure CtxJob where
  x : Nat
  kind : JobKind
  urgent : Bool
  h : Option HostHdr
  deriving DecidableEq, Repr

/-- The host interface block. -/
structure Hif where
  rings : List Ring
  accepted : List HostHdr
  fences : List FenceJob
  copies : List CopyJob
  ctxJobs : List CtxJob
  quiesceJobs : List (Option HostHdr)
  held : List HeldRec
  heldIrq : List Nat
  stopped : Bool
  lossCause : Nat
  quiesced : Bool
  quiescing : Bool
  urgCount : Nat
  urgBusy : Nat
  gen : Nat
  deriving DecidableEq, Repr

/-- An entry of the error log (R527 to R529). -/
structure LogE where
  seq : Nat
  event : Nat
  status : Nat
  agent : Nat
  time : Nat
  stamp : Option Stamp
  port : Nat
  ctx : Nat
  arg : Nat
  deriving DecidableEq, Repr

/-- Interrupt state of one MSI-X vector (R530), with its entry of the MSI-X table and its bit of the pending-bit array (R407). -/
structure Vec where
  holdoff : Nat
  count : Nat
  last : Option Nat
  deferred : Bool
  addr : Nat
  data : Nat
  masked : Bool
  waiting : Bool
  deriving DecidableEq, Repr

/-- At reset the entry of the table is masked, as the MSI-X table of every PCI function (PRESUMED, log 69). -/
def Vec.reset : Vec := ⟨0, 0, none, false, 0, 0, true, false⟩

/-- The global block. `raised` and `logQ` are the model's own: the vectors raised and the log entries waiting to be placed in the
hub cycle of the present command (R515, R430). -/
structure Glb where
  time : Nat
  log : List (Option LogE)
  seq : Nat
  vecs : List Vec
  raised : List Nat
  logQ : List LogE
  dieFail : Bool
  lockByImage : Bool
  deriving DecidableEq, Repr

/-! ### Stride time -/

/-- Stride time (R37 to R65): STR_NOW, its source and count, the epoch, the accepted steps, the resolved
steps of armed event slots. -/
structure Str where
  now : Stamp
  src : Nat
  adv : Nat
  epoch : Nat
  valid : Bool
  steps : List StepRec
  evtStep : List Nat
  deriving DecidableEq, Repr

/-! ### Die ports (R437 to R459) -/

/-- What the configuration image and the stage map let a guest do (R456): its windows (base, size, may read, may write), the queues
it produces (context, queue), and the groups of which it is a member. -/
structure Guest where
  windows : List (Nat × Nat × Bool × Bool)
  produces : List (Nat × Nat)
  groups : List Nat
  deriving DecidableEq, Repr

/-- A die port: ports 0 to 3 join BDd and the hub, port 4 joins the update die and the hub; a guest port, which this
module does not have, would follow as port 5 with agent 0x10. Per module and pool, `credits` are those the partner has granted and
the hub has not used, `granted` those of the hub's grants that the partner still holds, `owed` those of its messages that have left
the hub's buffer and are not yet returned (R445). `openReqs` holds (requester, responder, TID, kind: 0 read, 1 write, 2 wait) of
what the port's agents have open; `txq` the wakes that wait for a credit; `violations` the times of violations; `iddig` the IDDIG of
the partner's record (R455); `failed` a port that has failed, which only a reset lets negotiate again (R439, R458). -/
structure DiePort where
  up : Bool
  failed : Bool
  modules : Nat
  minor : Nat
  cap : Nat
  maxlen : Nat
  credits : List (List Nat)
  granted : List (List Nat)
  owed : List (List Nat)
  openReqs : List (Nat × Nat × Nat × Nat)
  txq : List IxHdr
  violations : List Nat
  guest : Option Guest
  iddig : List Byte
  draining : Bool
  deriving DecidableEq, Repr

/-! ### The module -/

/-- The whole state of the module, and the commands that wait, first in first out. `heldArr` keeps the stamped
arrivals other than queue entries that R47 holds, as the commands that brought them (R48); `bias` the 2 MiB pages of HDM in
device bias, ascending (R407, R412); `stalled` the dispatch batches whose receive partition is full, oldest first, as the commands
that brought them (R190, R197). Both come with the flits that they keep in the receive buffer of their port (R48, R327). -/
structure State where
  regs : List (Nat × Word)
  latches : List (Nat × Word)
  glb : Glb
  hif : Hif
  ports : List Port
  red : Red
  flg : Flg
  str : Str
  ctxs : List Ctx
  regions : List (Nat × Region)
  bindings : List Binding
  heldGathers : List HeldGather
  upd : Upd
  cmps : List Cmp
  bses : List Bse
  pwr : Pwr
  boot : Boot
  dies : List DiePort
  hdm : List (Nat × Byte)
  poison : List Nat
  bias : List Nat
  sramPoison : List (Nat × Nat)
  heldArr : List (Nat × Instr)
  stalled : List (Nat × Instr)
  out : List Out
  free : Nat
  pending : List Instr
  deriving DecidableEq, Repr

/-! ### Reset values -/

/-- The empty Pattern of an empty context. -/
def Pattern.none : Pattern :=
  ⟨[], [], [], [], [], [], 0, [], .none, [], 0, 0, 0⟩

/-- A queue that owns no buffer. -/
def Queue.none : Queue := ⟨0, 0, 0, 0, [], [], [], []⟩

/-- An empty context (R495, power-on). -/
def Ctx.none : Ctx where
  state := .empty
  cause := 0
  byQuiesce := false
  pat := Pattern.none
  die := 0
  vsBase := 0
  fastBase := 0
  slowBase := 0
  regionBase := []
  aq := Queue.none
  gq := Queue.none
  upCredits := []
  downCredits := []
  outgoing := []
  slots := []
  injected := []
  phaseCount := []
  windowsDone := []
  wActive := .none
  wDone := []
  pairs := []
  issued := []
  chain := .none
  wait := .none
  batches := []
  batchSeen := []
  experts := []
  combines := []
  ringHeld := []
  ringSeen := []
  ringMerged := []
  ringSent := []
  opBase := 0
  progressAt := 0
  warned := false
  tempos := []
  tempoFew := false
  remoteOps := []

/-- FLG_MAP_BASE of context `i` at power-on: VALID and OWNER are loaded at boot (R277, R306); the OWNER of
contexts 0 to 39 is the one R277 gives, of the others 0. -/
def FlagMap.reset (i : Nat) : FlagMap :=
  ⟨0, 0, if i < 16 then i else if i < 32 then 16 else if i < 38 then 17 else if i = 38 then 18
    else if i = 39 then 19 else 0, false, false, false, 0⟩

/-- A port at reset: DOWN, lanes as LNK_LANEMAP resets (R345), nothing received or kept. -/
def Port.reset : Port where
  state := .down
  cause := 0
  retrain := false
  authed := false
  lanes := [0, 1, 2, 3]
  spare := 4
  failed := 0
  invert := 0
  minor := 0
  major := 0
  ncap := 0
  peerMod := 0
  peerId := List.replicate 32 0
  lastRec := none
  rxMask := 0
  ownRec := []
  certBuf := []
  leaf := none
  ranAuth := false
  txSeq := 0
  rxSeq := 0
  ackSeq := 4095
  nakFor := none
  nakSent := false
  replays := 0
  replayFrom := none
  retry := []
  avail := List.replicate 16 0
  held := List.replicate 16 0
  returned := List.replicate 16 0
  reported := List.replicate 16 0
  seenRet := List.replicate 16 0
  deficit := List.replicate 16 0
  rr := 0
  crRr := 0
  tx := []
  ctl := []
  rxPart := []
  paused := 0
  fences := []
  fenceSeq := 0
  pendingRecs := []
  remoteWaits := 0
  inWrite := []
  tokens := 256000
  tokenAt := 0
  ctlTimes := []
  dropTimes := []
  parked := []
  fenced := []
  cr15 := 0
  stalls := 0

/-- A ring pair at reset (R436). -/
def Ring.reset : Ring := ⟨false, 0, 0, 1, 0, 0, true, none, false⟩

/-- A census entry nothing has written (R132). -/
def Census.none : Census :=
  ⟨0, false, 0, 0, 0, 0, 0, 0, 0, 0, false, List.replicate 16 0, 0, 0, 0, 0, 0, 0, 0, 0, false, 0, 0, 0⟩

/-- A load entry nothing has written (R196). -/
def Load.none : Load := ⟨0, 0, 0, false, 0⟩

/-- A bank whose spare is unused and which holds no mark (R532). -/
def Bank.none : Bank := ⟨15, [], 0, []⟩

/-- A compute die before its self-test (R100): no array tested. -/
def Cmp.reset : Cmp :=
  ⟨List.replicate 39 ⟨.untested, 31, 0⟩, [], [], [], [], 0, 0, 0, 0⟩

/-- A base die before boot step 9. -/
def Bse.reset : Bse := ⟨[], false, [0, 0], 0, 0⟩

/-- A die port before its negotiation. -/
def DiePort.reset (k : Nat) : DiePort :=
  ⟨false, false, k, 0, 0, 0, [], [], [], [], [], [], none, [], false⟩

/-- The module as power-on leaves it, before the boot sequence has run (R13, R495): every register at its
Reset value, every context empty, every flag clear, no memory listed, READY = 0. Fields that only the
configuration image or the fuses give (the flash and the fuses) are empty: DESIGN CHOICE, log 2. -/
def State.reset : State where
  regs := []
  latches := []
  glb := ⟨0, List.replicate 32 none, 0, List.replicate 16 Vec.reset, [], [], false, false⟩
  hif := ⟨List.replicate 4 Ring.reset, [], [], [], [], [], [], [], false, 0, false, false, 0, 0, 0⟩
  ports := List.replicate 16 Port.reset
  red := ⟨[], [], [], [], List.replicate 6 0, [], []⟩
  flg := ⟨(List.range 64).map FlagMap.reset, [], [], [], [], [], [], 0, (0, 0)⟩
  str := ⟨⟨0, 0, 0, 0⟩, 255, 0, 0, false, [], List.replicate 16 0⟩
  ctxs := List.replicate 16 Ctx.none
  regions := []
  bindings := []
  heldGathers := []
  upd := ⟨0, false, 0, false, 0, false, none, none, [], [], [], none, [], [], []⟩
  cmps := List.replicate 4 Cmp.reset
  bses := List.replicate 4 Bse.reset
  pwr := ⟨true, false, false, true, true, false, [0, 0, 0, 0], [0, 0, 0, 0], 0, 0, [0, 0, 0, 0], [0, 0, 0, 0], 0, 15⟩
  boot := ⟨⟨0, [0, 0, 0, 0], 0, false, 0⟩, [], none, 0, false, false, 0, 15, 0, none, false, [], []⟩
  dies := [DiePort.reset 8, DiePort.reset 8, DiePort.reset 8, DiePort.reset 8, DiePort.reset 2]
  hdm := []
  poison := []
  bias := []
  sramPoison := []
  heldArr := []
  stalled := []
  out := []
  free := 0
  pending := []

end Sys2Proof.Machine
end

