-- ==== Sys2Proof/Machine/Ops.lean ====
section
/-! DEFINITION. The named operations every family of commands is written with: registers and their counters, the
error log and the interrupt vectors, module memory and its poison, stamps and STR_NOW, completion records. -/
namespace Sys2Proof.Machine

/-! ### Access to replicated state -/

def State.ctx (s : State) (x : Nat) : Ctx := nth Ctx.none s.ctxs x
def State.port (s : State) (p : Nat) : Port := nth Port.reset s.ports p
def State.ring (s : State) (n : Nat) : Ring := nth Ring.reset s.hif.rings n
def State.cmp (s : State) (d : Nat) : Cmp := nth Cmp.reset s.cmps d
def State.bse (s : State) (d : Nat) : Bse := nth Bse.reset s.bses d
def State.map (s : State) (f : Nat) : FlagMap := nth (FlagMap.reset f) s.flg.maps f

/-- Change context `x`; an index above 15 names none. -/
def modCtx (x : Nat) (f : Ctx → Ctx) (s : State) : State := { s with ctxs := modNth f s.ctxs x }
/-- Change port SLp. -/
def modPort (p : Nat) (f : Port → Port) (s : State) : State := { s with ports := modNth f s.ports p }
/-- Change ring pair `n`. -/
def modRing (n : Nat) (f : Ring → Ring) (s : State) : State :=
  { s with hif := { s.hif with rings := modNth f s.hif.rings n } }
/-- Change compute die `d`. -/
def modCmp (d : Nat) (f : Cmp → Cmp) (s : State) : State := { s with cmps := modNth f s.cmps d }
/-- Change base die `d`. -/
def modBse (d : Nat) (f : Bse → Bse) (s : State) : State := { s with bses := modNth f s.bses d }
/-- Change the flag map of context `c`. -/
def modMap (c : Nat) (f : FlagMap → FlagMap) (s : State) : State :=
  { s with flg := { s.flg with maps := modNth f s.flg.maps c } }

/-- The logic side has power and no reset pin is low (R483, R537). -/
def State.awake (s : State) : Bool := s.pwr.powered && !s.pwr.modRstLow && !s.pwr.perstLow
/-- The module runs: awake, and GLB_STAT.READY = 1 (R472). -/
def State.live (s : State) : Bool := s.awake && s.boot.ready

/-- Leaves the module (model's own record of the boundary). -/
def emit (o : Out) (s : State) : State := { s with out := s.out ++ [o] }

/-- Draw one free value of the model's own counter (log 13). -/
def drawn (s : State) : Nat := Config.freeValue s.free
/-- The counter after a draw. -/
def spend (s : State) : State := { s with free := s.free + 1 }

/-! ### Registers (R10, R12) -/

def regGet (s : State) (off : Nat) : Nat := (tabGet resetWord s.regs off).toNat
def regPut (off v : Nat) (s : State) : State :=
  { s with regs := tabSet resetWord s.regs off (BitVec.ofNat 32 v) }
/-- A field of a stored register. -/
def fld (s : State) (off lo n : Nat) : Nat := bits (regGet s off) lo n
/-- Hardware writes a field of a stored register. -/
def setFld (off lo n v : Nat) (s : State) : State := regPut off (putBits (regGet s off) lo n v) s
/-- A counter field rises by `k` and stops at its top. -/
def bump (off lo n k : Nat) (s : State) : State :=
  setFld off lo n (satAdd (2 ^ n - 1) (fld s off lo n) k) s
/-- Hardware sets one bit. -/
def setBit (off i : Nat) (s : State) : State := setFld off i 1 1 s

/-- GLB_CFG_LOCK.LOCK (R524). -/
def State.locked (s : State) : Bool := fld s oCfgLock 0 1 == 1

/-! ### Interrupts (R530) -/

def State.vec (s : State) (v : Nat) : Vec := nth Vec.reset s.glb.vecs v
/-- Change vector `v`. -/
def modVec (v : Nat) (f : Vec → Vec) (s : State) : State := { s with glb := { s.glb with vecs := modNth f s.glb.vecs v } }

/-- A message for vector `v` leaves the module and counts in COUNT. -/
def sendMsix (v : Nat) (s : State) : State :=
  emit (.msix v) (modVec v (fun u =>
    { u with count := satAdd 0xFFFF u.count 1, last := some s.glb.time, deferred := false, waiting := false }) s)

/-- The holdoff of vector `v` has elapsed (R530, R63). -/
def holdoffOver (s : State) (v : Nat) : Bool :=
  match (s.vec v).last with
  | none => true
  | some t => decide ((s.vec v).holdoff * 1000 ≤ (s.glb.time + 2 ^ 64 - t) % 2 ^ 64)

/-- Send the message of vector `v` as far as MASK, a host loss, the MSI-X table and the holdoff allow (R530, R432): a vector masked
in the table waits in the pending-bit array (R407). -/
def messageFor (v : Nat) (s : State) : State :=
  if bit (fld s oIrqMask 0 16) v then s
  else if s.hif.stopped then
    if s.hif.heldIrq.contains v then s else { s with hif := { s.hif with heldIrq := s.hif.heldIrq ++ [v] } }
  else if (s.vec v).masked then modVec v (fun u => { u with waiting := true }) s
  else if holdoffOver s v then sendMsix v s
  else modVec v (fun u => { u with deferred := true }) s

/-- One message for vector `v` at the end of the hub cycle, however often it is asked for: after every record of the cycle (R430,
R515). -/
def sendLater (v : Nat) (s : State) : State :=
  if s.glb.raised.contains v then s else { s with glb := { s.glb with raised := v :: s.glb.raised } }

/-- Raise MSI-X vector `v` (R530). -/
def raise (v : Nat) (s : State) : State := sendLater v (setBit oIrqRaw v s)

/-- The MSI-X table and the pending-bit array return to their reset values (R495). -/
def maskTable (s : State) : State :=
  { s with glb := { s.glb with vecs := s.glb.vecs.map fun u => { u with addr := 0, data := 0, masked := true, waiting := false } } }
/-- The host has set the MSI-X table (log 69): a vector that waits in the pending-bit array sends its message. -/
def unmaskTable (s : State) : State :=
  (upto 16).foldl (fun s v => if (s.vec v).waiting then sendLater v (modVec v (fun u => { u with waiting := false }) s) else s)
    { s with glb := { s.glb with vecs := (upto s.glb.vecs.length).map fun v =>
        { s.vec v with addr := (Config.msixEntry v).1, data := (Config.msixEntry v).2, masked := false } } }

/-- Raise `v` when `b` holds. -/
def raiseIf (b : Bool) (v : Nat) (s : State) : State := if b then raise v s else s

/-- The stage-context vector of context `x` (R435). -/
def ctxVec (x : Nat) : Nat := 6 + x % 10

/-! ### Error log (R528, R529) -/

/-- Detail of a log entry beside event, status and agent; a field not named reads 0x1F or 0 (R529). -/
structure LogInfo where
  stamp : Option Stamp := none
  port : Nat := 0x1F
  ctx : Nat := 0x1F
  arg : Nat := 0
  deriving DecidableEq, Repr

/-- Queue a log entry of the present hub cycle. -/
def logEv (event status agent : Nat) (i : LogInfo) (s : State) : State :=
  let e : LogE := ⟨0, event, status, agent, s.glb.time, i.stamp, i.port, i.ctx, i.arg⟩
  { s with glb := { s.glb with logQ := s.glb.logQ ++ [e] } }

/-- Order of the entries of one hub cycle (R515). -/
def logKey (e : LogE) : Nat := e.event * 2 ^ 20 + e.agent * 2 ^ 15 + e.port * 2 ^ 8 + e.ctx

/-- Put one entry into the lowest free slot, or count it in LOST (R528). -/
def placeEntry (s : State) (e : LogE) : State :=
  match findIdxN (fun o => Option.isNone o) s.glb.log 0 with
  | some i =>
    let log := modNth (fun _ => some { e with seq := s.glb.seq }) s.glb.log i
    { s with glb := { s.glb with log := log, seq := (s.glb.seq + 1) % 2 ^ 32 } }
  | none => bump oErrCtl 16 16 1 s

/-- Place the entries of the hub cycle in the order of R515. -/
def flushLog (s : State) : State :=
  (sortBy logKey s.glb.logQ).foldl placeEntry { s with glb := { s.glb with logQ := [] } }

/-! Agent IDs of the hub and the update die (R440). -/
def agHub : Nat := 8
def agUd : Nat := 9

/-! ### Stamps (R37 to R39, R61) -/

/-- Rank of a phase code (R38). -/
def phaseRank (c : Nat) : Nat :=
  match c with
  | 0 => 0 | 6 => 1 | 1 => 2 | 2 => 3 | 3 => 4 | 4 => 5 | 5 => 6 | _ => 7

def phF : Nat := 0
def phX : Nat := 6
def phB : Nat := 1
def phW : Nat := 2
def phReduce : Nat := 3
def phUpdate : Nat := 4
def phCommit : Nat := 5

/-- stride_key of R39. -/
def strideKey (t : Stamp) : Nat := t.step * 2 ^ 20 + t.slot * 16 + phaseRank t.phase

/-- stride_ahead of R39. -/
def strideAhead (a b : Stamp) : Bool := a.epoch == b.epoch && decide (strideKey b < strideKey a)

/-- The 80-bit value of a stamp (R37). -/
def packStamp (t : Stamp) : Nat :=
  (t.epoch % 2 ^ 16) * 2 ^ 64 + (t.step % 2 ^ 40) * 2 ^ 24 + (t.slot % 2 ^ 16) * 256 + (t.phase % 16) * 16

/-- The stamp in an 80-bit value; the reserved bits are ignored (R9). -/
def unpackStamp (v : Nat) : Stamp := ⟨bits v 64 16, bits v 24 40, bits v 8 16, bits v 4 4⟩

/-- The low 64 bits of a stamp (R426). -/
def low64 (t : Stamp) : Nat := packStamp t % 2 ^ 64

/-- gen_newer of R61. -/
def genNewer (a b : Nat) : Bool :=
  let d := (a + 4096 - b % 4096) % 4096
  decide (1 ≤ d) && decide (d ≤ 2047)

/-- The committed step c. -/
def State.c (s : State) : Nat := s.upd.committed

/-- The accepted STEP_BEGIN of step `n`, when the module holds one (R44). -/
def State.stepRec (s : State) (n : Nat) : Option StepRec := s.str.steps.find? (fun r => r.step == n)

/-- Offer a stamp to STR_NOW (R51). -/
def offerNow (t : Stamp) (src : Nat) (s : State) : State :=
  if strideAhead t s.str.now then { s with str := { s.str with now := t, src := src } } else s

/-- Set STR_NOW exactly (R52); a setting to the value already held leaves SRC (R65). -/
def setNow (t : Stamp) (s : State) : State :=
  if s.str.now = t then s else { s with str := { s.str with now := t, src := 0xFF } }

/-- Class of a stamped arrival, as the order row of R47. -/
inductive ArrivalClass where
  | malformed | early | foreign | stale | ahead | current
  deriving DecidableEq, Repr

/-- R47: the first row that matches. -/
def classify (s : State) (t : Stamp) : ArrivalClass :=
  if phaseRank t.phase = 7 then .malformed
  else if !s.str.valid then .early
  else if t.epoch ≠ s.str.epoch then .foreign
  else if t.step ≤ s.c then .stale
  else if t.step > s.c + 2 then .ahead
  else .current

/-- Order row of R47 for the log argument (R529). -/
def ArrivalClass.row : ArrivalClass → Nat
  | .malformed => 1
  | .early => 2
  | .foreign => 3
  | .stale => 4
  | .ahead => 5
  | .current => 6

/-- What R47 does with an arrival: accept it, hold it, or discard it. -/
inductive Verdict where
  | accept | hold | discard (row : Nat)
  deriving DecidableEq, Repr

/-- The action column of R47. -/
def verdict (s : State) (t : Stamp) : Verdict :=
  match classify s t with
  | .malformed => .discard 1
  | .early => .hold
  | .foreign => if fld s oStrCfg 1 1 = 1 then .hold else .discard 3
  | .stale => .discard 4
  | .ahead => .discard 5
  | .current => .accept

/-- R47 for the messages of a gather. Their stamp names the commit of the generation at the requester (R238), a step that row
4 would call stale at the requester always; that row is left out, the others hold (log 60). -/
def gatherVerdict (s : State) (t : Stamp) : Verdict :=
  match verdict s t with
  | .discard row => if row = 4 then .accept else .discard row
  | v => v

/-- The count, the entry and the vector of a discard (R49). -/
def discardLog (event status : Nat) (i : LogInfo) (s : State) : State :=
  raiseIf (fld s oStrCfg 0 1 == 1) 1 (logEv event status agHub i (bump oStrCfg 16 16 1 s))

/-! ### Module memory (R410, R512) -/

def fastTop : Nat := 0x4800000000
def vsLo : Nat := 0x6000000000
def vsTop : Nat := 0x6100000000
def slowLo : Nat := 0x8000000000
def slowTop : Nat := 0x10000000000

/-- The memory range of R410 that holds an HDM address; none in a hole. -/
def memRange (a : Nat) : Option (Nat × Nat) :=
  if a < fastTop then some (0, fastTop)
  else if vsLo ≤ a ∧ a < vsTop then some (vsLo, vsTop)
  else if slowLo ≤ a ∧ a < slowTop then some (slowLo, slowTop)
  else none

/-- `n` bytes from `a` lie wholly inside one memory range of R410. -/
def inOneRange (a n : Nat) : Bool :=
  match memRange a with
  | some (_, hi) => decide (a + n ≤ hi)
  | none => false

/-- What a byte of module memory that nothing has written reads as (DESIGN CHOICE, log 3). -/
def hdmDefault (_ : Nat) : Byte := 0

def memByte (s : State) (a : Nat) : Byte := tabGet hdmDefault s.hdm a
/-- `n` bytes of module memory from `a`. -/
def memRead (s : State) (a n : Nat) : List Byte := (upto n).map fun i => memByte s (a + i)
/-- `n` bytes as a little-endian number. -/
def memNat (s : State) (a n : Nat) : Nat := leNat (memRead s a n)

/-- Store bytes one after another, keeping the canonical form. -/
def putBytes (m : List (Nat × Byte)) : Nat → List Byte → List (Nat × Byte)
  | _, [] => m
  | a, b :: t => putBytes (tabSet hdmDefault m a b) (a + 1) t

/-- Does one write of `n` bytes from `a` cover the 64-byte unit at `u` whole? -/
def coversUnit (a n u : Nat) : Bool := decide (a ≤ u) && decide (u + 64 ≤ a + n)

/-- Store bytes in module memory; a write that covers a poisoned unit whole ends the poison (R512). -/
def memWrite (a : Nat) (d : List Byte) (s : State) : State :=
  { s with hdm := putBytes s.hdm a d, poison := s.poison.filter fun u => !coversUnit a d.length u }

/-! Bias of the 2 MiB pages of HDM (R407, R412, log 134): it changes no data. -/

/-- Pages of `n` bytes from `a`. -/
def biasPages (a n : Nat) : List Nat :=
  if n = 0 then [] else (upto ((a + n - 1) / 2 ^ 21 + 1 - a / 2 ^ 21)).map (a / 2 ^ 21 + ·)
/-- The arrays, the update die or the receive path of a stage link write: the pages turn to device bias. -/
def devWrite (a : Nat) (d : List Byte) (s : State) : State :=
  let new := (biasPages a d.length).filter fun p => !s.bias.contains p
  { memWrite a d s with bias := if new.isEmpty then s.bias else sortBy id (s.bias ++ new) }
/-- A host access turns its pages back to host bias. -/
def hostBias (a n : Nat) (s : State) : State := { s with bias := s.bias.filter fun p => !(biasPages a n).contains p }

/-- The unit that holds `a` is poisoned. -/
def poisoned (s : State) (a : Nat) : Bool := s.poison.contains (a / 64 * 64)
/-- Some unit of the `n` bytes from `a` is poisoned. -/
def anyPoison (s : State) (a n : Nat) : Bool :=
  s.poison.any fun u => decide (u < a + n) && decide (a < u + 64)

/-! ### Completion records (R415, R418, R426, R432) -/

/-- Accepted commands of ring `n` without a written record: OUTST (R436). -/
def outst (s : State) (n : Nat) : Nat := (s.hif.accepted.filter fun h => h.ring == n).length

def cqBase (s : State) (n : Nat) : Nat := regGet s (oCqBase n + 4) * 2 ^ 32 + fld s (oCqBase n) 12 20 * 4096
def cqSlots (s : State) (n : Nat) : Nat := 16 * 2 ^ fld s (oCqSize n) 0 4
def sqBase (s : State) (n : Nat) : Nat := fld s (oSqBase n + 4) 0 8 * 2 ^ 32 + fld s (oSqBase n) 12 20 * 4096
def sqSlots (s : State) (n : Nat) : Nat := 16 * 2 ^ fld s (oSqSize n) 0 4

/-- The 16 bytes of a completion record (R418). -/
def recordBytes (tag status sstamp result : Nat) (phase : Bool) : List Byte :=
  leBytes 16 (tag % 2 ^ 32 + status % 256 * 2 ^ 32 + b2n phase * 2 ^ 40 + sstamp % 2 ^ 16 * 2 ^ 48
    + result % 2 ^ 64 * 2 ^ 64)

/-- Write one record at CQ_TAIL, advance CQ_TAIL and invert PHASE at a wrap (R418). -/
def writeRecord (n tag status sstamp result : Nat) (s : State) : State :=
  let r := s.ring n
  let last := decide (r.cqTail + 1 ≥ cqSlots s n)
  modRing n (fun r => { r with cqTail := if last then 0 else r.cqTail + 1, phase := r.phase != last })
    (emit (.hostWrite (cqBase s n + 16 * r.cqTail) (recordBytes tag status sstamp result r.phase)) s)

/-- Take a command out of the accepted ones. -/
def dropAccepted (h : HostHdr) (s : State) : State :=
  { s with hif := { s.hif with accepted := dropFirst (fun a => a == h) s.hif.accepted } }

/-- A command completes with a status and a result (R418): its record is written; on a ring that has been
disabled it is not, and counts in DISC_CNT (R415); while host-bound writes are stopped it is held (R432). -/
def completeWith (h : HostHdr) (status result : Nat) (s : State) : State :=
  let n := h.ring % 4
  if !(s.ring n).en then bump (oSqSize n) 16 8 1 (dropAccepted h s)
  else if s.hif.stopped then
    raiseIf h.irq 0 { s with hif := { s.hif with held := s.hif.held ++ [⟨h, status, result⟩] } }
  else raiseIf h.irq 0 (writeRecord n h.tag status h.sstamp result (dropAccepted h s))

/-- A command completes; RESULT is the low half of STR_NOW (R426). -/
def complete (h : HostHdr) (status : Nat) (s : State) : State := completeWith h status (low64 s.str.now) s

/-- Complete when the command came from a ring; an urgent action writes no record (R434). -/
def completeOpt (h : Option HostHdr) (status : Nat) (s : State) : State :=
  match h with
  | some h => complete h status s
  | none => s

/-! Completion status codes (R424). -/
def stOk : Nat := 0x00
def stResources : Nat := 0x01
def stFormat : Nat := 0x02
def stVersion : Nat := 0x03
def stOwnerLost : Nat := 0x04
def stEarly : Nat := 0x05
def stHostLost : Nat := 0x06
def stNonfinite : Nat := 0x07
def stAbandoned : Nat := 0x08
def stPeerAbsent : Nat := 0x09
def stTimeout : Nat := 0x0A
def stPrivilege : Nat := 0x0B
def stExhausted : Nat := 0x0C
def stDegraded : Nat := 0x0D

/-! ### One command, one hub cycle -/

/-- The commands a FENCE still waits for (R427). -/
def fenceWaits (s : State) (f : FenceJob) : Bool := f.waits.any fun w => s.hif.accepted.contains w

/-- Complete the first FENCE whose commands have all completed with their records visible; `k` bounds how many. -/
def resolveFences : Nat → State → State
  | 0, s => s
  | k + 1, s =>
    match s.hif.fences.find? (fun f => !fenceWaits s f) with
    | none => s
    | some f => resolveFences k
        (complete f.h stOk { s with hif := { s.hif with fences := dropFirst (fun g => g == f) s.hif.fences } })

/-- ADV_CNT counts the hub cycles in which STR_NOW took another value (R65); a reset, after which no epoch stands, leaves it at 0
(R495). -/
def countAdv (s0 s : State) : State :=
  if s.str.now = s0.str.now ∨ s.str.valid = false then s else { s with str := { s.str with adv := (s.str.adv + 1) % 2 ^ 32 } }

/-- The messages of the hub cycle leave, in the order in which their vectors were first raised (R430, R530). -/
def flushIrq (s : State) : State := s.glb.raised.reverse.foldl (fun s v => messageFor v s) s

/-- Start of the hub cycle of a command. -/
def beginCycle (s : State) : State := { s with glb := { s.glb with raised := [], logQ := [] } }

/-- End of the hub cycle: fences, ADV_CNT, the messages, the log (R427, R65, R430, R515). -/
def settle (s0 s : State) : State := flushLog (flushIrq (countAdv s0 (resolveFences s.hif.fences.length s)))

/-- A command whose effect is `f`, in one hub cycle. -/
def run (f : State → State) (s : State) : Host.Outcome State Fault Refusal := .next (settle s (f (beginCycle s)))

/-- A command that reaches the module only while it runs (R472): otherwise it changes nothing. -/
def runLive (f : State → State) (s : State) : Host.Outcome State Fault Refusal :=
  if s.live then run f s else .next s

/-- A command that reaches the module whenever the logic side has power and is out of reset. -/
def runAwake (f : State → State) (s : State) : Host.Outcome State Fault Refusal :=
  if s.awake then run f s else .next s

/-! ### Tempo blocks (R269, R272) -/

/-- A fixed-tempo die is inside a tempo block: the origin of one has come, its last instruction has not completed, and its context
still runs it. -/
def inTempoBlock (s : State) (d : Nat) : Bool :=
  fld s (oCmp d 0x300) 0 1 == 1 && s.ctxs.any fun c => c.die == d && !c.tempos.isEmpty && (c.state == .running || !c.issued.isEmpty)

/-! ### Arrivals in the receive buffer (R48, R197, R327) -/

/-- The port and the VC that a stamped arrival other than a queue entry came by (R325). -/
def arrivedBy (i : Instr) : Option (Nat × Nat) :=
  match i with
  | .moeBatchArrival port _ _ h _ _ => port.map fun p => (p, 4 + h.dir)
  | .ringBlockArrival p _ _ _ _ => some (p, 6)
  | .gatherRequest p _ _ => some (p, 7)
  | .gatherResponse p _ _ _ => some (p, 7)
  | .reductionPartialArrival p vc _ _ _ => some (p, vc)
  | _ => none

/-- The arrival came over port `p`. -/
def cameOver (p : Nat) (i : Instr) : Bool := match arrivedBy i with | some r => r.1 == p | none => false

/-- The credits of `n` flits of a VC return: their content has left the receive buffer of the port. -/
def creditBack (p vc n : Nat) (s : State) : State :=
  modPort p (fun q => { q with returned := modNth (fun k => (k + n) % 4096) q.returned vc }) s

/-- The flits that an arrival keeps leave the receive buffer. -/
def flitsLeave (q : Nat × Instr) (s : State) : State :=
  match arrivedBy q.2 with
  | some r => creditBack r.1 r.2 q.1 s
  | none => s

/-- The last of a list keeps `n` flits. -/
def lastKeeps (n : Nat) (l : List (Nat × Instr)) : List (Nat × Instr) := modNth (fun q => (n, q.2)) l (l.length - 1)

/-- An arrival has been taken: one that is held or stalls keeps its `n` flits of a VC in the receive buffer, else they leave it. -/
def keepFlits (p vc n : Nat) (was s : State) : State :=
  if n = 0 then s
  else if was.stalled.length < s.stalled.length then { s with stalled := lastKeeps n s.stalled }
  else if was.heldArr.length < s.heldArr.length then { s with heldArr := lastKeeps n s.heldArr }
  else creditBack p vc n s

/-- Transfers of port `p` that have not come whole give back the flits that nothing keeps in the receive buffer any more:
`stays` tells which keep theirs. -/
def releaseOpen (stays : Nat → RxXfer → Bool) (s : State) : State :=
  (upto 16).foldl (fun s p => ((s.port p).rxPart.filter fun r => r.stuck != 0 && !stays p r).foldl (fun s r =>
    creditBack p r.vc r.stuck (modPort p (fun q => { q with
      rxPart := q.rxPart.map fun u => if u.vc = r.vc then { u with stuck := 0 } else u }) s)) s) s

/-- Flits of a VC in the receive buffer of port `p` (R345). -/
def flitsHeld (s : State) (p vc : Nat) : Nat :=
  sumNat (((s.port p).rxPart.filter fun r => r.vc == vc).map (·.stuck))
    + sumNat (((s.heldArr ++ s.stalled).filter fun q => arrivedBy q.2 == some (p, vc)).map (·.1))

/-- Held arrivals that `p` selects go; their flits leave the buffers. -/
def dropHeld (p : Instr → Bool) (s : State) : State :=
  (s.heldArr.filter fun q => p q.2).foldl (fun s q => flitsLeave q s) { s with heldArr := s.heldArr.filter fun q => !p q.2 }

/-- Stalled batches that `p` selects go; their flits leave the buffers. -/
def dropStalled (p : Instr → Bool) (s : State) : State :=
  (s.stalled.filter fun q => p q.2).foldl (fun s q => flitsLeave q s) { s with stalled := s.stalled.filter fun q => !p q.2 }

end Sys2Proof.Machine
end

