-- ==== Sys2Proof/Machine/Tensor.lean ====
section
/-! DEFINITION. Tensors in memory (R107, R108, R547): where elements and scales lie, reading with poison (R512),
and converting rows and bands of values into stored bytes with the counts of R128. -/
namespace Sys2Proof.Machine

/-- A stored tensor: where its element plane starts, its stored shape, format, square scaling and T. -/
structure Tens where
  addr : Nat
  rows : Nat
  cols : Nat
  fmt : Nat
  sq : Bool
  texp : Int
  deriving DecidableEq, Repr

/-- Bytes from one row to the next (R107, R547). -/
def Tens.rowBytes (t : Tens) : Nat := roundUp (cdiv (t.cols * fmtBits t.fmt) 8) 64
/-- Start of the scale plane: the next 4 KiB boundary behind the element plane (log 142). -/
def Tens.scaleAt (t : Tens) : Nat := roundUp (t.addr + t.rows * t.rowBytes) 4096
/-- Blocks of 32 in a row. -/
def Tens.rowBlocks (t : Tens) : Nat := cdiv t.cols 32
/-- Address of the scale byte of the block that holds element (i, j). -/
def Tens.scaleOf (t : Tens) (i j : Nat) : Nat :=
  t.scaleAt + (if t.sq then i / 32 else i) * t.rowBlocks + j / 32
/-- Bytes of the whole tensor. -/
def Tens.bytes (t : Tens) : Nat :=
  let e := t.rows * t.rowBytes
  if isMx t.fmt then roundUp e 4096 + (if t.sq then cdiv t.rows 32 else t.rows) * t.rowBlocks else e

/-! ### Reading (R102, R106, R109, R512) -/

/-- Where bytes are read: the byte at an address, and whether its 64-byte unit is poisoned. -/
structure Reader where
  byte : Nat → Byte
  bad : Nat → Bool

/-- `n` bytes as a number. -/
def Reader.num (r : Reader) (a n : Nat) : Nat := leNat ((upto n).map fun i => r.byte (a + i))
/-- Is any of `n` bytes in a poisoned unit? -/
def Reader.anyBad (r : Reader) (a n : Nat) : Bool := r.bad a || r.bad (a + (n - 1))

/-- Code of element (i, j). -/
def Tens.code (t : Tens) (r : Reader) (i j : Nat) : Nat :=
  let w := fmtBits t.fmt
  let bitAt := j * w
  bits (r.num (t.addr + i * t.rowBytes + bitAt / 8) ((w + 15) / 8)) (bitAt % 8) w

/-- Value of element (i, j), with its block scale and T. -/
def Tens.value (t : Tens) (r : Reader) (i j : Nat) : Fv :=
  let w := fmtBits t.fmt
  let rowAt := t.addr + i * t.rowBytes
  if isMx t.fmt then
    let blk := rowAt + j / 32 * (4 * w)
    if r.anyBad blk (4 * w) || r.bad (t.scaleOf i j) then .nan
    else mxDecode t.fmt (r.byte (t.scaleOf i j)).toNat (t.code r i j) t.texp
  else if r.anyBad (rowAt + j * w / 8) (w / 8) then (if t.fmt ≤ 3 then .nan else fvZero)
  else if t.fmt = 10 then fvScale (decodeElem 10 (t.code r i j)) (-t.texp)
  else decodeElem t.fmt (t.code r i j)

/-- Byte `p` of the tensor as a consumer in the module reads it, for what is sent on or copied (R512): a canonical NaN or a zero for
an element in a poisoned unit, and the NaN scale for a block with one. The one scale of a square stands for all of it (log 161). -/
def Tens.cleanByte (t : Tens) (r : Reader) (p : Nat) : Byte :=
  if isMx t.fmt then
    let w := 4 * fmtBits t.fmt
    let k := p - t.scaleAt
    let i := k / max 1 t.rowBlocks
    let rows := if t.sq then (upto 32).map (32 * i + ·) else [i]
    if p < t.scaleAt then (if r.bad p then 0 else r.byte p)
    else if r.bad p || rows.any (fun i => decide (i < t.rows) && r.anyBad (t.addr + i * t.rowBytes + k % max 1 t.rowBlocks * w) w) then 0xFF
    else r.byte p
  else if !r.bad p then r.byte p
  else if 1 ≤ t.fmt ∧ t.fmt ≤ 3 then
    let w := fmtBits t.fmt / 8
    nth 0 (leBytes w (convFloat t.fmt .nan).code) ((p - t.addr) % max 1 w)
  else 0

/-- The tensor's bytes as a consumer reads them. -/
def Tens.clean (t : Tens) (r : Reader) : Reader := ⟨t.cleanByte r, fun _ => false⟩

/-- Row `i`, first `n` elements. -/
def Tens.row (t : Tens) (r : Reader) (i n : Nat) : List Fv := (upto n).map fun j => t.value r i j

/-- The leading m × n block as rows of values. -/
def Tens.read (t : Tens) (r : Reader) (m n : Nat) : List (List Fv) := (upto m).map fun i => t.row r i n

/-! ### Writing (R104, R107, R112, R128) -/

/-- Bytes to store, and the counts of the conversion: saturations, non-finite elements, zeros stored. -/
structure Put where
  writes : List (Nat × List Byte)
  sats : Nat
  nfs : Nat
  zeros : Nat
  deriving DecidableEq, Repr

def Put.none : Put := ⟨[], 0, 0, 0⟩
def Put.add (p q : Put) : Put := ⟨p.writes ++ q.writes, p.sats + q.sats, p.nfs + q.nfs, p.zeros + q.zeros⟩
def Put.all (l : List Put) : Put := l.foldl Put.add Put.none

/-- Convert one value into a format without block scales. -/
def convScalar (fmt : Nat) (T : Int) (v : Fv) : Conv :=
  if fmt = 10 then convInt8 v T else if fmt = 11 then convInt32 v else convFloat fmt v

/-- Codes packed one after another, lowest bits first (R107). -/
def packCodes (w : Nat) : List Nat → Nat
  | [] => 0
  | c :: t => c % 2 ^ w + 2 ^ w * packCodes w t

/-- Elements stored as a zero of either sign. -/
def zeroCodes (fmt : Nat) (cs : List Nat) : Nat := (cs.filter fun c => fvIsZero (decodeElem fmt c)).length

/-- The bytes of codes from column `c` of row `i`; the end of a row is filled with zeros to its 64-byte boundary. -/
def Tens.rowWrite (t : Tens) (i c : Nat) (codes : List Nat) : Nat × List Byte :=
  let w := fmtBits t.fmt
  let n := if c + codes.length = t.cols then t.rowBytes - c * w / 8 else codes.length * w / 8
  (t.addr + i * t.rowBytes + c * w / 8, leBytes n (packCodes w codes))

/-- Store one MX block from column `c` of row `i`; a non-finite block counts 32 (R104, R128). -/
def Tens.blockPut (t : Tens) (i c : Nat) (xs : List Fv) : Put :=
  let b := mxEncode t.fmt t.texp xs
  ⟨[t.rowWrite i c b.codes, (t.scaleOf i c, [BitVec.ofNat 8 b.scale])], b.sats, if b.scale = 255 then 32 else b.nfs,
    if b.scale = 255 then 0 else zeroCodes t.fmt b.codes⟩

/-- Cut a run that starts at column `c` at multiples of 32. -/
def cutBlocks : Nat → Nat → List Fv → List (Nat × List Fv)
  | 0, _, _ => []
  | _, _, [] => []
  | f + 1, c, l =>
    let n := 32 - c % 32
    (c, l.take n) :: cutBlocks f (c + n) (l.drop n)

/-- Store a run of values from column `c` of row `i`, 1-D blocks or no blocks. -/
def Tens.runPut (t : Tens) (i c : Nat) (vals : List Fv) : Put :=
  if isMx t.fmt then Put.all ((cutBlocks (vals.length + 1) c vals).map fun b => t.blockPut i b.1 b.2)
  else
    let cs := vals.map (convScalar t.fmt t.texp)
    let codes := cs.map (·.code)
    ⟨[t.rowWrite i c codes], (cs.filter (·.sat)).length, (cs.filter (·.nf)).length, zeroCodes t.fmt codes⟩

/-- Store one square of a square-scaled band whose rows start at row `i`, from column `c` (R108); each of its blocks counts 32 when
it is non-finite (R128). -/
def Tens.squarePut (t : Tens) (i c : Nat) (rows : List (List Fv)) : Put :=
  let part := rows.map fun r => (r.drop c).take 32
  let b := mxEncode t.fmt t.texp part.flatten
  let width := (part.headD []).length
  let codes := chunks width (rows.length) b.codes
  let rowsW := (upto codes.length).map fun k => t.rowWrite (i + k) c (nth [] codes k)
  ⟨rowsW ++ [(t.scaleOf i c, [BitVec.ofNat 8 b.scale])], b.sats, if b.scale = 255 then 32 * rows.length else b.nfs,
    if b.scale = 255 then 0 else zeroCodes t.fmt b.codes⟩

/-- Store a band of up to 32 whole rows that starts at row `i`. -/
def Tens.bandPut (t : Tens) (i : Nat) (rows : List (List Fv)) : Put :=
  Put.all ((upto (cdiv (rows.headD []).length 32)).map fun b => t.squarePut i (32 * b) rows)

/-- Store rows of values as the leading block of the tensor. -/
def Tens.put (t : Tens) (rows : List (List Fv)) : Put :=
  if t.sq && isMx t.fmt then
    let bands := chunks 32 (rows.length / 32 + 1) rows
    Put.all ((upto bands.length).map fun b => t.bandPut (32 * b) (nth [] bands b))
  else Put.all ((upto rows.length).map fun i => t.runPut i 0 (nth [] rows i))

end Sys2Proof.Machine
end

