-- ==== Sys2Proof/Machine/Program.lean ====
section
/-! DEFINITION. The content of a loaded Pattern (R79, R121, R138, R165, R175, R181, R198, R249 to R252): instruction words,
tensor descriptors and the tensors they place, and which instructions each phase of a slot or a window runs. -/
namespace Sys2Proof.Machine

/-! ### Schedule words (R209) -/

def Ctx.sched (c : Ctx) : Nat := bits c.pat.sched 0 2
def Ctx.wplace (c : Ctx) : Nat := bits c.pat.sched 2 2
def Ctx.overlap (c : Ctx) : Bool := bit c.pat.sched 4
def Ctx.first (c : Ctx) : Bool := bit c.pat.sched 5
def Ctx.last (c : Ctx) : Bool := bit c.pat.sched 6
def Ctx.stage (c : Ctx) : Nat := bits c.pat.sched 8 12
def Ctx.group (c : Ctx) : Nat := bits c.pat.sched 20 4
def Ctx.inflightMax (c : Ctx) : Nat := bits c.pat.sched 64 16
def Ctx.window (c : Ctx) : Nat := bits c.pat.sched 80 16

/-- Slots in flight: from the start of F until B completes (R210). -/
def Ctx.inflight (c : Ctx) : Nat := (c.slots.filter fun w => !w.bDone).length

/-! ### Instruction words (R79, R138) -/

def progOp (v : Nat) : Nat := bits v 0 8
/-- A tile instruction. -/
def isTile (v : Nat) : Bool := decide (1 ≤ progOp v) && decide (progOp v ≤ 3)
/-- A flag instruction. -/
def isFlagOp (v : Nat) : Bool := decide (0x10 ≤ progOp v) && decide (progOp v ≤ 0x12)
/-- A vector instruction. -/
def isVec (v : Nat) : Bool := decide (0x80 ≤ progOp v)

/-- The fields of a tile instruction. -/
def tileOf (v : Nat) : TileWords :=
  ⟨bit v 8, bit v 9, bit v 10, bits v 11 1, bits v 16 4, bits v 20 4, bits v 24 4, bits v 28 3, bits v 32 3, bits v 35 3,
    bits v 40 24, bits v 64 16, bits v 80 16, bits v 96 16, bits v 112 8⟩

/-- The fields of a vector instruction. -/
def vecOf (v : Nat) : VecWords :=
  ⟨bits v 8 4, bits v 12 4, bits v 16 4, bits v 20 4, bits v 24 8, bits v 32 24, bits v 56 8, bits v 64 16, bits v 80 16,
    bits v 96 16, bits v 112 16⟩

/-- The fields of a flag instruction (R287). -/
def flagOf (v : Nat) : FlagWords :=
  ⟨bit v 8, bit v 9, bit v 10, bit v 11, bits v 32 24, bits v 56 6, bits v 64 8, bits v 80 16⟩

/-- M, N and K of a tile instruction. -/
def tileM (w : TileWords) : Nat := 32 <<< w.mlog
def tileN (w : TileWords) : Nat := 32 <<< w.nlog
def tileK (w : TileWords) : Nat := 32 * w.kb
/-- 2:4 sparsity and block mask of SPARSE. -/
def tileTwo4 (w : TileWords) : Bool := bit w.sparse 0
def tileMask (w : TileWords) : Bool := bit w.sparse 1

/-- Vector operations that read B. -/
def readsB (vop : Nat) : Bool :=
  [0x80, 0x81, 0x82, 0x83, 0x84, 0x86, 0x87, 0x92, 0x93, 0x95, 0xA3, 0xA4, 0xA8].contains vop
/-- Vector operations that read A. -/
def readsA (vop : Nat) : Bool := vop != 0xB0
/-- Vector operations that read D. -/
def readsD (vop : Nat) : Bool := vop == 0x83 || vop == 0x92
/-- Vector operations that write D. -/
def writesD (vop td : Nat) : Bool := (vop == 0xA0 || vop == 0x94 || vop == 0xB1) && td != 0

/-- Slots an instruction reads. -/
def Work.reads : Work → List Nat
  | .tile op w => [w.ta, w.tb] ++ (if w.cont && op != 3 then [w.tc] else [])
  | .vec vop w => if vop < 0x80 then [] else (if readsA vop then [w.ta] else []) ++ (if readsB vop then [w.tb] else [])
      ++ (if readsD vop then [w.td] else [])
/-- Slots an instruction writes. -/
def Work.writes : Work → List Nat
  | .tile _ w => [w.tc]
  | .vec vop w => if vop < 0x80 then [] else w.tc :: (if writesD vop w.td then [w.td] else [])

/-- The format in which an instruction writes slot `t`. -/
def Work.fmtOf (i : Work) (t : Nat) : Nat :=
  match i with
  | .tile _ w => w.fmtC
  | .vec _ w => if t = w.tc then w.fmtC else w.fmtB

/-- The instruction in a program word. -/
def workOf (v : Nat) : Work := if isTile v then .tile (progOp v) (tileOf v) else .vec (progOp v) (vecOf v)

/-! ### Tensor descriptors (R121, R249) -/

/-- Descriptor of a tensor slot; slot 0 names none. -/
def Ctx.desc (c : Ctx) (slot : Nat) : Nat := if slot = 0 then 0 else nth 0 c.pat.descs (slot - 1)
def dTid (d : Nat) : Nat := bits d 0 24
def dKind (d : Nat) : Nat := bits d 24 4
def dFmt (d : Nat) : Nat := bits d 32 4
def dSq (d : Nat) : Bool := bit d 36
def dPsMode (d : Nat) : Nat := bits d 37 2
def dCensus (d : Nat) : Bool := bit d 39
def dTexp (d : Nat) : Int := toSigned (bits d 40 9) 9
def dHr (d : Nat) : Nat := bits d 49 3
def dCslot (d : Nat) : Nat := bits d 52 8
def dDemote (d : Nat) : Bool := bit d 60
def dOffset (d : Nat) : Nat := bits d 64 40
def dSpace (d : Nat) : Nat := bits d 104 2
def dPlanes (d : Nat) : Nat := bits d 128 2
def dRows (d : Nat) : Nat := bits d 160 24
def dCols (d : Nat) : Nat := bits d 192 24
def dMeta (d : Nat) : Nat := bits d 224 16
def dRegion (d : Nat) : Nat := bits d 240 16
/-- Queue named by a KIND 0x2 descriptor. -/
def dQueue (d : Nat) : Nat := bits d 64 1
/-- Product index and MATRIX of a KIND 0x3 descriptor. -/
def dProduct (d : Nat) : Nat := bits d 64 16
def dMatrix (d : Nat) : Nat := bits d 80 2
/-- Bucket words of a KIND 0x1 descriptor (R165). -/
def dBucket (d : Nat) : Nat := bits d 64 16
def dGrp (d : Nat) : Nat := bits d 80 3
def dPrec (d : Nat) : Nat := bits d 83 1
def dBOffset (d : Nat) : Nat := bits d 96 32
def dStride (d : Nat) : Nat := bits d 128 24

/-! ### The stored tensor of a descriptor (R107, R547, R548) -/

/-- Rows that the element plane of a descriptor stores: under 2:4, half of the logical rows (R548). -/
def storedRows (d : Nat) (two4 : Bool) : Nat := if two4 then dRows d / 2 else dRows d

/-- The format in which an instruction reads or writes an operand: the one that the instruction names, or the descriptor's where
it names none (0). Nothing in the spec makes the two equal (log 138). -/
def fmtOr (d f : Nat) : Nat := if f = 0 then dFmt d else f

/-- The tensor of a descriptor at address `p`, in format `f`, with exponent `T`. -/
def storedTens (d : Nat) (two4 : Bool) (p f : Nat) (T : Int) : Tens := ⟨p, storedRows d two4, dCols d, fmtOr d f, dSq d, T⟩

/-- Bytes of a row of the operand in a TMM_W slot. -/
def pairRowBytes (d : Nat) : Nat := roundUp (cdiv (dCols d * fmtBits (dFmt d)) 8) 64

/-- Bytes of a row of `n` elements on its own: its elements, then its scales where the format has them (R187, log 46). -/
def rowSpan (fmt n : Nat) : Nat :=
  let q : Tens := ⟨0, 1, n, fmt, false, 0⟩
  q.rowBytes + (if isMx fmt then roundUp q.rowBlocks 64 else 0)

/-- A weight descriptor whose metadata hold a 2:4 index plane stores half of its rows. -/
def Ctx.storesHalf (c : Ctx) (d : Nat) : Bool := dMeta d != 0 && bit (dPlanes (c.desc (dMeta d))) 0

/-- Bytes that a descriptor's tensor takes (R107, R547, R548). -/
def tensorBytes (c : Ctx) (d : Nat) : Nat :=
  if dPlanes d ≠ 0 then
    let mask := cdiv (dRows d) 32 * roundUp (cdiv (cdiv (dCols d) 32) 8) 64
    let idx := dRows d / 4 * roundUp (cdiv (dCols d) 2) 64
    if !bit (dPlanes d) 1 then idx else if bit (dPlanes d) 0 then roundUp mask 4096 + idx else mask
  else
    (storedTens d (c.storesHalf d) 0 0 0).bytes

/-- A weight descriptor of the region that a bucket-bound slot names, which carries its sparsity metadata (R81, R548). -/
def sparseWeight (c : Ctx) (tc : Nat) : Option Nat :=
  c.pat.descs.find? fun d => dKind d == 0 && dRegion d == dRegion (c.desc tc) && dMeta d != 0

/-- Sparsity metadata that an instruction reads beside its operands (R81, R92, R93). -/
def Ctx.metaSlots (c : Ctx) : Work → List Nat
  | .tile op w =>
    if w.sparse = 0 then [] else
      match (if op = 3 then sparseWeight c w.tc else Option.some (c.desc w.tb)) with
      | some d => if dMeta d = 0 then [] else [dMeta d]
      | .none => []
  | .vec _ _ => []

/-! ### Declaration, regions, policies (R171, R175, R224, R250, R251) -/

/-- Word `i`, bits `lo` up, of the resource declaration. -/
def Pattern.declAt (p : Pattern) (i lo n : Nat) : Nat := bits p.decl (32 * i + lo) n
def Ctx.need (c : Ctx) (eng : Nat) : Nat := if eng = 0 then c.pat.declAt 0 8 4 else c.pat.declAt 0 16 5
def Ctx.want (c : Ctx) (eng : Nat) : Nat := if eng = 0 then c.pat.declAt 0 12 4 else c.pat.declAt 0 21 5
def Ctx.tempo (c : Ctx) : Bool := bit c.pat.modes 0
def Ctx.degrade (c : Ctx) : Bool := bit c.pat.modes 1

/-- MASK of a region entry: 0 full, 1 frozen, 2 adapter. -/
def rMask (r : Nat) : Nat := bits r 0 2
/-- Does any block recompute or offload? The policies of a stage act together (log 40). -/
def Ctx.needsX (c : Ctx) : Bool := c.pat.policies.any fun w => bits w 0 2 == 1 || bits w 0 2 == 2
/-- Does any block offload its input? -/
def Ctx.offloads (c : Ctx) : Bool := c.pat.policies.any fun w => bits w 0 2 == 2
/-- Fetch-back depth D: the largest LOOKAHEAD of an offloaded block. -/
def Ctx.lookahead (c : Ctx) : Nat := maxNat ((c.pat.policies.filter fun w => bits w 0 2 == 2).map fun w => bits w 2 4)

/-! ### Routers (R181, R183) -/

/-- Word `i` of router `r`: four descriptor words, then the expert map. -/
def Ctx.routerWord (c : Ctx) (r i : Nat) : Nat := nth 0 (nth [] c.pat.routers r) i
def Ctx.nExperts (c : Ctx) (r : Nat) : Nat := bits (c.routerWord r 0) 0 10 + 1
def Ctx.nRanks (c : Ctx) (r : Nat) : Nat := bits (c.routerWord r 0) 10 3 + 1
def Ctx.loadBase (c : Ctx) (r : Nat) : Nat := bits (c.routerWord r 1) 0 10
def Ctx.nSources (c : Ctx) (r : Nat) : Nat := bits (c.routerWord r 1) 10 8 + 1
def Ctx.tIdx (c : Ctx) (r : Nat) : Nat := bits (c.routerWord r 2) 0 16
def Ctx.tGate (c : Ctx) (r : Nat) : Nat := bits (c.routerWord r 2) 16 16
def Ctx.tTok (c : Ctx) (r : Nat) : Nat := bits (c.routerWord r 3) 0 16
def Ctx.tOut (c : Ctx) (r : Nat) : Nat := bits (c.routerWord r 3) 16 16
/-- OWNER, LOCAL and OCTX of expert `e`. -/
def Ctx.expertAt (c : Ctx) (r e : Nat) : Nat × Nat × Nat :=
  let w := c.routerWord r (4 + e)
  (bits w 0 8, bits w 8 10, bits w 18 4)

/-- Capacity of every expert for a micro-batch of `t` tokens (R183). -/
def Ctx.capacity (c : Ctx) (r t : Nat) : Nat :=
  let cf := bits (c.routerWord r 0) 16 16
  if cf = 0 then t else min t (32 * cdiv (cf * c.nRanks r * t) (32 * c.nExperts r * 256))

/-! ### Phase lists (log 41) -/

/-- The phase of each instruction of a program, from the tile instruction that precedes it: TMM_F in F, TMM_B in B,
TMM_W in W. A flag instruction runs at its place in the same phase; its code is 16 above (log 84). -/
def phaseCodes : Nat → List Nat → List Nat
  | _, [] => []
  | ph, v :: t =>
    if isTile v then
      let p := if progOp v = 1 then phF else if progOp v = 2 then phB else phW
      p :: phaseCodes p t
    else (if isVec v then ph else ph + 16) :: phaseCodes ph t

/-- Places of the tile and vector instructions of a phase, in program order. -/
def Ctx.listOf (c : Ctx) (ph : Nat) : List Nat :=
  let codes := phaseCodes phF c.pat.prog
  (upto codes.length).filter fun i => nth 15 codes i == ph

/-- Places of the tile, vector and flag instructions of a phase, in program order. -/
def Ctx.runOf (c : Ctx) (ph : Nat) : List Nat :=
  let codes := phaseCodes phF c.pat.prog
  (upto codes.length).filter fun i => nth 15 codes i == ph || nth 15 codes i == ph + 16

def Ctx.workAt (c : Ctx) (i : Nat) : Work := workOf (nth 0 c.pat.prog i)

/-- Places of the forward products, in program order; the product index of R249 counts them. -/
def Ctx.products (c : Ctx) : List Nat := (upto c.pat.prog.length).filter fun i => progOp (nth 0 c.pat.prog i) == 1

/-- Slots that phase B reads, and the inputs of the products whose pairs a TMM_W reads (R175). -/
def Ctx.neededSlots (c : Ctx) : List Nat :=
  let b := (c.listOf phB).flatMap fun i => (c.workAt i).reads
  let prods := c.products
  let pairs := c.pat.descs.filter fun d => dKind d == 3
  b ++ pairs.map fun d => match c.workAt (nth 0 prods (dProduct d)) with | .tile _ w => w.ta | .vec _ _ => 0

/-- Going backward over F, keep an instruction that writes a needed slot, and need what it reads. -/
def keepNeeded (c : Ctx) : List Nat → List Nat → List Nat
  | _, [] => []
  | need, i :: t =>
    let w := c.workAt i
    if w.writes.any need.contains then i :: keepNeeded c (need ++ w.reads) t else keepNeeded c need t

/-- Places of the instructions that phase X runs again (R175). -/
def Ctx.listX (c : Ctx) : List Nat := (keepNeeded c c.neededSlots (c.listOf phF).reverse).reverse

/-- Local indices of the regions that instructions of phase F read, in ascending order (R226, log 20). -/
def Ctx.fRegions (c : Ctx) : List Nat :=
  let read := ((c.listOf phF).flatMap fun i => (c.workAt i).reads).flatMap fun t => [t, dMeta (c.desc t)]
  let named := (read.filter fun t => t != 0 && dKind (c.desc t) == 0).map fun t => dRegion (c.desc t)
  (upto c.pat.regions.length).filter named.contains

/-- The list of a phase of a slot; X repeats no flag instruction. -/
def Ctx.phaseList (c : Ctx) (ph : Nat) : List Nat := if ph = phX then c.listX else c.runOf ph

/-! ### Windows and the units of phase W (R160 to R162) -/

/-- Window of a slot. -/
def windowOf (n slot : Nat) : Nat := if n = 0 then 0 else slot / n
/-- First and last slot of window `w` of a step of `m` micro-batches. -/
def windowSlots (n m w : Nat) : Nat × Nat := if n = 0 then (0, m - 1) else (w * n, min ((w + 1) * n) m - 1)

/-- One TMM_W to issue in a window: its place, and the slot of its pair in held-chain form. -/
structure Unit_ where
  idx : Nat
  slot : Option Nat
  body : Bool
  deriving DecidableEq, Repr

/-- Walk the W list. `i` counts the instructions of the chain that is open. -/
def unitsGo (c : Ctx) (m w : Nat) : Nat → List Nat → List Unit_
  | _, [] => []
  | i, p :: t =>
    match c.workAt p with
    | .vec _ _ => ⟨p, none, false⟩ :: unitsGo c m w i t
    | .tile _ t' =>
      let n := c.window
      if !t'.hold && !t'.cont then ⟨p, none, false⟩ :: unitsGo c m w i t
      else if n = 0 then
        if t'.hold then (upto m).map (fun s => ⟨p, some s, true⟩) ++ unitsGo c m w 0 t
        else ⟨p, none, true⟩ :: unitsGo c m w 0 t
      else ⟨p, some (w * n + i), true⟩ :: unitsGo c m w (if t'.hold then i + 1 else 0) t

/-- The units of window `w` of a step of `m` micro-batches, in program order. -/
def Ctx.units (c : Ctx) (m w : Nat) : List Unit_ := unitsGo c m w 0 (c.runOf phW)

/-- Does the context have a TMM_W at all? -/
def Ctx.hasW (c : Ctx) : Bool := !(c.listOf phW).isEmpty

end Sys2Proof.Machine
end

