-- ==== Sys2Proof/Machine/Arrays.lean ====
section
/-! DEFINITION. The matrix arrays (R33, R97 to R100), their allotment to contexts (R261 to R263) and the fold of a tile
instruction (R67, R86). Arrays are coded engine * 32 + logical index. -/
namespace Sys2Proof.Machine

/-! ### Built arrays (R97, R100) -/

/-- Engine of a physical array: 13 forward ones come first. -/
def physEngine (p : Nat) : Nat := if p < 13 then 0 else 1
def Cmp.arr (c : Cmp) (p : Nat) : Arr := nth ⟨.untested, 31, 0⟩ c.arrays p
/-- Physical arrays of an engine. -/
def enginePhys (e : Nat) : List Nat := (upto 39).filter fun p => physEngine p == e
/-- Arrays of an engine in a state. -/
def Cmp.inState (c : Cmp) (e : Nat) (st : ArrState) : List Nat := (enginePhys e).filter fun p => (c.arr p).state == st
/-- FWD_ACTIVE or BWD_ACTIVE. -/
def Cmp.active (c : Cmp) (e : Nat) : Nat := (c.inState e .active).length
/-- Full active count of an engine. -/
def fullActive (e : Nat) : Nat := if e = 0 then 12 else 24

/-- R97 on one engine: logical indices go to the healthy arrays in ascending physical order. -/
def mapEngine (e : Nat) (bad : List Nat) : List (Nat × Arr) :=
  let good := (enginePhys e).filter fun p => !bad.contains p
  (good.zip (upto good.length)).map (fun g => (g.1, if g.2 < fullActive e then ⟨.active, g.2, 0⟩ else ⟨.spare, 31, 0⟩))
    ++ ((enginePhys e).filter bad.contains).map fun p => (p, ⟨.failed, 31, 1⟩)

/-- The array map after the self-test of a boot (R97, R99): `bad` failed it. -/
def selfTest (bad : List Nat) (c : Cmp) : Cmp :=
  let m := mapEngine 0 bad ++ mapEngine 1 bad
  { c with pes := [], arrays := (upto 39).map fun p => ((m.find? fun e => e.1 == p).map (·.2)).getD ⟨.untested, 31, 0⟩ }

/-! ### Allotment (R261) -/

/-- Contexts of die `d` that hold their REQ: running or pre-empted. -/
def holders (s : State) (d : Nat) : List Nat :=
  (upto 16).filter fun x => (s.ctx x).die == d && ((s.ctx x).state == .running || (s.ctx x).state == .preempted)

/-- One round of the distribution over running contexts. -/
def dealRound (s : State) (e : Nat) : List (Nat × Nat) → Nat → List (Nat × Nat) × Nat
  | [], left => ([], left)
  | (x, n) :: t, left =>
    let c := s.ctx x
    if left = 0 ∨ c.state ≠ .running ∨ c.want e ≤ n then
      let r := dealRound s e t left
      ((x, n) :: r.1, r.2)
    else
      let r := dealRound s e t (left - 1)
      ((x, n + 1) :: r.1, r.2)

/-- Rounds until nothing is left or wanted; `f` bounds them. -/
def deal (s : State) (e : Nat) : Nat → List (Nat × Nat) → Nat → List (Nat × Nat)
  | 0, l, _ => l
  | f + 1, l, left => let r := dealRound s e l left; deal s e f r.1 r.2

/-- Arrays of an engine allotted to each holder on die `d`. -/
def allotment (s : State) (d e : Nat) : List (Nat × Nat) :=
  let hs := (holders s d).map fun x => (x, (s.ctx x).need e)
  let active := (s.cmp d).active e
  deal s e 24 hs (active - sumNat (hs.map (·.2)))

/-- Arrays of an engine allotted to context `x`. -/
def allotted (s : State) (x e : Nat) : Nat :=
  match (allotment s (s.ctx x).die e).find? (fun a => a.1 == x) with
  | some a => a.2
  | none => 0

/-- The logical arrays allotted to `x`: contexts take consecutive indices in ascending context number (log 42). -/
def allottedArrays (s : State) (x e : Nat) : List Nat :=
  let before := sumNat (((allotment s (s.ctx x).die e).filter fun a => decide (a.1 < x)).map (·.2))
  (upto (allotted s x e)).map fun i => e * 32 + before + i

/-- A TMM_W of a held chain (R83). -/
def Work.inChain : Work → Bool
  | .tile 3 w => w.hold || w.cont
  | _ => false
/-- A TMM_W that leaves its accumulators in its arrays. -/
def Work.holds : Work → Bool
  | .tile 3 w => w.hold
  | _ => false

/-- Arrays that the next TMM_W of a held chain continues on: those of its last link, issued or complete (R83). -/
def Ctx.linkArrays (c : Ctx) : Option (List Nat) :=
  match (c.issued.filter (·.work.holds)).getLast? with
  | some i => some i.arrays
  | .none => c.chain.map (·.arrays)

/-- Arrays that the open held chains of the contexts of a die keep, from the issue of their first link (R83). -/
def chainArrays (s : State) (d : Nat) : List Nat :=
  (s.ctxs.filter fun c => c.die == d && c.state != .empty).flatMap fun c => c.linkArrays.getD []

/-- An array of instruction `i` is not free: an instruction in progress runs on it (R82, log 162), or, for a link of a chain, one
issued before it is still to run there (R83). -/
def arraysBusy (c : Ctx) (i : Issued) : Bool :=
  c.issued.any fun j => (j.started || (i.work.inChain && !j.work.inChain)) && j.arrays.any i.arrays.contains

/-! ### Fold (R67, R86) -/

/-- Packing p and cycle factor c of the wider operand format. -/
def packing (fa fb : Nat) : Nat × Nat :=
  if fa = 1 ∨ fb = 1 then (1, 2)
  else if fa = 2 ∨ fa = 3 ∨ fb = 2 ∨ fb = 3 then (1, 1)
  else if fa = 8 ∧ fb = 8 then (4, 1)
  else (2, 1)

/-- Products of a block (R67). -/
def blockLen (fa fb : Nat) : Nat := if fa = 1 ∨ fb = 1 then 8 else 32

/-- Largest j with nN * 2^(j+1) ≤ A and M / 2^(j+1) ≥ 128 reached step by step. -/
def splitM (nN m a : Nat) : Nat → Nat → Nat
  | 0, j => j
  | f + 1, j => if nN * 2 ^ (j + 1) ≤ a ∧ 128 ≤ m / 2 ^ (j + 1) then splitM nN m a f (j + 1) else j

/-- Arrays used, passes and stream cycles per pass. -/
structure Fold where
  used : Nat
  passes : Nat
  stream : Nat
  deriving DecidableEq, Repr

/-- fold of R86. `kept b n` counts the kept blocks of K-block `b` in the four column groups of slice `n`; `cells` are the
output cells of a TMM_W. -/
def fold (op m n k fa fb : Nat) (two4 mask : Bool) (a cells : Nat) (kept : Nat → Nat → Nat) : Fold :=
  let (p, c) := packing fa fb
  if op = 3 then
    let used := min a (cdiv cells 16)
    ⟨used, cdiv cells (16 * used), c * k / p⟩
  else
    let lanes := if two4 && op == 1 then 8 * p else 4 * p
    let width := if two4 && op == 2 then 64 else 32
    let kb := k / 32
    let ng := cdiv n width
    if !mask && decide (kb ≤ lanes / 2) then
      let q := cdiv ng 2
      let used := min a (cdiv q 4)
      ⟨used, cdiv q (4 * used), c * m⟩
    else if !mask then
      let nK := cdiv kb lanes
      let nN := cdiv ng 4
      let j := splitM nN m a 8 0
      let used := min a (nN * 2 ^ j)
      ⟨used, nK * cdiv (nN * 2 ^ j) used, c * m / 2 ^ j⟩
    else
      let used := min a (cdiv ng 4)
      let slices := fun i => (upto (cdiv ng 4)).filter fun t => t % used == i
      let rows := fun i => sumNat ((upto kb).map fun b => cdiv (sumNat ((slices i).map (kept b))) 4)
      ⟨used, maxNat ((upto used).map fun i => cdiv (rows i) lanes), c * m⟩

/-! ### Stops below REQ (R263) -/

/-- A context stops with a cause (R242). -/
def stopCtx (x cause : Nat) (s : State) : State := modCtx x (fun c => { c with state := .stopped, cause := cause }) s

/-- Stop the highest holder of die `d` while an engine has fewer active arrays than the sum of REQ. -/
def stopBelow (d : Nat) : Nat → State → State
  | 0, s => s
  | f + 1, s =>
    let short := (upto 2).any fun e => decide ((s.cmp d).active e < sumNat ((holders s d).map fun x => (s.ctx x).need e))
    match (holders s d).getLast? with
    | some x =>
      if short then
        stopBelow d f (raise (ctxVec x) (logEv 0x03 stDegraded d { ctx := x } (stopCtx x stDegraded s)))
      else s
    | none => s

end Sys2Proof.Machine
end

