-- ==== Sys2Proof/Machine/Census.lean ====
section
/-! DEFINITION. The tensor census and the running estimate (R123 to R131), the load statistics (R196) and the
non-finite flag (R116 to R120). -/
namespace Sys2Proof.Machine

/-! ### Entries (R129, R132) -/

/-- Index of the census entry of slot `cs` of context `x`. -/
def censusKey (x cs : Nat) : Nat := 256 * x + cs
def censusDefault (_ : Nat) : Census := Census.none
def loadDefault (_ : Nat) : Load := Load.none
def censusAt (s : State) (d k : Nat) : Census := tabGet censusDefault (s.cmp d).census k
/-- Change entry `k` of die `d`. -/
def modCensus (d k : Nat) (f : Census → Census) (s : State) : State :=
  modCmp d (fun c => { c with census := tabSet censusDefault c.census k (f (tabGet censusDefault c.census k)) }) s
def loadAt (s : State) (d i : Nat) : Load := tabGet loadDefault (s.cmp d).load i
/-- Change load entry `i` of die `d`. -/
def modLoad (d i : Nat) (f : Load → Load) (s : State) : State :=
  modCmp d (fun c => { c with load := tabSet loadDefault c.load i (f (tabGet loadDefault c.load i)) }) s

/-- CMP_CENSUS_CTL.EN, IRQ_EN and the head-room of a descriptor. -/
def censusOn (s : State) (d : Nat) : Bool := fld s (oCmp d 0x100) 0 1 == 1
def censusIrq (s : State) (d : Nat) : Bool := fld s (oCmp d 0x100) 1 1 == 1
def headroom (s : State) (d hr : Nat) : Nat := if hr = 7 then fld s (oCmp d 0x100) 2 3 else hr

/-! ### The running estimate (R124, R125) -/

/-- Largest element of a list of exponents. -/
def maxExp : List Int → Int
  | [] => -128
  | e :: t => t.foldl max e

/-- The history entries held: the last hist_n written. -/
def Census.held (e : Census) : List Int := if e.histN = 16 then e.hist else e.hist.take e.histN

/-- prescale_t: none asks for the measuring pre-pass. -/
def prescaleT (e : Census) (fmt h : Nat) : Option Int :=
  if e.histN = 0 then none
  else
    let t := mxEmax fmt - (h : Int) - maxExp e.held
    let t := if e.lastSat then min t (e.texp - 1) else t
    some (max (-256) (min 255 t))

/-- T of the measuring pre-pass, from the largest finite magnitude of the inputs (R125). -/
def measuredT (fmt h : Nat) (amax : Fv) : Int := if fvIsZero amax then 0 else mxEmax fmt - (h : Int) - fvLog2 amax

/-- end_of_use on the fields that an ended use records; the history belongs to running-estimate tensors only: PS_MODE 2 (R124). -/
def endOfUse (ps : Nat) (e : Census) : Census :=
  let e1 := { e with texp := e.useT, lastSat := decide (0 < e.useSat), uses := (e.uses + 1) % 2 ^ 32 }
  if ps = 2 ∧ 0 < e.useMax then
    let x := max (-128) (min 127 (fvLog2 (ofFp32 e.useMax)))
    { e1 with hist := modNth (fun _ => x) e1.hist e1.histPtr, histPtr := (e1.histPtr + 1) % 16, histN := min 16 (e1.histN + 1) }
  else e1

/-- A read of slot `t` by context `x` ends its open use (R123). -/
def endUse (x t : Nat) (s : State) : State :=
  let c := s.ctx x
  let d := c.desc t
  let e := censusAt s c.die (censusKey x (dCslot d))
  if !dCensus d || !e.useOpen then s
  else
    let e' := if censusOn s c.die then endOfUse (dPsMode d) e else e
    modCensus c.die (censusKey x (dCslot d)) (fun _ => { e' with useOpen := false }) s

/-- T with which a write to slot `t` converts values whose largest finite magnitude is `amax` (R122 to R125, R177). -/
def writeT (s : State) (x t fmt : Nat) (xT : Option Int) (amax : Fv) : Int :=
  let c := s.ctx x
  let d := c.desc t
  if dPsMode d = 1 then dTexp d
  else if dPsMode d = 2 then
    let e := censusAt s c.die (censusKey x (dCslot d))
    match xT with
    | some v => v
    | none =>
      if e.useOpen then e.useT
      else (prescaleT e fmt (headroom s c.die (dHr d))).getD (measuredT fmt (headroom s c.die (dHr d)) amax)
  else 0

/-- The next write to slot `t` begins a use that runs the measuring pre-pass (R125). -/
def measures (s : State) (x t : Nat) : Bool :=
  let c := s.ctx x
  let d := c.desc t
  let e := censusAt s c.die (censusKey x (dCslot d))
  dPsMode d == 2 && !e.useOpen && e.histN == 0

/-- A write to slot `t` begins a use, unless phase X writes it (R123, R177); the entry remembers T for readers. What software
reads of the entry changes only with EN = 1 (R132). -/
def beginUse (x t : Nat) (isX : Bool) (v : Int) (s : State) : State :=
  let c := s.ctx x
  let d := c.desc t
  if !dCensus d || isX then s
  else modCensus c.die (censusKey x (dCslot d)) (fun e =>
    if e.useOpen then e
    else { e with useOpen := true, useT := v, useMax := 0, useSat := 0, psMode := if censusOn s c.die then dPsMode d else e.psMode }) s

/-- T with which slot `t` is read (R106, R122, R127). -/
def readT (s : State) (x t : Nat) : Int :=
  let c := s.ctx x
  let d := c.desc t
  if dPsMode d = 1 then dTexp d
  else if dPsMode d = 2 then (censusAt s c.die (censusKey x (dCslot d))).useT
  else 0

/-! ### Counting (R128, R130) -/

/-- Event bits of an entry whose thresholds the counts have just met (R130). -/
def newEvents (e e' : Census) : Nat :=
  let cross := fun thr a b => thr != 0 && decide (a < thr) && decide (thr ≤ b)
  let maxEv := e.thrMax != 0 && decide (e.maxabs ≤ e.thrMax) && decide (e.thrMax < e'.maxabs)
  b2n (cross e.thrZero e.zero e'.zero) + 2 * b2n (cross e.thrSat e.sat e'.sat) + 4 * b2n (cross e.thrNf e.nf e'.nf)
    + 8 * b2n maxEv

/-- Add the counts of one write (R128); a counter stops at 0xFFFF_FFFF. A write of phase X belongs to no use (R177). -/
def addCounts (x : Nat) (isX : Bool) (n : SlotCount) (s : State) : State :=
  let c := s.ctx x
  let d := c.desc n.slot
  let k := censusKey x (dCslot d)
  if !dCensus d then s
  else
    let e := censusAt s c.die k
    let e0 := if isX then e else { e with useMax := max e.useMax n.maxabs, useSat := e.useSat + n.sat }
    if !censusOn s c.die then modCensus c.die k (fun _ => e0) s
    else
      let e1 := { e0 with
        tid := if e.valid then e.tid else dTid d, valid := true, psMode := dPsMode d, ctx := x,
        zero := satAdd 0xFFFFFFFF e.zero n.zero, sat := satAdd 0xFFFFFFFF e.sat n.sat,
        nf := satAdd 0xFFFFFFFF e.nf n.nf, maxabs := max e.maxabs n.maxabs }
      let risen := newEvents e e1 &&& (0xF - e.evt % 16)
      let s := modCensus c.die k (fun _ => { e1 with evt := e.evt ||| risen }) s
      raiseIf (censusIrq s c.die && risen != 0) 5 s

/-- A demoted use of operand slot `t` (R131). -/
def addDemoted (x t : Nat) (s : State) : State :=
  let c := s.ctx x
  let d := c.desc t
  if dCensus d && censusOn s c.die then
    modCensus c.die (censusKey x (dCslot d)) (fun e => { e with demote := satAdd 0xFFFF e.demote 1 }) s
  else s

/-! ### Clears (R126, R132, R196) -/

def Census.cleared (withHist : Bool) (e : Census) : Census :=
  let e := { e with zero := 0, sat := 0, nf := 0, maxabs := 0, evt := 0 }
  if withHist then { e with hist := List.replicate 16 0, histN := 0, histPtr := 0, lastSat := false } else e

/-- Apply `f` to the entries of a table that `p` selects, keeping its canonical form. -/
def tabMap {α : Type} [DecidableEq α] (dflt : Nat → α) (p : Nat → Bool) (f : α → α) (t : List (Nat × α)) : List (Nat × α) :=
  t.foldl (fun acc e => if p e.1 then tabSet dflt acc e.1 (f e.2) else acc) t

/-- CLEAR_ALL of die `d`. -/
def clearAll (d : Nat) (withHist : Bool) (s : State) : State :=
  modCmp d (fun c => { c with
    census := tabMap censusDefault (fun _ => true) (Census.cleared withHist) c.census,
    load := tabMap loadDefault (fun _ => true) (fun l => { l with routed := 0, dropped := 0, peak := 0, evt := false }) c.load }) s

/-- CLEAR_ONE of die `d`, entry `i`. -/
def clearOne (d i : Nat) (withHist : Bool) (s : State) : State := modCensus d i (Census.cleared withHist) s

/-- CENSUS_CLEAR_ALL: the write also stores WITH_HIST, which reads 0 (R132). -/
def execCensusClearAll (d : Nat) (withHist : Bool) (s : State) : Host.Outcome State Fault Refusal :=
  runLive (clearAll d withHist) s
def execCensusClearOne (d idx : Nat) (withHist : Bool) (s : State) : Host.Outcome State Fault Refusal :=
  runLive (fun s => clearOne d idx withHist (setFld (oCmp d 0x100) 12 12 idx s)) s

/-- CONTEXT_RESET of `x`: histories and last_sat of its entries, their VALID, and its load entries with the latches of their later words
(R126, R132, R196, R522). A use in progress goes on (R126). -/
def resetCensus (x : Nat) (s : State) : State :=
  let mine := fun k => k / 256 == x
  let wipe : Census → Census := fun e =>
    { e with valid := false, hist := List.replicate 16 0, histN := 0, histPtr := 0, lastSat := false }
  let base := oCmp (s.ctx x).die (0x50000 + 0x4000 * x)
  let s := { s with latches := s.latches.filter fun e => decide (e.1 < base) || decide (base + 0x4000 ≤ e.1) }
  modCmp (s.ctx x).die (fun c => { c with
    census := tabMap censusDefault mine wipe c.census,
    load := tabMap loadDefault (fun i => i / 1024 == x) (fun l => { l with routed := 0, dropped := 0, peak := 0, evt := false }) c.load }) s

/-! ### The non-finite flag (R116 to R120) -/

/-- A result of context `x` raises its flag. `kind` 0 NaN, 1 +infinity, 2 -infinity; `src` 0 tile, 1 vector. -/
def raiseNf (x slot row col kind src : Nat) (s : State) : State :=
  let c := s.ctx x
  let d := c.die
  let s := bump (oCmp d 0x200) 16 16 1 s
  if fld s (oCmp d 0x200) 0 1 = 1 then s
  else
    let tid := dTid (c.desc slot)
    let s := modCmp d (fun c => { c with nfRow := row, nfCol := col, nfTid := tid, nfKind := kind }) s
    let s := setFld (oCmp d 0x200) 4 4 x (setFld (oCmp d 0x200) 2 2 src (setBit (oCmp d 0x200) 0 s))
    raiseIf (fld s (oCmp d 0x200) 1 1 == 1) 1 (logEv 0x04 stNonfinite d { ctx := x, arg := tid } s)

end Sys2Proof.Machine
end

