-- ==== Sys2Proof/Machine/Flags.lean ====
section
/-! DEFINITION. Flags (R275 to R306): translation, set, clear and wait, misuse and overrun, waiters and the clear of
a consuming waiter, owner loss, flag maps, and the records that carry remote operations. -/
namespace Sys2Proof.Machine

/-! ### Physical flags and translation (R275, R278, R279) -/

/-- Key of flag `i` on die code `d` (0 to 3 = CD, 4 = HD, 5 = UD). -/
def flagKey (d i : Nat) : Nat := d * 0x80000 + i
/-- Key of page `pg` on die code `d`. -/
def pageKey (d pg : Nat) : Nat := d * 0x2000 + pg
/-- Pages a die holds (R275). -/
def diePages (d : Nat) : Nat := if d < 4 then 1024 else if d = 4 then 4096 else if d = 5 then 256 else 0
/-- Agent ID of a die code of R278 (R440). -/
def dieAgent (d : Nat) : Nat := if d < 4 then d else if d = 4 then agHub else agUd

/-- What a flag nothing has written holds (R276). -/
def flagDefault (_ : Nat) : Flag := ⟨false, 0⟩
def flagAt (s : State) (k : Nat) : Flag := tabGet flagDefault s.flg.flags k
def setFlag (k : Nat) (f : Flag) (s : State) : State :=
  { s with flg := { s.flg with flags := tabSet flagDefault s.flg.flags k f } }

/-! Fields of a flag-map entry (R278). -/
def entVbase (e : Nat) : Nat := bits e 6 18 * 64
def entDie (e : Nat) : Nat := bits e 32 3
def entExport (e : Nat) : Bool := bit e 35
def entPage (e : Nat) : Nat := bits e 40 12
def entPages (e : Nat) : Nat := bits e 52 12 + 1

def storeDefault (_ : Nat) : Nat := 0
/-- The map-store entries of a run. -/
def storeRun (s : State) (first n : Nat) : List Nat := (upto n).map fun i => tabGet storeDefault s.flg.store (first + i)
/-- The entries of flag context `c`. -/
def mapRun (s : State) (c : Nat) : List Nat := storeRun s (s.map c).first (s.map c).nent

/-- Where a run of entries puts a virtual ID: the flag's key and whether the run is exported. -/
def lookup (es : List Nat) (v : Nat) : Option (Nat × Bool) :=
  match es.find? (fun e => decide (entVbase e ≤ v) && decide (v < entVbase e + 64 * entPages e)) with
  | some e => some (flagKey (entDie e) (64 * entPage e + (v - entVbase e)), entExport e)
  | none => none

/-- translate of R279. -/
def translate (s : State) (c v : Nat) : Option (Nat × Bool) :=
  let b := s.map c
  if !b.valid || b.poison then none else lookup (mapRun s c) v

/-- Where a flag of a context stands, as the operations see it. -/
inductive Found where
  | poisoned
  | unmapped
  | at (key : Nat) (exported : Bool)
  deriving DecidableEq, Repr

/-- Find flag `v` of context `c`; a poisoned context is told apart (R286, R303). -/
def findFlag (s : State) (c v : Nat) : Found :=
  if (s.map c).poison then .poisoned
  else match translate s c v with
    | some (k, e) => .at k e
    | none => .unmapped

/-! ### Misuse (R292, R293) -/

/-- A misuse that names no mapped flag: MISS_CNT of the context named. -/
def miss (c : Nat) (s : State) : State := modMap c (fun m => { m with miss := satAdd 255 m.miss 1 }) s

/-- A misuse of a mapped flag: its overrun counter; reaching 255 is recorded and logged. -/
def overrun (c v k : Nat) (s : State) : State :=
  let f := flagAt s k
  if f.ovr ≥ 255 then s
  else
    let s := setFlag k { f with ovr := f.ovr + 1 } s
    if f.ovr + 1 < 255 then s
    else
      let s := setFld (oFlg 0x400) 0 24 v (setFld (oFlg 0x400) 24 6 c (setBit (oFlg 0x400) 30 s))
      let s := bump (oFlg 0x404) 0 16 1 s
      let s := logEv 0x0D stFormat (dieAgent (k / 0x80000)) { arg := v % 2 ^ 24 + c % 64 * 2 ^ 24 } s
      raiseIf (fld s (oFlg 0x400) 31 1 == 1) 1 s

/-! ### Records sent to peers (R294) -/

/-- The 16 bytes of a flag record. -/
def recBytes (r : FlagRec) : List Byte :=
  leBytes 16 (r.op % 16 + r.status % 16 * 2 ^ 4 + r.fctx % 64 * 2 ^ 8 + r.vflag % 2 ^ 24 * 2 ^ 16
    + b2n r.fence * 2 ^ 40 + b2n r.consume * 2 ^ 41 + r.vcmask % 2 ^ 16 * 2 ^ 48 + r.seq % 2 ^ 16 * 2 ^ 64
    + r.wtag % 2 ^ 16 * 2 ^ 80)

/-- The record in 16 bytes. -/
def recOf (l : List Byte) : FlagRec :=
  let v := leNat (l.take 16)
  ⟨bits v 0 4, bits v 4 4, bits v 8 6, bits v 16 24, bit v 40, bit v 41, bits v 48 16, bits v 64 16, bits v 80 16⟩

/-- Queue 16 bytes for VC15 of port `p`: FTYPE 0x2 carries flag records, 0x3 link control records (R320). -/
def sendCtl (p ftype dst : Nat) (b : List Byte) (d : TxDone) (s : State) : State :=
  modPort p (fun q => { q with ctl := q.ctl ++ [(ftype, dst, b, d)] }) s

/-- Send a flag record on VC15 to module `dst`. -/
def sendRecTo (p dst : Nat) (r : FlagRec) (s : State) : State := sendCtl p 2 dst (recBytes r) .nothing s


/-- A wake record of a status for a wait tag (R294, R300). -/
def wakeRec (status wtag : Nat) : FlagRec := ⟨6, status, 0, 0, false, false, 0, 0, wtag⟩

/-! ### Waiters (R283, R285, R290, R291) -/

/-- The context made progress (R241). -/
def progress (x : Nat) (s : State) : State :=
  modCtx x (fun c => { c with progressAt := s.glb.time, warned := false }) s

/-- The sequencer's wait of context `x` ends: with OK the FWAIT is ready to retire; with any other status it does not
retire, and the status is logged (R290). -/
def endSeqWait (x status : Nat) (s : State) : State :=
  match (s.ctx x).wait with
  | none => s
  | some w =>
    let s := modCtx x (fun c => { c with wait := some { w with status := some status } }) s
    if status = stOk then progress x s
    else
      raise (ctxVec x) (logEv 0x10 status (s.ctx x).die
        { ctx := x, arg := w.w.vflag % 2 ^ 24 + w.w.fctx % 64 * 2 ^ 24 + status * 2 ^ 32 } s)

/-- The die port of an agent: CDd and BDd lie behind port d, the update die behind port 4, guest agent 0x10 + i behind
port 5 + i; the hub has none (R440). -/
def agentPort (a : Nat) : Option Nat :=
  if a < 8 then some (a % 4) else if a = 9 then some 4 else if 16 ≤ a ∧ a < 32 then some (a - 11) else none
/-- Change a die port. -/
def modDie (k : Nat) (f : DiePort → DiePort) (s : State) : State := { s with dies := modNth f s.dies k }
/-- Die port `k`. -/
def State.die (s : State) (k : Nat) : DiePort := nth (DiePort.reset 0) s.dies k

/-- The 16 bytes of the header of a die message (R442). -/
def ixHdrBytes (h : IxHdr) : List Byte :=
  leBytes 16 (h.cls % 16 + h.sub % 16 * 2 ^ 4 + h.srca % 256 * 2 ^ 8 + h.dsta % 256 * 2 ^ 16 + h.tid % 4096 * 2 ^ 24
    + h.crpool % 16 * 2 ^ 36 + h.crcnt % 256 * 2 ^ 40 + h.len64 % 256 * 2 ^ 48 + h.addr % 2 ^ 40 * 2 ^ 64 + h.space % 4 * 2 ^ 104
    + h.ext % 2 ^ 22 * 2 ^ 106)

/-- The module of port `q` that carries a message (R449): (ADDR >> 12) mod K for the memory classes, 0 for the others. -/
def moduleOf (q : DiePort) (h : IxHdr) : Nat := if h.cls < 4 then h.addr / 4096 % max 1 q.modules else 0

/-- A message leaves on its module: its header, then its data (R442). -/
def sendIx (h : IxHdr) (data : List Byte) (s : State) : State := emit (.ix h.mdl (ixHdrBytes h ++ data)) s

/-- Credits of module `m` and pool `p`, and their change (R445). -/
def creditsOf (l : List (List Nat)) (m p : Nat) : Nat := nth 0 (nth [] l m) p
def addCredits (m p n : Nat) (l : List (List Nat)) : List (List Nat) := modNth (fun c => modNth (· + n) c p) l m
def subCredits (m p n : Nat) (l : List (List Nat)) : List (List Nat) := modNth (fun c => modNth (· - n) c p) l m

/-- Send a wake, which takes one credit of pool 2 of the receiver's port; without one it waits (R445, R446). A port that is not up, or
whose common set lacks bit 8, carries none (R452, R454). -/
def sendWake (h : IxHdr) (s : State) : State :=
  match agentPort h.dsta with
  | none => sendIx h [] s
  | some k =>
    if !(s.die k).up || !bit (s.die k).cap 8 then s
    else if creditsOf (s.die k).credits 0 2 = 0 then modDie k (fun q => { q with txq := q.txq ++ [h] }) s
    else sendIx h [] (modDie k (fun q => { q with credits := subCredits 0 2 1 q.credits }) s)

/-- A wake of a status for a wait tag (R447). -/
def wakeMsg (src dst tid status : Nat) : IxHdr := ⟨4, 6, src, dst, tid, 15, 0, 0, status * 2 ^ 32, 0, 0, false, 0⟩

/-- A waiter learns the status of its wait. -/
def finishWait (w : Waiter) (status : Nat) (s : State) : State :=
  match w with
  | .host h _ => if status = stOk then completeWith h stOk s.glb.time s else complete h status s
  | .seq x => endSeqWait x status s
  | .remote p m t => sendRecTo p m (wakeRec status t) (modPort p (fun q => { q with remoteWaits := q.remoteWaits - 1 }) s)
  | .die a t r => sendWake (wakeMsg r a t status) s

/-- Finish every held wait that `p` selects, in order of arrival. -/
def finishAll (p : Wait → Bool) (status : Nat) (s : State) : State :=
  (s.flg.waits.filter p).foldl (fun s w => finishWait w.who status s)
    { s with flg := { s.flg with waits := s.flg.waits.filter fun w => !p w } }

/-- Complete the waiters of flag `k` (R285): those without consume whose value it holds, then the oldest consuming
one, which clears it, then those the clear satisfies. -/
def serveFlag (k : Nat) (s : State) : State :=
  let v := (flagAt s k).set
  let s := finishAll (fun w => w.key == k && !w.consume && w.val == v) stOk s
  if !v then s
  else match s.flg.waits.find? (fun w => w.key == k && w.consume && w.val) with
    | none => s
    | some w =>
      let s := { s with flg := { s.flg with waits := dropFirst (fun u => u == w) s.flg.waits } }
      let s := setFlag k { flagAt s k with set := false } s
      finishAll (fun u => u.key == k && !u.consume && !u.val) stOk (finishWait w.who stOk s)

/-- Set or clear the physical flag `k`, named as `v` of context `c` (R283, R292). -/
def actFlag (c v k : Nat) (value : Bool) (s : State) : State :=
  let f := flagAt s k
  if f.set = value then overrun c v k s
  else serveFlag k (setFlag k { f with set := value } s)

/-- A local set or clear: the state after it and the completion status (R292, R303, R427). -/
def opFlag (c v : Nat) (value : Bool) (s : State) : State × Nat :=
  match findFlag s c v with
  | .poisoned => (miss c s, stOwnerLost)
  | .unmapped => (miss c s, stFormat)
  | .at k _ => (actFlag c v k value s, stOk)

/-- Hold a wait and serve the flag at once (R283). -/
def holdWait (w : Wait) (s : State) : State :=
  serveFlag w.key { s with flg := { s.flg with waits := s.flg.waits ++ [w] } }

/-- Host waits held (R291). -/
def hostWaits (s : State) : Nat :=
  (s.flg.waits.filter fun w => match w.who with | .host _ _ => true | _ => false).length

/-! ### Owner loss (R282, R302, R304) -/


/-- The pages an entry names. -/
def entPageKeys (e : Nat) : List Nat := (upto (entPages e)).map fun i => pageKey (entDie e) (entPage e + i)
/-- Does a flag key lie in an entry's pages? -/
def entHolds (e k : Nat) : Bool :=
  let b := flagKey (entDie e) (64 * entPage e)
  decide (b ≤ k) && decide (k < b + 64 * entPages e)

/-- Does context `c` own the page of flag `k` (R276)? -/
def ownsFlag (s : State) (c k : Nat) : Bool := tabFind s.flg.pageOwner (k / 64) == some c

/-- Does a wait stand on a flag of context `c` (R302)? A wait of a die names the physical flag, and with it the context that owns
its page now. -/
def waitsOn (s : State) (c : Nat) (w : Wait) : Bool :=
  match w.who with
  | .die _ _ _ => ownsFlag s c w.key
  | _ => w.fctx == c

/-- Poison flag context `c`: its waiters complete with OWNER_LOST and the loss is logged. -/
def poisonFlags (c : Nat) (s : State) : State :=
  let s := modMap c (fun m => { m with poison := true }) s
  let s := finishAll (waitsOn s c) stOwnerLost s
  logEv 0x0F stOwnerLost agHub { arg := c % 64 * 2 ^ 24 } s

/-- Clear every flag and counter of the pages of a run of entries. -/
def clearRun (es : List Nat) (s : State) : State :=
  { s with flg := { s.flg with flags := s.flg.flags.filter fun f => !es.any fun e => entHolds e f.1 } }

/-- Free the pages and map-store entries of context `c` (R282, R304). -/
def freeMap (c : Nat) (s : State) : State :=
  { s with flg := { s.flg with
      storeOwner := s.flg.storeOwner.filter (fun o => o.2 != c), pageOwner := s.flg.pageOwner.filter fun o => o.2 != c } }

/-- Give pages and entries of a run to context `c` and clear their flags (R280, R281). -/
def claimRun (c first : Nat) (es : List Nat) (s : State) : State :=
  let s := clearRun es s
  { s with flg := { s.flg with
      storeOwner := (upto es.length).foldl (fun t i => tabInsert t (first + i) c) s.flg.storeOwner,
      pageOwner := (es.flatMap entPageKeys).foldl (fun t k => tabInsert t k c) s.flg.pageOwner } }

/-- The auxiliary flag contexts that an owner has (R302). -/
def ownedFlags (s : State) (owner : Nat) : List Nat :=
  (upto 64).filter fun c => decide (40 ≤ c) && (s.map c).owner == owner

/-- R302 for stage context `x`. -/
def poisonStage (x : Nat) (s : State) : State := (x :: ownedFlags s x).foldl (fun s c => poisonFlags c s) s

/-- Clear every flag and counter of the pages that context `c` owns. -/
def clearOwned (c : Nat) (s : State) : State :=
  { s with flg := { s.flg with flags := s.flg.flags.filter fun f => !ownsFlag s c f.1 } }

/-- End the poison of context `c` and clear its flags and counters (R304). Pages that R282 has freed are not its own any
more. -/
def endPoison (c : Nat) (s : State) : State :=
  if (s.map c).poison then modMap c (fun m => { m with poison := false }) (clearOwned c s) else s

/-- Return every counter of the flags of context `c` to 0 (R293: CONTEXT_RESET of the owning context). -/
def zeroCounters (c : Nat) (s : State) : State :=
  { s with flg := { s.flg with flags := s.flg.flags.filterMap fun f =>
      if (ownsFlag s c f.1) then (if f.2.set then some (f.1, ⟨true, 0⟩) else none) else some f } }

/-! ### Maps the driver writes (R281, R282) -/

/-- Entries stand in ascending VBASE, do not overlap, and end inside the 24-bit space (R278, R280). -/
def runOrdered : Nat → List Nat → Bool
  | _, [] => true
  | b, e :: t => decide (b ≤ entVbase e) && decide (entVbase e + 64 * entPages e ≤ 2 ^ 24)
      && runOrdered (entVbase e + 64 * entPages e) t

/-- Does a run keep R278? In a map the driver writes, DIE 0x7 is reserved too. -/
def runOk (es : List Nat) : Bool :=
  runOrdered 0 es && es.all fun e => bits e 0 6 == 0 && bits e 24 8 == 0 && bits e 36 4 == 0 && decide (entDie e ≤ 5)
    && decide (entPage e + entPages e ≤ diePages (entDie e))

/-- A run of entries that context `c` may take: no page and no map-store entry of another context (R281). -/
def runFree (s : State) (c first : Nat) (es : List Nat) : Bool :=
  let foreign := fun (t : List (Nat × Nat)) k => match tabFind t k with | some o => o != c | none => false
  !((es.flatMap entPageKeys).any (foreign s.flg.pageOwner))
    && !((upto es.length).any fun i => foreign s.flg.storeOwner (first + i))

/-- A flag context whose map the driver writes (R277). -/
def driverMap (c : Nat) : Bool := (decide (16 ≤ c) && decide (c < 32)) || (decide (40 ≤ c) && decide (c < 64))

/-- The write of VALID = 1 (R281). -/
def validateMap (c : Nat) (s : State) : State :=
  let m := s.map c
  let es := mapRun s c
  if m.poison || !runOk es || !runFree s c m.first es || decide (4096 < m.first + m.nent) then
    modMap c (fun m => { m with cfgErr := true }) s
  else modMap c (fun m => { m with valid := true }) (claimRun c m.first es s)

/-- The write of VALID = 0 to a valid map (R282). -/
def invalidateMap (c : Nat) (s : State) : State :=
  freeMap c (modMap c (fun m => { m with valid := false }) (poisonFlags c s))

/-! ### Sequencer flag instructions (R287 to R290) -/

/-- A stage-map record of a type and index (R468), 64 bytes. -/
def stageRec (s : State) (ty ix : Nat) : Option (List Byte) :=
  match s.boot.image with
  | none => none
  | some m => m.stageMap.find? fun r => leAt r 0 1 == ty && leAt r 1 1 == ix

/-- Port and module of stage-map destination `d`; port 0xFF is this module (R468). -/
def destOf (s : State) (d : Nat) : Option (Nat × Nat × Nat) :=
  (stageRec s 3 d).map fun r => (leAt r 4 1, leAt r 2 2, leAt r 5 1)

/-- A port in UP or DEGRADED (R312). -/
def Port.carrying (q : Port) : Bool := q.state == .up || q.state == .degraded

/-- A CONTEXT_PREEMPT of `x` waits for its issued instructions (R264). -/
def preempting (s : State) (x : Nat) : Bool := s.hif.ctxJobs.any fun j => j.x == x && j.kind == .preempt
/-- Context `x` may issue: it runs, no FWAIT holds it and no pre-emption waits (R264, R289). -/
def mayIssue (s : State) (x : Nat) : Bool :=
  (s.ctx x).state == .running && (s.ctx x).wait.isNone && !preempting s x
/-- The condition of R297 for a fenced record. -/
def fenceMet (q : Port) (r : FlagRec) : Bool :=
  (upto 15).all fun v => !bit r.vcmask v || q.fences.any fun f =>
    f.1 == v && decide ((f.2.1 + 2 ^ 16 - r.seq % 2 ^ 16) % 2 ^ 16 < 32768) && f.2.2 == 0

/-- Every earlier instruction of the context has completed (R289). -/
def allDone (s : State) (x : Nat) : Bool :=
  (s.ctx x).issued.isEmpty && (s.ctx x).chain.isNone && (s.ctx x).remoteOps.isEmpty

/-- Queue the fence markers of a fenced record: one per masked VC, as TKIND 0x7 transfers (R297, R330). -/
def queueMarkers (p dst seq mask : Nat) (s : State) : State :=
  (upto 15).foldl (fun s v =>
    if bit mask v then
      modPort p (fun q => { q with tx := q.tx ++ [⟨v, dst, leBytes 32 (7 + seq % 2 ^ 16 * 2 ^ 16), 0, none, .marker seq⟩] }) s
    else s) s

/-- A fenced record, in the VC15 queue or on its way to its acknowledgement. -/
def isFenced (ftype : Nat) (b : List Byte) : Bool := ftype == 2 && (recOf b).fence

/-- Fences of a port that are outstanding (R297). -/
def Port.fencesOut (q : Port) : Nat :=
  q.fenced.length + (q.ctl.filter fun t => isFenced t.1 t.2.2.1).length + (q.tx.filter fun t => t.done == .fenced).length

/-- No marker of fence `seq` waits to be sent. -/
def markersLeft (q : Port) (seq : Nat) : Bool := !q.tx.any fun t => t.done == .marker seq && t.lastSeq.isNone

/-- The next fenced record of port `p` goes on: its markers are queued when the partner takes them, and once they have left
it joins the records of VC15 (R297, R336). -/
def fenceGoes (p : Nat) (s : State) : State :=
  let q := s.port p
  match q.fenced with
  | [] => s
  | f :: rest =>
    if !f.marked then
      if q.carrying && bit q.ncap 5 then
        queueMarkers p f.dst f.record.seq f.record.vcmask
          (modPort p (fun q => { q with fenced := { f with marked := true } :: rest }) s)
      else s
    else if markersLeft q f.record.seq then
      sendCtl p 2 f.dst (recBytes f.record) f.done (modPort p (fun q => { q with fenced := rest }) s)
    else s

/-- Fenced records go on as far as they can: two steps for each. -/
def pumpFences (p : Nat) (s : State) : State := (upto (2 * (s.port p).fenced.length)).foldl (fun s _ => fenceGoes p s) s

/-- May a remote set or clear issue? A fenced one waits while 32,767 fences are outstanding on its port (R297). -/
def remoteMay (s : State) (w : FlagWords) : Bool :=
  match destOf s w.dest with
  | none => true
  | some (p, _, _) => !w.fence || decide ((s.port p).fencesOut < 32767)

/-- A remote set or clear leaves for the module DEST names, fenced when asked (R289, R297); `d` is what its leaving
completes. -/
def sendRemoteOp (w : FlagWords) (op : Nat) (d : TxDone) (s : State) : State :=
  match destOf s w.dest with
  | none => s
  | some (p, m, _) =>
    if w.fence then
      let seq := ((s.port p).fenceSeq + 1) % 2 ^ 16
      pumpFences p (modPort p (fun q => { q with
        fenceSeq := seq,
        fenced := q.fenced ++ [⟨⟨op, 0, w.fctx, w.vflag, true, false, w.vcmask, seq, 0⟩, m, false, d⟩] }) s)
    else sendCtl p 2 m (recBytes ⟨op, 0, w.fctx, w.vflag, false, false, 0, 0, 0⟩) d s

/-- A DEST that names this module makes the operation a local one (R468). -/
def isRemote (s : State) (w : FlagWords) : Bool :=
  w.remote && (match destOf s w.dest with | some (p, _, _) => decide (p ≤ 15) | none => true)

/-- A local FWAIT (R289, R290): an auxiliary context of another owner counts as unmapped. -/
def seqWaitLocal (x : Nat) (w : FlagWords) (s : State) : State :=
  let foreignAux := decide (40 ≤ w.fctx) && (s.map w.fctx).owner != x
  match findFlag s w.fctx w.vflag with
  | .poisoned => endSeqWait x stOwnerLost s
  | .unmapped => endSeqWait x stFormat (miss w.fctx s)
  | .at k _ =>
    if foreignAux then endSeqWait x stFormat (miss w.fctx s)
    else holdWait ⟨.seq x, w.fctx, w.vflag, k, w.val, w.consume⟩ s

/-- FWAIT of context `x`, at place `pos` of its phase. -/
def seqWait (x : Nat) (st : Stamp) (idx pos : Nat) (w : FlagWords) (s : State) : State :=
  let s := modCtx x (fun c => { c with wait := some ⟨idx, st, pos, w, none⟩ }) s
  if isRemote s w then
    match destOf s w.dest with
    | none => endSeqWait x stPeerAbsent s
    | some (p, m, _) =>
      if !(s.port p).carrying then endSeqWait x stPeerAbsent s
      else
        let tag := s.flg.nextTag
        let s := { s with flg := { s.flg with nextTag := (tag + 1) % 2 ^ 16,
                                              farWaits := s.flg.farWaits ++ [⟨p, m, tag, x⟩] } }
        sendRecTo p m ⟨if w.val then 3 else 4, 0, w.fctx, w.vflag, false, w.consume, 0, 0, tag⟩ s
  else seqWaitLocal x w s

/-- Withdraw the FWAIT of a pre-empted context that has not completed (R305); a remote one is cancelled. -/
def withdrawWait (x : Nat) (s : State) : State :=
  match (s.ctx x).wait with
  | none => s
  | some w =>
    if w.status.isSome then s
    else
      let far := s.flg.farWaits.filter fun f => f.ctx == x
      let s := { s with flg := { s.flg with
        waits := s.flg.waits.filter (fun u => u.who != .seq x), farWaits := s.flg.farWaits.filter fun f => f.ctx != x } }
      far.foldl (fun s f => sendRecTo f.port f.mod ⟨5, 0, 0, 0, false, false, 0, 0, f.wtag⟩ s) s

/-- Issue the withdrawn FWAIT of a context that runs again (R305). -/
def reissueWait (x : Nat) (s : State) : State :=
  match (s.ctx x).wait with
  | none => s
  | some w => if w.status.isSome || (s.ctx x).state != .running || preempting s x then s
      else seqWait x w.stamp w.idx w.pos w.w s

end Sys2Proof.Machine
end

