-- ==== Sys2Proof/Machine/Regions.lean ====
section
/-! DEFINITION. The entries of the region table, their version slots and retire_check (R224, R226, R505), and the end of
a snapshot, which releases its pins (R232, R405). -/
namespace Sys2Proof.Machine

/-! ### Regions -/

/-- An entry not in use. -/
def Region.none : Region := ⟨0, 0, false, false, false, false, 0, 0, 0, false, false, [], []⟩
/-- Entry `r` of the region table, when it is in use. -/
def State.region? (s : State) (r : Nat) : Option Region := tabFind s.regions r
def State.region (s : State) (r : Nat) : Region := (s.region? r).getD Region.none
/-- Change entry `r` when it is in use. -/
def modRegion (r : Nat) (f : Region → Region) (s : State) : State :=
  { s with regions := s.regions.map fun e => if e.1 = r then (e.1, f e.2) else e }
/-- Indices of the entries of context `x`. -/
def ctxRegions (s : State) (x : Nat) : List Nat := (s.regions.filter fun e => e.2.ctx == x).map (·.1)

/-- The LIVE generations of a region, without one that a rollback has replaced (R230). -/
def Region.live (r : Region) : List Nat := (r.slots.filter fun v => v.state == .live && !v.dying).map (·.gen)

/-- The generation newer than every other of a list (R61). -/
def newestOf (l : List Nat) : Option Nat := l.find? fun g => l.all fun h => h == g || genNewer g h
/-- The generation that every other of a list is newer than. -/
def oldestOf (l : List Nat) : Option Nat := l.find? fun g => l.all fun h => h == g || genNewer h g

/-- The newest LIVE generation. -/
def Region.newest (r : Region) : Option Nat := newestOf r.live
/-- Snapshot pins in use (R232). -/
def Region.pinned (r : Region) : Nat := sumNat (r.slots.map (·.pins))
/-- Does the region hold a version in a state? -/
def Region.has (r : Region) (st : VState) : Bool := r.slots.any fun v => v.state == st
/-- The LIVE slot of a generation. -/
def Region.liveSlot (r : Region) (g : Nat) : Option VSlot := r.slots.find? fun v => v.state == .live && v.gen == g

/-- Change every version slot that `p` selects. -/
def Region.mapSlots (r : Region) (p : VSlot → Bool) (f : VSlot → VSlot) : Region :=
  { r with slots := r.slots.map fun v => if p v then f v else v }

/-- Change the first version slot that `p` selects. -/
def Region.mapFirst (r : Region) (p : VSlot → Bool) (f : VSlot → VSlot) : Region :=
  match findIdxN p r.slots 0 with
  | some i => { r with slots := modNth f r.slots i }
  | .none => r

/-! ### Retirement (R226, R239, R505) -/

/-- R505 holds generation `g` of a region from its commit until STEP_COMMIT of step g + 2. -/
def seqHeld (s : State) (r : Region) (g : Nat) : Bool := r.seqHold && decide ((s.c + 4096 - g % 4096) % 4096 < 2)

/-- The newest LIVE generation of the region that entry `r` belongs to: the owned shard tells it for gathered copies (R236,
R237). -/
def newestGen (s : State) (r : Nat) : Option Nat :=
  let e := s.region r
  if e.sharded && !e.owned then (s.region (r + 1)).newest else e.newest

/-- retire_check of R226 on one entry. An owned-shard version is freed only when its slot is needed (R239), or once a
rollback has replaced it (R230). -/
def retireCheck (r : Nat) (s : State) : State :=
  let e := s.region r
  modRegion r (fun e' => e'.mapSlots
    (fun v => v.state == .live && v.ref == 0 && v.pins == 0
      && (v.dying || !e.owned && some v.gen != newestGen s r && !seqHeld s e v.gen))
    (fun v => { v with state := .free })) s

/-- retire_check on every entry. -/
def retireAll (s : State) : State := s.regions.foldl (fun s e => retireCheck e.1 s) s

end Sys2Proof.Machine
end

