-- ==== Sys2Proof/Machine/Gathers.lean ====
section
/-! DEFINITION. Transfers that wait on a port (R328, R330), the gathers of sharded regions (R236 to R238), and the end of a
snapshot, which may let one start (R232, R405). -/
namespace Sys2Proof.Machine

/-! ### Transfers waiting on a port (R328, R330) -/

/-- The 32 bytes of a transfer header. -/
def xferBytes (h : XferHdr) : List Byte :=
  leBytes 32 (h.tkind % 16 + h.win % 256 * 2 ^ 8 + h.seq % 2 ^ 16 * 2 ^ 16 + h.offset % 2 ^ 40 * 2 ^ 32
    + h.bytes % 2 ^ 32 * 2 ^ 72 + b2n h.tdesc * 2 ^ 104 + b2n h.tflag * 2 ^ 105 + h.ctx % 16 * 2 ^ 128
    + h.q % 2 * 2 ^ 132 + h.count % 2 ^ 16 * 2 ^ 144)

/-- The header in 32 bytes; `resv` tells that a reserved bit is set. -/
def xferOf (l : List Byte) : XferHdr :=
  let v := leNat (l.take 32)
  let used : Nat := 0xF + 0xFF00 + 0xFFFF0000 + (2 ^ 72 - 2 ^ 32) + (2 ^ 106 - 2 ^ 72) + (2 ^ 133 - 2 ^ 128)
    + (2 ^ 160 - 2 ^ 144)
  ⟨bits v 0 4, bits v 8 8, bits v 16 16, bits v 32 40, bits v 72 32, bit v 104, bit v 105, bits v 128 4,
    bits v 132 1, bits v 144 16, decide (v % 2 ^ 256 ≠ v &&& used)⟩

/-- Queue a transfer on a VC of port `p`. -/
def sendXfer (p vc dst : Nat) (body : List Byte) (d : TxDone) (s : State) : State :=
  modPort p (fun q => { q with tx := q.tx ++ [⟨vc, dst, body, 0, none, d⟩] }) s

/-! ### Gathers (R236 to R240) -/

/-- Member records of a KIND (R468, TYPE 0x05): member index, MODID, PORT. -/
def members (s : State) (kind : Nat) : List (Nat × Nat × Nat) :=
  match s.boot.image with
  | none => []
  | some m => (m.stageMap.filter fun r => leAt r 0 1 == 5 && leAt r 1 1 == kind).map fun r => (leAt r 2 2, leAt r 4 2, leAt r 6 1)

/-- This module's member index in a KIND. -/
def ownMember (s : State) (kind : Nat) : Nat :=
  match (members s kind).find? (fun m => m.2.2 == 0xFF) with
  | some m => m.1
  | none => 0

/-- REGION at the owner of the gather record of context `x` and local region index `i` (R468, TYPE 0x06). -/
def gatherRegion (s : State) (x i : Nat) : Nat :=
  match s.boot.image with
  | none => 0
  | some m => match m.stageMap.find? (fun r => leAt r 0 1 == 6 && leAt r 1 1 == x && leAt r 2 2 == i) with
    | some r => leAt r 6 2
    | none => 0

/-- Bytes of one version of the region with local index `i` of context `x` (R250). -/
def versionBytes (s : State) (x i : Nat) : Nat := bits (nth 0 (s.ctx x).pat.regions i) 128 28 * 4096

/-- Bytes of one member's shard of a version: an equal part, in units of 64 bytes (log 21). -/
def shardBytes (s : State) (x i g : Nat) : Nat :=
  let n := (members s g).length
  if n = 0 then versionBytes s x i else roundUp (cdiv (versionBytes s x i) n) 64

/-! ### The bytes of a version (R172, R225, R512) -/

/-- Tensor slots of the frozen matrix of an adapter region, and its metadata: weights of forward products of the region whose
pairs are not those of LA or LB (R173, R249, log 132). -/
def Ctx.frozenSlots (c : Ctx) (i : Nat) : List Nat :=
  if rMask (nth 0 c.pat.regions i) ≠ 2 then []
  else
    let trained := (c.pat.descs.filter fun d => dKind d == 3 && dRegion d == i && dMatrix d != 0).map dProduct
    let ws : List Nat := (upto c.products.length).filterMap fun p =>
      match c.workAt (nth 0 c.products p) with
      | .tile _ w => if !trained.contains p && dKind (c.desc w.tb) == 0 && dRegion (c.desc w.tb) == i then Option.some w.tb else Option.none
      | .vec _ _ => Option.none
    ws ++ (ws.map fun t => dMeta (c.desc t)).filter (· != 0)

/-- Does the descriptor place the frozen matrix of an adapter region, or its metadata? -/
def Ctx.isFrozenPart (c : Ctx) (d : Nat) : Bool := (c.frozenSlots (dRegion d)).any fun t => dOffset (c.desc t) == dOffset d

/-- Where the frozen matrix of entry `r` starts: it keeps the single version of R225, in the first slot. -/
def firstLoc (e : Region) : Option Nat := e.slots.head?.map (·.loc)

/-- First byte of a version that a slot of the entry holds: the whole version, or this module's shard. -/
def slotFrom (s : State) (e : Region) : Nat :=
  if e.owned then ownMember s e.grp * shardBytes s e.ctx e.localIdx e.grp else 0

/-- Address of byte `o` of the version in slot `v` of an entry. -/
def versionAddr (s : State) (e : Region) (v : VSlot) (o : Nat) : Nat :=
  let c := s.ctx e.ctx
  let inFrozen := (c.frozenSlots e.localIdx).any fun t =>
    decide (dOffset (c.desc t) ≤ o) && decide (o < dOffset (c.desc t) + tensorBytes c (c.desc t))
  (if inFrozen then (firstLoc e).getD v.loc else v.loc) + (o - slotFrom s e)

/-- Bytes `o` up to `o + n` of a version, as a consumer in the module reads them: each by the tensor that it belongs to. -/
def versionData (s : State) (e : Region) (v : VSlot) (o n : Nat) : List Byte :=
  let c := s.ctx e.ctx
  let r : Reader := ⟨fun k => memByte s (versionAddr s e v k),
    fun k => decide (slotFrom s e ≤ k) && poisoned s (versionAddr s e v k)⟩
  let ts := (c.pat.descs.filter fun d => dKind d == 0 && dRegion d == e.localIdx && dPlanes d == 0).map fun d =>
    storedTens d (c.storesHalf d) (dOffset d) 0 0
  (upto n).map fun i => match ts.find? fun t => decide (t.addr ≤ o + i) && decide (o + i < t.addr + t.bytes) with
    | some t => t.cleanByte r (o + i)
    | none => if r.bad (o + i) then 0 else r.byte (o + i)

/-- The 32 bytes of a gather header (R238). -/
def gatherBytes (h : GatherHdr) : List Byte :=
  leBytes 32 (packStamp h.stamp + h.region % 2 ^ 16 * 2 ^ 80 + h.gen % 2 ^ 12 * 2 ^ 96 + h.kind % 16 * 2 ^ 108
    + h.src % 2 ^ 10 * 2 ^ 112 + h.offset % 2 ^ 64 * 2 ^ 128 + h.bytes % 2 ^ 32 * 2 ^ 192)

/-- The header in 32 bytes. -/
def gatherOf (l : List Byte) : GatherHdr :=
  let v := leNat (l.take 32)
  ⟨unpackStamp v, bits v 80 16, bits v 96 12, bits v 108 4, bits v 112 10, bits v 128 64, bits v 192 32⟩

/-- Ask one member for its shard of generation `g` of entry `r`. -/
def askShard (r : Nat) (e : Region) (g : Nat) (m : Nat × Nat × Nat) (s : State) : State :=
  let b := shardBytes s e.ctx e.localIdx e.grp
  let h : GatherHdr := ⟨⟨s.str.epoch, s.c, 0xFFFF, phCommit⟩, gatherRegion s e.ctx e.localIdx, g, 0,
    ownMember s e.grp, m.1 * b, b⟩
  let _ := r
  sendXfer m.2.2 7 m.2.1 (xferBytes ⟨4, 0, 0, 0, 0, true, false, 0, 0, 0, false⟩ ++ gatherBytes h) .nothing s

/-- Copy this module's own shard of generation `g` into the gathered slot at `loc`. -/
def copyOwnShard (r g loc : Nat) (s : State) : State :=
  let e := s.region r
  let b := shardBytes s e.ctx e.localIdx e.grp
  let o := s.region (r + 1)
  match o.liveSlot g with
  | some v => memWrite (loc + ownMember s e.grp * b) (versionData s o v (slotFrom s o) b) s
  | none => s

/-- Every member's shard of the gathered copy under way has landed. -/
def gatherWhole (s : State) (e : Region) : Bool := (members s e.grp).all fun m => e.landed.contains m.1

/-- Start the gather of the newest generation of sharded entry `r`, when no gather is under way and that generation is not
gathered yet, into the copy that a rollback left RESTORING or a FREE slot (R230, R237). -/
def startGather (r : Nat) (s : State) : State :=
  let e := s.region r
  if !e.sharded || e.owned || !e.landed.isEmpty then s
  else match (s.region (r + 1)).newest with
    | none => s
    | some g =>
      let back := e.slots.any fun v => v.state == .restoring && v.gen == g
      let into := fun v : VSlot => if back then v.state == .restoring && v.gen == g else v.state == .free
      if e.slots.any (fun v => v.gen == g && v.state == .live && !v.dying) then s
      else match e.slots.find? into with
        | none => s
        | some v =>
          let s := modRegion r (fun e => { (e.mapFirst into
            (fun v => { v with gen := g, state := if back then .restoring else .pending, ref := 0, pins := 0, dying := false }))
              with landed := [ownMember s e.grp] }) s
          let s := copyOwnShard r g v.loc s
          ((members s e.grp).filter fun m => decide (m.2.2 ≤ 15)).foldl (fun s m => askShard r e g m s) s

/-- Turn the gathered copy of `g` LIVE once its last shard has landed, and gather what has become newest meanwhile (R237). -/
def finishGather (r g : Nat) (s : State) : State :=
  if gatherWhole s (s.region r) then
    startGather r (retireCheck r (modRegion r (fun e => { (e.mapFirst (fun v => (v.state == .pending || v.state == .restoring) && v.gen == g)
      (fun v => { v with state := .live })) with landed := [] }) s))
  else s

/-- Start whatever gather can start. -/
def startGathers (s : State) : State :=
  s.regions.foldl (fun s e => match (startGather e.1 s).region? e.1 with
    | some r => if r.landed.isEmpty then s else finishGather e.1 ((s.region (e.1 + 1)).newest.getD 0) (startGather e.1 s)
    | none => s) s

/-! ### Snapshots (R232, R405) -/

/-- A snapshot ends: its pins are released, and its command completes. -/
def endSnap (h : HostHdr) (status : Nat) (s : State) : State :=
  match s.upd.snaps.find? (fun j => j.h == h) with
  | none => s
  | some j =>
    let s := { s with upd := { s.upd with snaps := dropFirst (fun k => k == j) s.upd.snaps } }
    let s := match j.regionPin with
      | some (r, i) => startGathers (retireCheck r (modRegion r (fun e =>
          { e with slots := modNth (fun v => { v with pins := v.pins - 1 }) e.slots i }) s))
      | none => s
    complete h status s

end Sys2Proof.Machine
end

