-- ==== Sys2Proof/Machine/Experts.lean ====
section
/-! DEFINITION. Which experts of a router a context owns, and which of its instructions and weight regions are an expert's (R181,
R188, R192, log 45). -/
namespace Sys2Proof.Machine

/-! ### Members (R181, R468) -/

/-- KIND of the expert group of context `x`. -/
def expertKind (x : Nat) : Nat := 8 + x
/-- Member index of a module in a KIND. -/
def memberOf (s : State) (kind modid : Nat) : Option Nat :=
  ((members s kind).find? fun m => m.2.1 == modid).map (·.1)
/-- MODID and PORT of a member. -/
def memberAt (s : State) (kind i : Nat) : Option (Nat × Nat) :=
  ((members s kind).find? fun m => m.1 == i).map (·.2)

/-! ### The experts of a context -/

/-- Router and LOCAL of the experts that context `x` of this module owns. -/
def localExperts (s : State) (x : Nat) : List (Nat × Nat) :=
  let c := s.ctx x
  (upto c.pat.routers.length).flatMap fun r => (upto (c.nExperts r)).filterMap fun e =>
    let m := c.expertAt r e
    if m.1 = ownMember s (expertKind x) ∧ m.2.2 = x then some (r, m.2.1) else none

/-- The tensor slot of a role of an expert, or of a router at its source (log 45). -/
def Ctx.moeSlot (c : Ctx) (e : Nat × Nat) (role : Nat) : Nat := Config.moeSlot c.pat.digest e.1 e.2 role

/-- The instructions of a list that read one of the slots, or what an earlier one of them wrote. -/
def followSlots (c : Ctx) : List Nat → List Nat → List Nat
  | _, [] => []
  | l, i :: t =>
    let w := c.workAt i
    if w.reads.any l.contains then i :: followSlots c (l ++ w.writes) t else followSlots c l t

/-- The instructions of a phase that run an expert: what follows from its input in F and X, from the gradient of its output in B. -/
def Ctx.expertInstrs (c : Ctx) (e : Nat × Nat) (ph : Nat) : List Nat :=
  if ph = phB then followSlots c [c.moeSlot e 2] (c.listOf phB) else followSlots c [c.moeSlot e 0] (c.listOf phF)

/-- Local indices of the weight regions of an expert: those its forward instructions read. -/
def Ctx.expertRegions (c : Ctx) (e : Nat × Nat) : List Nat :=
  let read := ((c.expertInstrs e phF).flatMap fun i => (c.workAt i).reads).flatMap fun t => [t, dMeta (c.desc t)]
  (((read.filter fun t => t != 0 && dKind (c.desc t) == 0).map fun t => dRegion (c.desc t)).filter (· != 0xFFFF)).eraseDups

/-- The local region belongs to an expert of context `x`. -/
def isExpertRegion (s : State) (x i : Nat) : Bool :=
  (localExperts s x).any fun e => ((s.ctx x).expertRegions e).contains i

/-- The assembled input of an expert for a slot: X runs again on that of F (R192, R194). -/
def Ctx.runOfExpert (c : Ctx) (e : Nat × Nat) (st : Stamp) : Option ExpertRun :=
  let ph := if st.phase = phB then phB else phF
  c.experts.find? fun r => r.router == e.1 && r.expert == e.2 && r.stamp == { st with phase := ph }

/-- The expert that instruction `idx` of context `x` runs in a phase. -/
def expertOfInstr (s : State) (x idx ph : Nat) : Option (Nat × Nat) :=
  (localExperts s x).find? fun e => ((s.ctx x).expertInstrs e ph).contains idx

/-- Rows that instruction `idx` works on for a slot of `tok` tokens: the rows assembled for its expert, or the tokens. -/
def workRows (s : State) (x idx : Nat) (st : Stamp) (tok : Nat) : Nat :=
  match expertOfInstr s x idx st.phase with
  | some e => match (s.ctx x).runOfExpert e st with | some r => r.count | none => 0
  | none => tok

/-! ### Ring layers (R198 to R205) -/

/-- KIND of the sequence group of context `x` (R468). -/
def seqKind (x : Nat) : Nat := 0x18 + x
/-- Group size S and shard length L ÷ S. -/
def seqSize (c : Ctx) : Nat := match c.pat.seqd with | some q => bits q 32 8 + 1 | none => 0
def seqTokens (c : Ctx) : Nat := match c.pat.seqd with | some q => bits q 0 25 / seqSize c | none => 0

/-- Ring layers of a context that shards sequences (log 49). -/
def Ctx.ringLayers (c : Ctx) : Nat := if c.pat.seqd.isSome then Config.ringLayers c.pat.digest else 0
/-- The tensor slots K, V, dK, dV of a layer for the block of a hop, 0 for the member's own (log 49). -/
def Ctx.ringSlots (c : Ctx) (layer hop : Nat) : List Nat := (upto 4).map (Config.ringSlot c.pat.digest layer hop)

/-- The block of a layer and hop has come for a stamp and lies in its slots (R203). -/
def Ctx.ringPlaced (c : Ctx) (layer hop : Nat) (st : Stamp) : Bool :=
  c.ringMerged.any fun m => m.1 == layer && m.2.1 == st && m.2.2.2 == hop

/-! ### What an instruction waits for beside its dependencies -/

/-- Expert inputs, sums of backward batches and ring blocks that an instruction works on for a stamp are there (R188, R194, R203). -/
def inputsThere (s : State) (x : Nat) (w : Work) (st : Stamp) : Bool :=
  let c := s.ctx x
  let expert := (localExperts s x).all fun e =>
    !w.reads.contains (c.moeSlot e (if st.phase = phB then 2 else 0)) || (c.runOfExpert e st).any (·.placed)
  let source := (upto c.pat.routers.length).all fun r =>
    st.phase != phB || (c.slots.any fun v => v.stamp == { st with phase := phF } && v.routes.any fun q => q.router == r
      && (q.backDone || !w.reads.contains (c.moeSlot (r, 0) 5)) && (q.sentB || !w.reads.contains (c.moeSlot (r, 0) 6)))
      || !(w.reads.contains (c.moeSlot (r, 0) 5) || w.reads.contains (c.moeSlot (r, 0) 6))
  let ring := (upto c.ringLayers).all fun l => (upto (seqSize c + 1)).all fun h =>
    h == 0 || !(c.ringSlots l h).any (w.reads ++ w.writes).contains || c.ringPlaced l h st
  st.phase == phW || expert && source && ring

/-- The output of every router that an instruction reads for a stamp is combined, by F or by X (R191 step 6). -/
def combinedThere (c : Ctx) (w : Work) (st : Stamp) : Bool :=
  (upto c.pat.routers.length).all fun r => !w.reads.contains (c.tOut r) || (st.phase != phF && st.phase != phX)
    || c.slots.any fun v => v.stamp == { st with phase := phF }
        && v.routes.any fun q => q.router == r && (if st.phase = phF then q.combined else q.xDone)

end Sys2Proof.Machine
end

