-- ==== Sys2Proof/Machine/Crypto.lean ====
section
/-! DEFINITION. SHA-384 and ECDSA P-384 verification, which R246, R338, R463 and R465 name. The algorithms are those of
the public standards FIPS 180-4 and FIPS 186-5 (PRESUMED, log 16). -/
namespace Sys2Proof.Machine

/-! ### SHA-384 -/

/-- 2^64. -/
def w64 : Nat := 0x10000000000000000

/-- Round constants: fractions of the cube roots of the first 80 primes. -/
def shaK : List Nat :=
  [0x428A2F98D728AE22, 0x7137449123EF65CD, 0xB5C0FBCFEC4D3B2F, 0xE9B5DBA58189DBBC] ++
  [0x3956C25BF348B538, 0x59F111F1B605D019, 0x923F82A4AF194F9B, 0xAB1C5ED5DA6D8118] ++
  [0xD807AA98A3030242, 0x12835B0145706FBE, 0x243185BE4EE4B28C, 0x550C7DC3D5FFB4E2] ++
  [0x72BE5D74F27B896F, 0x80DEB1FE3B1696B1, 0x9BDC06A725C71235, 0xC19BF174CF692694] ++
  [0xE49B69C19EF14AD2, 0xEFBE4786384F25E3, 0x0FC19DC68B8CD5B5, 0x240CA1CC77AC9C65] ++
  [0x2DE92C6F592B0275, 0x4A7484AA6EA6E483, 0x5CB0A9DCBD41FBD4, 0x76F988DA831153B5] ++
  [0x983E5152EE66DFAB, 0xA831C66D2DB43210, 0xB00327C898FB213F, 0xBF597FC7BEEF0EE4] ++
  [0xC6E00BF33DA88FC2, 0xD5A79147930AA725, 0x06CA6351E003826F, 0x142929670A0E6E70] ++
  [0x27B70A8546D22FFC, 0x2E1B21385C26C926, 0x4D2C6DFC5AC42AED, 0x53380D139D95B3DF] ++
  [0x650A73548BAF63DE, 0x766A0ABB3C77B2A8, 0x81C2C92E47EDAEE6, 0x92722C851482353B] ++
  [0xA2BFE8A14CF10364, 0xA81A664BBC423001, 0xC24B8B70D0F89791, 0xC76C51A30654BE30] ++
  [0xD192E819D6EF5218, 0xD69906245565A910, 0xF40E35855771202A, 0x106AA07032BBD1B8] ++
  [0x19A4C116B8D2D0C8, 0x1E376C085141AB53, 0x2748774CDF8EEB99, 0x34B0BCB5E19B48A8] ++
  [0x391C0CB3C5C95A63, 0x4ED8AA4AE3418ACB, 0x5B9CCA4F7763E373, 0x682E6FF3D6B2B8A3] ++
  [0x748F82EE5DEFB2FC, 0x78A5636F43172F60, 0x84C87814A1F0AB72, 0x8CC702081A6439EC] ++
  [0x90BEFFFA23631E28, 0xA4506CEBDE82BDE9, 0xBEF9A3F7B2C67915, 0xC67178F2E372532B] ++
  [0xCA273ECEEA26619C, 0xD186B8C721C0C207, 0xEADA7DD6CDE0EB1E, 0xF57D4F7FEE6ED178] ++
  [0x06F067AA72176FBA, 0x0A637DC5A2C898A6, 0x113F9804BEF90DAE, 0x1B710B35131C471B] ++
  [0x28DB77F523047D84, 0x32CAAB7B40C72493, 0x3C9EBE0A15C9BEBC, 0x431D67C49C100D4C] ++
  [0x4CC5D4BECB3E42B6, 0x597F299CFC657E2A, 0x5FCB6FAB3AD6FAEC, 0x6C44198C4A475817]

/-- Initial hash value of SHA-384. -/
def shaH : List Nat :=
  [0xCBBB9D5DC1059ED8, 0x629A292A367CD507, 0x9159015A3070DD17, 0x152FECD8F70E5939] ++
  [0x67332667FFC00B31, 0x8EB44A8768581511, 0xDB0C2E0D64F98FA7, 0x47B5481DBEFA4FA4]

/-- Rotate a 64-bit word right. -/
def rotr (x n : Nat) : Nat := (x >>> n) ||| ((x <<< (64 - n)) % w64)

/-- Steps of the message schedule; the list holds the newest word first. -/
def shaExtend : Nat → List Nat → List Nat
  | 0, w => w
  | k + 1, w =>
    let a := nth 0 w 1
    let b := nth 0 w 6
    let c := nth 0 w 14
    let d := nth 0 w 15
    let s1 := Nat.xor (Nat.xor (rotr a 19) (rotr a 61)) (a >>> 6)
    let s0 := Nat.xor (Nat.xor (rotr c 1) (rotr c 8)) (c >>> 7)
    shaExtend k (((s1 + b + s0 + d) % w64) :: w)

/-- The eight working variables. -/
structure ShaVars where
  a : Nat
  b : Nat
  c : Nat
  d : Nat
  e : Nat
  f : Nat
  g : Nat
  h : Nat
  deriving DecidableEq, Repr

/-- One round. -/
def shaRound (v : ShaVars) (kw : Nat × Nat) : ShaVars :=
  let s1 := Nat.xor (Nat.xor (rotr v.e 14) (rotr v.e 18)) (rotr v.e 41)
  let ch := Nat.xor (v.e &&& v.f) ((w64 - 1 - v.e) &&& v.g)
  let t1 := (v.h + s1 + ch + kw.1 + kw.2) % w64
  let s0 := Nat.xor (Nat.xor (rotr v.a 28) (rotr v.a 34)) (rotr v.a 39)
  let maj := Nat.xor (Nat.xor (v.a &&& v.b) (v.a &&& v.c)) (v.b &&& v.c)
  ⟨(t1 + s0 + maj) % w64, v.a, v.b, v.c, (v.d + t1) % w64, v.e, v.f, v.g⟩

/-- Big-endian number of a byte list. -/
def beNat (l : List Byte) : Nat := l.foldl (fun acc b => acc * 256 + b.toNat) 0
/-- The `n` big-endian bytes of `v`. -/
def beBytes (n v : Nat) : List Byte := (leBytes n v).reverse

/-- Compress one 128-byte block. -/
def shaBlock (v : ShaVars) (blk : List Byte) : ShaVars :=
  let w0 := (chunks 8 16 blk).map beNat
  let w := (shaExtend 64 w0.reverse).reverse
  let r := (shaK.zip w).foldl shaRound v
  ⟨(v.a + r.a) % w64, (v.b + r.b) % w64, (v.c + r.c) % w64, (v.d + r.d) % w64,
    (v.e + r.e) % w64, (v.f + r.f) % w64, (v.g + r.g) % w64, (v.h + r.h) % w64⟩

/-- SHA-384 of a byte string: 48 bytes. -/
def sha384 (m : List Byte) : List Byte :=
  let n := m.length
  let z := (240 - (n + 1) % 128) % 128
  let p := m ++ [0x80#8] ++ List.replicate z 0 ++ beBytes 16 (8 * n)
  let h : Nat → Nat := nth 0 shaH
  let r := (chunks 128 (p.length / 128 + 1) p).foldl shaBlock ⟨h 0, h 1, h 2, h 3, h 4, h 5, h 6, h 7⟩
  ([r.a, r.b, r.c, r.d, r.e, r.f].map (beBytes 8)).flatten

/-- A digest as the number of its 48 bytes, lowest address first (R7). -/
def digestNat (m : List Byte) : Nat := leNat (sha384 m)

/-! ### ECDSA over P-384 -/

/-- The field prime. -/
def p384 : Nat := 0xfffffffffffffffffffffffffffffffffffffffffffffffffffffffffffffffeffffffff0000000000000000ffffffff
/-- The group order. -/
def n384 : Nat := 0xffffffffffffffffffffffffffffffffffffffffffffffffc7634d81f4372ddf581a0db248b0a77aecec196accc52973
/-- The coefficient b. -/
def b384 : Nat := 0xb3312fa7e23ee7e4988e056be3f82d19181d9c6efe8141120314088f5013875ac656398d8a2ed19d2a85c8edd3ec2aef
/-- The base point. -/
def g384 : Nat × Nat :=
  (0xaa87ca22be8b05378eb1c71ef320ad746e1d3b628ba79b9859f741e082542a385502f25dbf55296c3a545e3872760ab7,
   0x3617de4a96262c6f5d9e98bf9292dc29f8f41dbd289a147ce9da3113b5f0b8c00a60b1ce1d7e819d7a431d7c90ea0e5f)

/-- Power modulo m; `f` bounds the bits of the exponent. -/
def powMod (m : Nat) : Nat → Nat → Nat → Nat
  | 0, _, _ => 1 % m
  | f + 1, b, e =>
    let r := powMod m f (b * b % m) (e / 2)
    if e % 2 = 1 then r * b % m else r

/-- Inverse modulo a prime. -/
def invMod (m a : Nat) : Nat := powMod m 400 (a % m) (m - 2)

/-- A point in Jacobian coordinates; z = 0 is the point at infinity. -/
structure Jac where
  x : Nat
  y : Nat
  z : Nat
  deriving DecidableEq, Repr

/-- Subtraction in the field. -/
def fsub (a b : Nat) : Nat := (a + p384 - b % p384) % p384

/-- Twice a point (a = -3). -/
def jacDouble (q : Jac) : Jac :=
  if q.z = 0 ∨ q.y = 0 then ⟨1, 1, 0⟩
  else
    let yy := q.y * q.y % p384
    let s := 4 * q.x * yy % p384
    let zz := q.z * q.z % p384
    let m := 3 * fsub q.x zz * (q.x + zz) % p384
    let x := fsub (m * m) (2 * s)
    ⟨x, fsub (m * fsub s x) (8 * yy * yy), 2 * q.y * q.z % p384⟩

/-- Sum of two points. -/
def jacAdd (q r : Jac) : Jac :=
  if q.z = 0 then r
  else if r.z = 0 then q
  else
    let z1 := q.z * q.z % p384
    let z2 := r.z * r.z % p384
    let u1 := q.x * z2 % p384
    let u2 := r.x * z1 % p384
    let s1 := q.y * z2 * r.z % p384
    let s2 := r.y * z1 * q.z % p384
    if u1 = u2 then (if s1 = s2 then jacDouble q else ⟨1, 1, 0⟩)
    else
      let h := fsub u2 u1
      let k := fsub s2 s1
      let hh := h * h % p384
      let hhh := h * hh % p384
      let v := u1 * hh % p384
      let x := fsub (fsub (k * k) hhh) (2 * v)
      ⟨x, fsub (k * fsub v x) (s1 * hhh), h * q.z * r.z % p384⟩

/-- k times a point; `f` bounds the bits of k. -/
def jacMul : Nat → Nat → Jac → Jac
  | 0, _, _ => ⟨1, 1, 0⟩
  | f + 1, k, q =>
    let r := jacMul f (k / 2) (jacDouble q)
    if k % 2 = 1 then jacAdd r q else r

/-- A public key in 97 bytes of SEC1, uncompressed, on the curve. -/
def pubKey (l : List Byte) : Option Jac :=
  let x := beNat ((l.drop 1).take 48)
  let y := beNat ((l.drop 49).take 48)
  if l.length = 97 ∧ leAt l 0 1 = 4 ∧ x < p384 ∧ y < p384
      ∧ y * y % p384 = (x * x * x + b384 + 3 * (p384 - x)) % p384 then some ⟨x, y, 1⟩ else none

/-- Verify a signature, r then s in 48 little-endian bytes each, over a message hashed with SHA-384. -/
def ecdsaVerify (pk sig msg : List Byte) : Bool :=
  let r := leAt sig 0 48
  let s := leAt sig 48 48
  match pubKey pk with
  | none => false
  | some q =>
    if sig.length ≠ 96 ∨ r = 0 ∨ n384 ≤ r ∨ s = 0 ∨ n384 ≤ s then false
    else
      let e := beNat (sha384 msg)
      let w := invMod n384 s
      let t := jacAdd (jacMul 400 (e * w % n384) ⟨g384.1, g384.2, 1⟩) (jacMul 400 (r * w % n384) q)
      if t.z = 0 then false
      else
        let zi := invMod p384 t.z
        t.x * zi % p384 * zi % p384 % n384 == r

end Sys2Proof.Machine
end

