-- ==== Sys2Proof/Machine/Queues.lean ====
section
/-! DEFINITION. Queues, queue entries and credits (R211, R213 to R219, R549), who produces what a queue receives, what
a port discards and counts (R331, R342), and the entry of a port into DOWN (R301, R343). -/
namespace Sys2Proof.Machine

/-! ### Neighbours (R208, R211, R468) -/

/-- Who stands at the other end of a queue. -/
inductive Peer where
  | none
  | host
  | here (y : Nat)
  | away (p modid y : Nat)
  deriving DecidableEq, Repr

/-- The peer a destination index names. -/
def peerOf (s : State) (d : Nat) : Peer :=
  match destOf s d with
  | .none => .none
  | some (p, m, y) => if p ≤ 15 then .away p m y else .here y

/-- Byte `i` of the context record of `x` (R468, TYPE 0x04). -/
def ctxRec (s : State) (x i : Nat) : Option Nat := (stageRec s 4 x).map fun r => leAt r i 1

/-- The neighbour that byte `i` of the context record names; 0xFF names none. -/
def neighbour (s : State) (x i : Nat) : Peer :=
  match ctxRec s x i with
  | some d => if d = 0xFF then .none else peerOf s d
  | .none => .none
/-- The downstream neighbour of `x`. -/
def downOf (s : State) (x : Nat) : Peer := neighbour s x 3
/-- The upstream neighbour of `x`. -/
def upOf (s : State) (x : Nat) : Peer := neighbour s x 2
/-- Who produces the entries of queue `q` of `x` (0 = activation, 1 = gradient). -/
def producerOf (s : State) (x q : Nat) : Peer :=
  let c := s.ctx x
  if q = 0 then
    if c.first then
      match ctxRec s x 4 with
      | some 0xFE => .host
      | some 0xFF => .none
      | some d => peerOf s d
      | .none => .none
    else upOf s x
  else if c.last then .here x else downOf s x

def Ctx.queue (c : Ctx) (q : Nat) : Queue := if q = 0 then c.aq else c.gq
/-- Change queue `q` of context `x`. -/
def modQueue (x q : Nat) (f : Queue → Queue) (s : State) : State :=
  modCtx x (fun c => if q = 0 then { c with aq := f c.aq } else { c with gq := f c.gq }) s

/-- The VC of a queue's entries, from the parity of the receiving STAGE (R215). -/
def queueVc (stage q : Nat) : Nat := 2 * q + stage % 2
/-- Parity of the STAGE that receives what `x` sends: the next stage, or the previous one. -/
def sendVc (c : Ctx) (q : Nat) : Nat := if q = 0 then queueVc (c.stage + 1) 0 else queueVc (c.stage + 1) 1

/-! ### Queue descriptors (R213) -/

/-- The 32 bytes of a queue descriptor (R213); a producer sends SRC as zero. -/
def descBytes (d : QDesc) : List Byte :=
  leBytes 32 (packStamp d.stamp + d.kind % 16 * 2 ^ 80 + d.tok32 % 2 ^ 16 * 2 ^ 96 + d.texp % 2 ^ 9 * 2 ^ 112
    + d.bytes % 2 ^ 32 * 2 ^ 128 + d.buf % 2 ^ 16 * 2 ^ 160 + d.ctx % 16 * 2 ^ 176 + d.q % 2 * 2 ^ 180)

/-- The descriptor in 32 bytes. -/
def descOf (l : List Byte) : QDesc :=
  let v := leNat (l.take 32)
  ⟨unpackStamp v, bits v 80 4, bits v 88 8, bits v 96 16, bits v 112 9, bits v 128 32, bits v 160 16,
    bits v 176 4, bits v 180 1⟩

/-! ### Granting credits (R216) -/

/-- How many credits queue `u` may grant now. -/
def grantable (u : Queue) : Nat := min (u.depth - (u.granted.length + u.entries.length)) u.free.length

/-- A context that grants credits: running or pre-empted (R242, R265). -/
def Ctx.grants (c : Ctx) : Bool := c.state == .running || c.state == .preempted

/-- Free buffers of queue `q` of `x` go to its producer as credits. The host takes its buffer itself (R428), so nothing is
granted to it ahead. -/
def giveCredits (x q : Nat) (bufs : List Nat) (s : State) : State :=
  let take := modQueue x q (fun u => { u with
    free := u.free.filter (fun b => !bufs.contains b), granted := u.granted ++ bufs })
  match producerOf s x q with
  | .none => s
  | .host => s
  | .here y =>
    modCtx y (fun c => if q = 0 then { c with downCredits := c.downCredits ++ bufs }
      else if y = x then { c with upCredits := c.upCredits } else { c with upCredits := c.upCredits ++ bufs }) (take s)
  | .away p m _ =>
    let data := bufs.flatMap (leBytes 2)
    let body := xferBytes ⟨6, 0, 0, 0, roundUp data.length 64, false, false, x, q, bufs.length, false⟩
      ++ padTo (roundUp data.length 64) data
    sendXfer p (queueVc (s.ctx x).stage q) m body (.grants x q) (take s)

/-- Grant every credit that R216 allows for queue `q` of `x`, to its producer. -/
def grantQueue (x q : Nat) (s : State) : State :=
  let u := (s.ctx x).queue q
  let n := grantable u
  if !(s.ctx x).grants || n = 0 then s else giveCredits x q (u.free.take n) s

/-- The buffer of a discarded entry returns as the credit that the entry used, whatever the state of the context (R49,
R243). -/
def returnBuf (x q buf : Nat) (s : State) : State :=
  giveCredits x q [buf] (modQueue x q (fun u => { u with free := u.free ++ [buf] }) s)

/-- A buffer returns to the free list and serves further credits (R217). -/
def freeBuf (x q buf : Nat) (s : State) : State :=
  grantQueue x q (modQueue x q (fun u => { u with free := u.free ++ [buf] }) s)

/-! ### Discards and drops at a port (R299, R331, R342, R343) -/

/-- Does the port hold a queue credit of `x` granted over it? -/
def grantedOver (s : State) (p x q : Nat) : Bool :=
  match producerOf s x q with
  | .away r _ _ => r == p
  | _ => false

/-- Return to the free lists every buffer named in a credit granted over port `p` and not used (R343). -/
def reclaimGrants (p : Nat) (s : State) : State :=
  (upto 16).foldl (fun s x => (upto 2).foldl (fun s q =>
    if grantedOver s p x q then
      modQueue x q (fun u => { u with free := u.free ++ u.granted, granted := [] }) s
    else s) s) s

/-- Does peer `w` lie over port `p`? -/
def overPort (p : Nat) (w : Peer) : Bool :=
  match w with
  | .away r _ _ => r == p
  | _ => false

/-- The sender forgets the unused queue credits it received over port `p` (R343). -/
def forgetCredits (p : Nat) (s : State) : State :=
  (upto 16).foldl (fun s x =>
    let s := if overPort p (downOf s x) then modCtx x (fun c => { c with downCredits := [] }) s else s
    if overPort p (upOf s x) then modCtx x (fun c => { c with upCredits := [] }) s else s) s

/-- What becomes of a transfer that a port holds when it enters DOWN: a COPY, a SNAPSHOT or a LINK_CONTROL ends with
PEER_ABSENT (R424, R428), a reduction transfer is kept for
sending again (R378). Any other is discarded when it was partly sent, and else waits for the port to carry again (R343). -/
def dropTx (p : Nat) (started : Bool) (t : TxXfer) (s : State) : State :=
  match t.done with
  | .copy h =>
    complete h stPeerAbsent { s with hif := { s.hif with copies := s.hif.copies.filter fun j => j.h != h } }
  | .snapshot h => endSnap h stPeerAbsent s
  | .control h => complete h stPeerAbsent s
  | .partialOf g b k n =>
    modPort p (fun q => { q with parked := q.parked ++ [{ t with sent := 0, lastSeq := none, done := .partialOf g b k n }] }) s
  | .nothing => if started then s else modPort p (fun q => { q with tx := q.tx ++ [t] }) s
  | _ => s

/-- An entry that a port had not started to send waits for a credit again (R343). -/
def entryWaits (t : TxXfer) (s : State) : State :=
  match t.done with
  | .entry x o => modCtx x (fun c => { c with outgoing := o :: c.outgoing }) s
  | _ => s

/-- A port changes state: CHANGED is set and vector 2 raised when IRQ_EN = 1 (R345). -/
def setLink (p : Nat) (st : LinkState) (s : State) : State :=
  let s := modPort p (fun q => { q with state := st }) s
  raiseIf (fld s (oLnk p 0) 3 1 == 1) 2 (setBit (oLnk p 4) 5 s)

/-- A record of a wait: the wait, its cancel or its wake (R294). -/
def isWaitRec (r : FlagRec) : Bool := decide (3 ≤ r.op) && decide (r.op ≤ 5)

/-- The flag side of a port leaving UP (R301): a fenced record whose markers have not all come, with their data committed, is
discarded, and so are the waits among the records behind it, and the records of the waits that end, sent no more. The other records
received apply (log 177). -/
def dropWaits (p : Nat) (s : State) : State :=
  let own : Wait → Bool := fun w => match w.who with | .remote r _ _ => r == p | _ => false
  let far := s.flg.farWaits.filter fun f => f.port == p
  let s := { s with flg := { s.flg with waits := s.flg.waits.filter (fun w => !own w),
                                        farWaits := s.flg.farWaits.filter fun f => f.port != p } }
  let s := modPort p (fun q => { q with
    remoteWaits := 0,
    ctl := q.ctl.filter (fun t => t.1 != 2 || !isWaitRec (recOf t.2.2.1)),
    pendingRecs := (q.pendingRecs.filter fun r => !isWaitRec r.2 && (!r.2.fence || fenceMet q r.2)).map fun r =>
      (r.1, { r.2 with fence := false }) }) s
  far.foldl (fun s f => endSeqWait f.ctx stPeerAbsent s) s

/-- A record of a LINK_CONTROL, which ends when the port enters DOWN (R427). -/
def isControl : TxDone → Bool
  | .control _ => true
  | _ => false

/-- The fenced records that have not left, oldest first: their markers are sent again with them, since those sent may be
lost with the retry buffer (R297, R343). -/
def fencedAgain (q : Port) : List FencedOp :=
  ((q.ctl.filter fun t => isFenced t.1 t.2.2.1).map fun t => ⟨recOf t.2.2.1, t.2.1, false, t.2.2.2⟩)
    ++ q.fenced.map fun f => { f with marked := false }

/-- The port enters DOWN (R343). In DOWN already, only the cause is recorded. -/
def portDown (p cause : Nat) (s : State) : State :=
  let q := s.port p
  if q.state = .down then modPort p (fun q => { q with cause := cause }) s
  else
    let unsent := q.tx.filter fun t => t.sent == 0
    let begun := q.tx.filter fun t => t.sent != 0
    let ctlDone := q.ctl.map fun t => t.2.2.2
    let clear : Port → Port := fun q => { q with
      cause := cause, retrain := false, authed := false, retry := [], rxPart := [], tx := [],
      ctl := q.ctl.filter (fun t => !isControl t.2.2.2 && !isFenced t.1 t.2.2.1), fenced := fencedAgain q, stalls := 0, avail := List.replicate 16 0, held := List.replicate 16 0,
      returned := List.replicate 16 0, reported := List.replicate 16 0, seenRet := List.replicate 16 0,
      paused := 0, inWrite := [], replays := 0, replayFrom := none, nakFor := none }
    let s := modPort p clear { s with
      stalled := s.stalled.filter (fun q => !cameOver p q.2), heldArr := s.heldArr.filter fun q => !cameOver p q.2 }
    let s := begun.foldl (fun s t => dropTx p true t s) s
    let s := unsent.reverse.foldl (fun s t => entryWaits t s) (unsent.foldl (fun s t => dropTx p false t s) s)
    let s := ctlDone.foldl (fun s d => match d with | .control h => complete h stPeerAbsent s | _ => s) s
    let s := reclaimGrants p (forgetCredits p s)
    let s := dropWaits p s
    logEv 0x11 stPeerAbsent agHub { port := p, arg := cause } (setLink p .down s)

/-- Times of the last millisecond of GLB_TIME. -/
def recent (s : State) (l : List Nat) : List Nat := l.filter fun t => decide ((s.glb.time + 2 ^ 64 - t) % 2 ^ 64 < 1000000)

/-- An item is dropped or discarded at port `p`: its bit of LNK_ERR, DROP_CNT, and DOWN with cause 0x08 once more
than ERR_LIMIT items fall within a millisecond (R342). -/
def dropItem (p bitNo : Nat) (s : State) : State :=
  let s := bump (oLnk p 0x200) 16 16 1 (setBit (oLnk p 0x200) bitNo s)
  let times := recent s (s.port p).dropTimes ++ [s.glb.time]
  let s := modPort p (fun q => { q with dropTimes := times }) s
  let limit := fld s (oLnk p 0x30) 24 8
  if fld s (oLnk p 0x30) 1 1 = 1 ∧ limit ≠ 0 ∧ limit < times.length then portDown p 0x08 s else s

/-! Bits of LNK_ERR (R345). -/
def errWindow : Nat := 0
def errFlag : Nat := 1
def errRate : Nat := 2
def errDest : Nat := 3
def errQueue : Nat := 4
def errProto : Nat := 5

/-- A rule broken at link level: LNK_ERR.PROTO and DOWN with cause 0x07 (R320, R341). -/
def protoError (p : Nat) (s : State) : State := portDown p 0x07 (setBit (oLnk p 0x200) errProto s)

/-! ### Receiving entries (R214, R218) -/

/-- Where an entry comes from. -/
inductive Origin where
  | link (p srcmod : Nat)
  | localCtx (y : Nat)
  | host
  | die
  deriving DecidableEq, Repr

/-- SRC of R213 as the receiver sets it. -/
def Origin.src : Origin → Nat
  | .link p _ => p
  | .localCtx y => 0x10 + y
  | .host => 0x20
  | .die => 0x20
/-- PORT of a log entry (R527). -/
def Origin.logPort : Origin → Nat
  | .link p _ => p
  | .localCtx _ => 0x1F
  | .host => 0x10
  | .die => 0x12
/-- SRCMOD of the arrival, 0 when it did not come over a stage link. -/
def Origin.srcmod : Origin → Nat
  | .link _ m => m
  | _ => 0
/-- Source code of STR_NOW (R65). The table has no code for an entry of the die interface: 0xFF (log 129). -/
def Origin.nowSrc : Origin → Nat
  | .link p _ => p
  | .localCtx y => 0x10 + y
  | _ => 0xFF

/-- The KIND a queue takes (R218). -/
def queueKind (c : Ctx) (q : Nat) : Nat := if q = 1 then 1 else if c.first then 2 else 0

/-- The first five checks of R218: `hbuf` is the BUF of the transfer header. -/
def entryBad (c : Ctx) (q hbuf : Nat) (d : QDesc) : Bool :=
  let u := c.queue q
  c.state == .empty || !u.granted.contains hbuf || d.buf != hbuf || d.kind != queueKind c q
    || decide (u.bufBytes < d.bytes)

/-- The checks of R218 that the header of a queue-entry transfer allows at its FIRST flit (R331): the context is loaded, the
buffer was granted, and the data fits. -/
def queueHdrBad (s : State) (h : XferHdr) : Bool :=
  let u := (s.ctx h.ctx).queue h.q
  (s.ctx h.ctx).state == .empty || !u.granted.contains h.count || decide (u.bufBytes < h.bytes)

/-- Address of buffer `i` of a queue (R549). -/
def bufAddr (u : Queue) (i : Nat) : Nat := u.base + i * u.bufBytes

/-- A discarded entry returns the credit it used (R49): its buffer is granted again. -/
def returnCredit (x q buf : Nat) (s : State) : State :=
  if ((s.ctx x).queue q).granted.contains buf then
    returnBuf x q buf (modQueue x q (fun u => { u with granted := dropFirst (· == buf) u.granted }) s)
  else s

/-- The link side of a discard under R218. -/
def entryDrop (o : Origin) (s : State) : State :=
  match o with
  | .link p _ => dropItem p errQueue s
  | _ => s

/-- An entry refused by R218 (event 0x0B). -/
def refuseEntry (o : Origin) (x q hbuf : Nat) (d : QDesc) (s : State) : State :=
  entryDrop o (discardLog 0x0B stFormat ⟨some d.stamp, o.logPort, x, o.srcmod⟩ (returnCredit x q hbuf s))

/-- Enqueue an accepted entry; `held` under R48. -/
def putEntry (o : Origin) (x q : Nat) (d : QDesc) (held : Bool) (s : State) : State :=
  modQueue x q (fun u => { u with
    granted := dropFirst (· == d.buf) u.granted,
    entries := u.entries ++ [⟨{ d with src := o.src, ctx := x, q := q }, held⟩],
    seen := if held || d.kind == 2 then u.seen else u.seen ++ [d.stamp] }) s

/-- An entry that would be enqueued, eligible or held (R47, R218). -/
def entryTaken (s : State) (x q hbuf : Nat) (d : QDesc) : Bool :=
  !entryBad (s.ctx x) q hbuf d && (d.kind == 2 || match verdict s d.stamp with
    | .hold => true
    | .accept => !((s.ctx x).queue q).seen.contains d.stamp
    | .discard _ => false)

/-- A queue entry arrives with its data in place (R214, R218): check, classify, look for a duplicate, enqueue. -/
def entryArrives (o : Origin) (x q hbuf : Nat) (d : QDesc) (data : List Byte) (s : State) : State :=
  let c := s.ctx x
  let u := c.queue q
  if entryBad c q hbuf d then refuseEntry o x q hbuf d s
  else
    let s := devWrite (bufAddr u hbuf) (data.take d.bytes) s
    if d.kind = 2 then putEntry o x q d false s
    else match verdict s d.stamp with
      | .discard row => discardLog 0x01 stAbandoned ⟨some d.stamp, o.logPort, 0x1F, row⟩ (returnCredit x q hbuf s)
      | .hold => putEntry o x q d true s
      | .accept =>
        if u.seen.contains d.stamp then refuseEntry o x q hbuf d s
        else offerNow d.stamp o.nowSrc (putEntry o x q d false s)

/-! ### Sending entries (R214, R216) -/

/-- Send one waiting entry of `x` with the credit that names `buf`. -/
def dispatchEntry (x : Nat) (o : Outgoing) (buf : Nat) (w : Peer) (s : State) : State :=
  let c := s.ctx x
  match w with
  | .here y => entryArrives (.localCtx x) y o.q buf { o.desc with buf := buf, ctx := y, q := o.q } o.data s
  | .away p m y =>
    let body := xferBytes ⟨1, 0, 0, 0, o.data.length, true, false, y, o.q, buf, false⟩ ++ o.data
      ++ descBytes { o.desc with buf := buf, ctx := y, q := o.q }
    sendXfer p (sendVc c o.q) m body (.entry x o) s
  | _ => s

/-- The peer that receives what `x` sends into queue `q` of its neighbour. -/
def receiverOf (s : State) (x q : Nat) : Peer := if q = 0 then downOf s x else upOf s x

/-- Send the first waiting entry of `x` that holds a credit, as long as there is one; `k` bounds how many. -/
def pumpCtx : Nat → Nat → State → State
  | 0, _, s => s
  | k + 1, x, s =>
    let c := s.ctx x
    match c.outgoing.find? (fun o => if o.q = 0 then !c.downCredits.isEmpty else !c.upCredits.isEmpty) with
    | none => s
    | some o =>
      let buf := if o.q = 0 then c.downCredits.headD 0 else c.upCredits.headD 0
      let s := modCtx x (fun c => { c with
        outgoing := dropFirst (· == o) c.outgoing,
        downCredits := if o.q = 0 then c.downCredits.drop 1 else c.downCredits,
        upCredits := if o.q = 0 then c.upCredits else c.upCredits.drop 1 }) s
      pumpCtx k x (dispatchEntry x o buf (receiverOf s x o.q) s)

/-- Send every waiting entry that holds a credit. -/
def pumpAll (s : State) : State := (upto 16).foldl (fun s x => pumpCtx (s.ctx x).outgoing.length x s) s

/-- Context `x` produces an entry for queue `q` of its neighbour (R212, R214): it leaves when a credit is held. -/
def produceEntry (x q : Nat) (d : QDesc) (data : List Byte) (s : State) : State :=
  pumpAll (modCtx x (fun c => { c with outgoing := c.outgoing ++ [⟨q, d, data⟩] }) s)

/-- A credit of the own gradient queue of a LAST context that no slot in F holds (R212, log 85). -/
def Ctx.ownCredit (c : Ctx) : Option Nat :=
  c.gq.granted.find? fun b => !(c.slots.any fun w => !w.fDone && w.gBuf == some b)

/-- The gradient entry that a LAST context places in its own queue (R212), with the credit that its slot took. -/
def placeOwnGradient (x : Nat) (buf : Option Nat) (d : QDesc) (data : List Byte) (s : State) : State :=
  match buf with
  | some b => entryArrives (.localCtx x) x 1 b { d with buf := b, ctx := x, q := 1 } data s
  | none => s

/-! ### Popping (R211, R219) -/

/-- The eligible entry with the lowest stride key; a FIRST context's activation queue is popped in arrival order. -/
def popChoice (c : Ctx) (q : Nat) : Option QEntry :=
  let el := (c.queue q).entries.filter fun e => !e.held
  if q = 0 && c.first then el.head?
  else (sortBy (fun e => strideKey e.desc.stamp) el).head?

/-- Take an entry out of its queue; its buffer travels with the slot (R217), and an entry that waited for the credit leaves. -/
def popEntry (x q : Nat) (e : QEntry) (s : State) : State :=
  pumpAll <| grantQueue x q (modQueue x q (fun u => { u with entries := dropFirst (· == e) u.entries }) s)

/-- Discard an entry that stands in a queue, without a count, a log entry or a vector (R243). -/
def dropEntry (x q : Nat) (e : QEntry) (s : State) : State := returnBuf x q e.desc.buf
  (modQueue x q (fun u => { u with entries := dropFirst (· == e) u.entries }) s)

/-! ### Returned credits (R216, R330) -/

/-- The context that sends into queue `q` of context `y` of module `m` over port `p`. -/
def creditTaker (s : State) (p m y q : Nat) : Option Nat :=
  (upto 16).find? fun x => receiverOf s x q == .away p m y

/-- Queue credits come over port `p` from module `m`: buffer indices of queue `q` of its context `y`, the receiving
context of the entries (log 87). They go to the context that sends to that queue, loaded or not. -/
def takeCredits (p m y q : Nat) (bufs : List Nat) (s : State) : State :=
  match creditTaker s p m y q with
  | none => s
  | some x =>
    pumpAll (modCtx x (fun c => if q = 0 then { c with downCredits := c.downCredits ++ bufs }
      else { c with upCredits := c.upCredits ++ bufs }) s)

/-- Context `x` is unloaded: credits of its queues that a local producer holds name no buffer any more. -/
def dropLocalCredits (x : Nat) (s : State) : State :=
  let s := match producerOf s x 0 with
    | .here y => modCtx y (fun c => { c with downCredits := [] }) s
    | _ => s
  match producerOf s x 1 with
  | .here y => modCtx y (fun c => { c with upCredits := [] }) s
  | _ => s

end Sys2Proof.Machine
end

