-- ==== Sys2Proof/Machine/Link.lean ====
section
/-! DEFINITION. Stage-link ports (R307 to R345): states, training, negotiation, authentication, retrain in place, lane
failure, pause, virtual channels, and what the host asks of a port. -/
namespace Sys2Proof.Machine

/-! ### Identity and the training record (R334, R335) -/

/-- This module's ID: the module record of the stage map (R468). -/
def modId (s : State) : Nat :=
  match s.boot.image.bind fun m => m.stageMap.find? fun r => leAt r 0 1 == 1 with | some r => leAt r 2 2 | none => 0
/-- The port record of the stage map. -/
def portRec (s : State) (p : Nat) : Option (List Byte) := stageRec s 2 p
/-- IDDIG: bytes 0 to 31 of SHA-384 of an identity public key. -/
def idDigest (pk : List Byte) : List Byte := (sha384 pk).take 32
/-- Capability bits 0 to 13 (R335). -/
def ownCaps : Nat := 0x3FFF

/-- This module's training record for port `p` (R334). -/
def trainingRec (s : State) (p : Nat) (rxmask rxseq : Nat) (nonce : List Byte) : List Byte :=
  [1, 0] ++ leBytes 2 (modId s) ++ leBytes 8 ownCaps
    ++ leBytes 1 (fld s (oLnk p 0x30) 0 1 + 2 * fld s (oLnk p 0) 4 1) ++ leBytes 1 rxmask ++ leBytes 2 rxseq
    ++ idDigest Config.identityKey ++ padTo 48 (nonce.take 48)
    ++ (upto 16).flatMap (fun v => leBytes 2 (fld s (oLnk p (0x100 + 4 * v)) 0 11)) ++ List.replicate 108 0

/-- A flit without sequence number: header of FTYPE `ty`, body, CRC left to `flitBytes` (R319). -/
def plainHeader (s : State) (ty fill dst : Nat) : List Byte :=
  leBytes 16 (ty + fill % 256 * 2 ^ 52 + dst % 2 ^ 16 * 2 ^ 64 + modId s % 2 ^ 16 * 2 ^ 80)

/-! CRC-32 of R318. -/
/-- Eight shifts of the reflected generator. -/
def crcBits : Nat → Nat → Nat
  | 0, c => c
  | k + 1, c => crcBits k (if c % 2 = 1 then Nat.xor (c / 2) 0xEDB88320 else c / 2)
/-- CRC-32 of a byte string: initial value all ones, reflected, complemented. -/
def crc32 (l : List Byte) : Nat :=
  0xFFFFFFFF - l.foldl (fun c b => crcBits 8 (Nat.xor c b.toNat)) 0xFFFFFFFF

/-- A 256-byte flit from its header and body (R318). -/
def flitBytes (hdr body : List Byte) : List Byte :=
  let b := padTo 16 hdr ++ padTo 236 body
  b ++ leBytes 4 (crc32 b)

/-- Take a nonce from the crypto helper (log 12). -/
def nonceOf (s : State) : List Byte := Config.random s.free 48

/-- Start sending the training record of port `p`, with a new nonce (R314, R334). -/
def sendTraining (p rxseq : Nat) (s : State) : State :=
  let r := trainingRec s p (s.port p).rxMask rxseq (nonceOf s)
  let s := spend (modPort p (fun q => { q with ownRec := r }) s)
  emit (.flit p (flitBytes (plainHeader s 4 236 0) r)) s

/-- Go on in the training under way, with the lanes received now: the record keeps its nonce (R314, R334). -/
def sendTrainingAgain (p rxseq : Nat) (s : State) : State :=
  let r := trainingRec s p (s.port p).rxMask rxseq (((s.port p).ownRec.drop 48).take 48)
  emit (.flit p (flitBytes (plainHeader s 4 236 0) r)) (modPort p (fun q => { q with ownRec := r }) s)

/-! ### Virtual channels (R325) -/

/-- Common capability bit `i` of port `p`. -/
def common (s : State) (p i : Nat) : Bool := bit (s.port p).ncap i
/-- The capability bits a VC needs (R325). -/
def vcCaps (v : Nat) : List Nat :=
  if v < 4 then [4, 7] else if v < 6 then [4, 8] else if v = 6 then [4, 9] else if v = 7 then [4, 10]
  else if v < 14 then [11] else if v = 14 then [4, 12] else []
/-- The VC is enabled on the port. -/
def vcEnabled (s : State) (p v : Nat) : Bool :=
  fld s (oLnk p (0x100 + 4 * v)) 12 1 == 1 && (vcCaps v).all (common s p)

/-! Fields of a training record (R334). -/
def recMajor (r : List Byte) : Nat := leAt r 0 1
def recMinor (r : List Byte) : Nat := leAt r 1 1
def recMod (r : List Byte) : Nat := leAt r 2 2
def recCaps (r : List Byte) : Nat := leAt r 4 8
def recPolicy (r : List Byte) : Nat := leAt r 12 1
def recMask (r : List Byte) : Nat := leAt r 13 1 % 32
def recId (r : List Byte) : List Byte := (r.drop 16).take 32
def recGrants (r : List Byte) : List Nat := (upto 16).map fun v => leAt r (96 + 2 * v) 2

/-! ### Carrying (R314, R322, R378) -/

/-- Grant queue credits again over port `p` (R343). -/
def regrant (p : Nat) (s : State) : State :=
  (upto 16).foldl (fun s x => (upto 2).foldl (fun s q => if grantedOver s p x q then grantQueue x q s else s) s) s

/-- The port enters UP or DEGRADED from TRAINING or AUTH: sequence numbers start again, reduction transfers left at
DOWN are sent again, queue credits are granted again. -/
def portCarry (p : Nat) (s : State) : State :=
  let q := s.port p
  let st := if (q.lanes.filter (· != 7)).length = 4 then LinkState.up else LinkState.degraded
  let s := modPort p (fun q => { q with
    stalls := 0, txSeq := 0, rxSeq := 0, ackSeq := 4095, retry := [], replays := 0, replayFrom := none,
    held := recGrants q.ownRec, tx := q.parked ++ q.tx, parked := [] }) s
  pumpFences p (pumpAll (regrant p (setLink p st s)))

/-! ### Lanes (R314 to R317) -/

/-- Healthy physical lanes of a mask. -/
def laneList (m : Nat) : List Nat := (upto 5).filter fun i => bit m i

/-- Fresh mapping: logical lanes 0 to 3 on the four lowest healthy lanes, a fifth as spare; 7 = none (R314). -/
def freshLanes (healthy : Nat) : List Nat × Nat :=
  let l := laneList healthy
  (padLanes 4 (l.take 4), (l.drop 4).headD 7)
where
  padLanes (n : Nat) (l : List Nat) : List Nat := l ++ List.replicate (n - l.length) 7

/-- Mapping after a retrain (R317): a failed logical lane takes the healthy spare; with none, or with a partner without
spare-lane remap (R336), it is removed, and the indices above fall by one. -/
def remapLanes (remap : Bool) (healthy : Nat) (lanes : List Nat) (spare : Nat) : List Nat × Nat :=
  let ok := fun l => decide (l ≤ 4) && bit healthy l
  let r := lanes.foldl (fun (acc : List Nat × Nat) l =>
    if l = 7 then acc
    else if ok l then (acc.1 ++ [l], acc.2)
    else if remap && ok acc.2 then (acc.1 ++ [acc.2], 7)
    else acc) ([], spare)
  (r.1 ++ List.replicate (4 - r.1.length) 7, if ok r.2 then r.2 else 7)

/-- Three lanes may carry: both records permit it and capability bit 1 is common (R314). -/
def threeOk (ownPolicy peerPolicy caps : Nat) : Bool := bit ownPolicy 1 && bit peerPolicy 1 && bit caps 1

/-! ### Acknowledgement (R322, R324) -/

/-- What the acknowledgement of a whole transfer completes. -/
def txAcked (t : TxXfer) (s : State) : State :=
  match t.done with
  | .copy h => complete h stOk { s with hif := { s.hif with copies := s.hif.copies.filter fun j => j.h != h } }
  | .snapshot h => if s.ports.any fun q => q.tx.any fun u => u.done == .snapshot h then s else endSnap h stOk s
  | .control h => complete h stOk s
  | _ => s

/-- ACKSEQ `a` covers the flit `n`. -/
def covers (a n : Nat) : Bool := !genNewer n a

/-- ACKSEQ progress: the flits it covers leave the retry buffer. An ACKSEQ of a flit that was not sent is no progress. -/
def takeAck (p a : Nat) (s : State) : State :=
  let q := s.port p
  if !(q.retry.any fun f => f.fseq == a) then s
  else
    let covered := q.tx.filter fun t => match t.lastSeq with | some n => covers a n | none => false
    let rest : Port → Port := fun q => { q with
      ackSeq := a, replays := 0, retry := q.retry.filter (fun f => !covers a f.fseq),
      tx := q.tx.filter fun t => !covered.contains t,
      replayFrom := match q.replayFrom with
        | some n => if covers a n then (if (a + 1) % 4096 = q.txSeq then none else some ((a + 1) % 4096)) else some n
        | none => none }
    covered.foldl (fun s t => txAcked t s) (modPort p rest s)

/-! ### Retrain in place (R317) -/

/-- Start a retrain in place on a carrying port. -/
def startRetrain (p : Nat) (s : State) : State :=
  let q := s.port p
  if !q.carrying || q.retrain then s
  else
    let s := bump (oLnk p 0x204) 16 16 1 s
    let s := modPort p (fun q => { q with
      retrain := true, rxMask := 0x1F - (q.failed &&& 0x1F), certBuf := [], leaf := none }) s
    sendTraining p (s.port p).rxSeq s

/-- The retrain ends well: the port carries on the lanes that are left and replays from the partner's RXSEQ, whose
predecessor is an implied acknowledgement (R317, R324). -/
def endRetrain (p : Nat) (s : State) : State :=
  let q := s.port p
  let r := q.lastRec.getD []
  let lm := remapLanes (bit q.ncap 0) (0x1F - (q.failed &&& 0x1F)) q.lanes q.spare
  let left := (lm.1.filter (· != 7)).length
  if left < 3 ∨ (left = 3 ∧ !threeOk (leAt q.ownRec 12 1) (recPolicy r) q.ncap) then portDown p 0x03 s
  else
    let rxseq := bits (leAt r 14 2) 0 12
    let s := takeAck p ((rxseq + 4095) % 4096) (modPort p (fun q => { q with
      retrain := false, lanes := lm.1, spare := lm.2, replays := 0, replayFrom := none }) s)
    let s := if (s.port p).retry.isEmpty then s
      else bump (oLnk p 0x204) 0 16 1 (modPort p (fun q => { q with replayFrom := some rxseq }) s)
    let st := if left = 4 then LinkState.up else LinkState.degraded
    if q.state = st then s else setLink p st s

/-- A lane pair fails (R316, R317): the retrain in place fails at once where fewer than three pairs remain healthy. During
a retrain in place the lane is left out of it (R315). -/
def laneFails (p lane : Nat) (s : State) : State :=
  let q := s.port p
  if !q.carrying || bit q.failed lane then s
  else
    let s := modPort p (fun q => { q with
      failed := q.failed ||| 2 ^ lane, rxMask := if q.retrain then q.rxMask - (q.rxMask &&& 2 ^ lane) else q.rxMask }) s
    if q.lanes.contains lane then
      let s := startRetrain p s
      if (laneList (0x1F - (s.port p).failed)).length < 3 then portDown p 0x03 s else s
    else if q.spare = lane then modPort p (fun q => { q with spare := 7 }) s
    else s

/-! ### Training (R313 to R316, R336) -/

/-- Training starts or starts again (R314, step 1): `rxmask` is the lanes received in FEC lock, `invert` the
polarities found. A fresh training tests all five pairs again (R315). -/
def startTraining (p rxmask invert : Nat) (s : State) : State :=
  let q := s.port p
  if fld s (oLnk p 0) 0 1 = 0 ∨ s.boot.hold then s
  else if q.carrying then
    if q.retrain then sendTrainingAgain p q.rxSeq (modPort p (fun q => { q with
        rxMask := (rxmask &&& 0x1F) - ((rxmask &&& 0x1F) &&& q.failed), invert := invert &&& 0x1F }) s)
    else s
  else if q.state = .auth then s
  else
    let again := q.state == .training && !q.ownRec.isEmpty
    let s := if q.state = .down then setLink p .training s else s
    let s := modPort p (fun q => { q with
      failed := 0x1F - (rxmask &&& 0x1F), rxMask := rxmask &&& 0x1F, invert := invert &&& 0x1F,
      lastRec := none, certBuf := [], leaf := none, ranAuth := false, authed := false }) s
    if again then sendTrainingAgain p 0 s else sendTraining p 0 s


/-- The GRANT row of R336. -/
def grantsBad (g : List Nat) : Bool :=
  decide (nth 0 g 15 < 8) || g.any (fun v => decide (2047 < v)) || decide (2048 < sumNat g)

/-- PEERMOD of the stage map refuses the partner (R468). -/
def peerModBad (s : State) (p : Nat) (r : List Byte) : Bool :=
  match portRec s p with
  | some m => leAt m 2 2 != 0xFFFF && leAt m 2 2 != recMod r
  | none => false

/-- Send the certificate chain in authentication messages of up to 228 bytes (R338). -/
def sendChain (p : Nat) (s : State) : State :=
  let l := Config.certChain
  (chunks 228 (l.length / 228 + 1) l).zipIdx.foldl (fun s (c, i) =>
    emit (.flit p (flitBytes (plainHeader s 5 236 0) ([1, 0] ++ leBytes 2 i ++ leBytes 4 l.length ++ c))) s) s

/-- Send this module's signature over its own record followed by the partner's (R338, step 3). -/
def sendSig (p : Nat) (s : State) : State :=
  let q := s.port p
  let m := q.ownRec ++ (q.lastRec.getD [])
  let sig := padTo 96 ((Config.identitySign (digestNat m) s.free).take 96)
  let s := spend s
  emit (.flit p (flitBytes (plainHeader s 5 236 0) ([2, 0, 0, 0] ++ leBytes 4 96 ++ sig))) s

/-- A fresh training record of the partner in TRAINING (R314, R336, R337). -/
def freshRecord (p : Nat) (r : List Byte) (s : State) : State :=
  let q := s.port p
  let caps := recCaps r &&& ownCaps
  let healthy := recMask r &&& q.rxMask
  let n := (laneList healthy).length
  let closed := bit (recPolicy r) 0 || bit (leAt q.ownRec 12 1) 0
  if recMajor r ≠ 1 then portDown p 0x04 s
  else if n < 3 ∨ (n = 3 ∧ !threeOk (leAt q.ownRec 12 1) (recPolicy r) caps) then portDown p 0x03 s
  else if grantsBad (recGrants r) then portDown p 0x07 s
  else if peerModBad s p r then portDown p 0x05 s
  else if closed && !bit caps 3 then portDown p 0x05 s
  else
    let lm := freshLanes healthy
    let s := modPort p (fun q => { q with
      lanes := lm.1, spare := lm.2, failed := 0x1F - healthy, minor := min 0 (recMinor r), major := 1, ncap := caps,
      peerMod := recMod r, peerId := recId r, lastRec := some r, avail := recGrants r }) s
    if bit caps 3 then sendChain p (setLink p .auth (modPort p (fun q => { q with ranAuth := true }) s))
    else portCarry p s

/-- The partner's record in a retrain in place (R317, R339): the negotiation of R336 again, over the lanes that both ends
show healthy and none has failed since. -/
def retrainRecord (p : Nat) (r : List Byte) (s : State) : State :=
  let q := s.port p
  let prev := q.lastRec.getD []
  let caps := recCaps r &&& ownCaps
  let failed := (0x1F - (recMask r &&& q.rxMask)) ||| (q.failed &&& 0x1F)
  let closed := bit (recPolicy r) 0 || bit (leAt q.ownRec 12 1) 0
  if !bit q.ncap 2 then portDown p 0x0A s
  else if recMod r ≠ recMod prev ∨ recId r ≠ recId prev ∨ recMajor r ≠ recMajor prev then portDown p 0x06 s
  else if caps &&& (ownCaps - q.ncap) ≠ 0 then portDown p 0x0A s
  else if (laneList (0x1F - failed)).length < 3 then portDown p 0x03 s
  else if grantsBad (recGrants r) then portDown p 0x07 s
  else if closed && !bit caps 3 then portDown p 0x05 s
  else
    let s := modPort p (fun q => { q with failed := failed, lastRec := some r, ncap := caps, minor := min 0 (recMinor r) }) s
    if q.ranAuth then sendChain p s else endRetrain p s

/-- A training record arrives (R336). On a carrying port a new one is the start of the partner's retrain in place, which
the port joins (log 62). -/
def recordArrives (p : Nat) (r : List Byte) (s : State) : State :=
  let q := s.port p
  if q.state = .training then (if q.ownRec.isEmpty then s else freshRecord p r s)
  else if q.carrying && q.lastRec != some r then retrainRecord p r (startRetrain p s)
  else s

/-! ### Authentication (R337 to R339) -/

/-- The expected digest of the partner in the stage map, when one is named (R468). -/
def peerDigBad (s : State) (p : Nat) : Bool :=
  match portRec s p with
  | some m =>
    let d := (m.drop 32).take 32
    leNat d != 0 && d != (s.port p).peerId
  | none => false

/-- The authentication of a port is under way. -/
def authRuns (q : Port) : Bool := q.state == .auth || (q.carrying && q.retrain && q.ranAuth)

/-- The chain has arrived whole: verify it (R338, step 2), then sign (step 3). -/
def checkChain (p : Nat) (s : State) : State :=
  let q := s.port p
  let anchors := match s.boot.image with | some m => m.anchors | none => []
  match Config.chainLeaf q.certBuf anchors with
  | none => portDown p 0x05 s
  | some leaf =>
    if idDigest leaf ≠ recId (q.lastRec.getD []) then
      portDown p (if q.state = .auth then 0x05 else 0x06) s
    else if peerDigBad s p then portDown p 0x05 s
    else sendSig p (modPort p (fun q => { q with leaf := some leaf }) s)

/-- An authentication message arrives (R338). -/
def authArrives (p : Nat) (m : List Byte) (s : State) : State :=
  let q := s.port p
  if !authRuns q || q.lastRec.isNone then s
  else
    let ty := leAt m 0 1
    let total := leAt m 4 4
    let body := (m.drop 8).take 228
    if ty = 1 then
      let buf := q.certBuf ++ body.take (total - q.certBuf.length)
      if leAt m 2 2 * 228 ≠ q.certBuf.length then portDown p 0x05 s
      else
        let s := modPort p (fun q => { q with certBuf := buf }) s
        if buf.length < total then s else checkChain p s
    else if ty = 2 then
      match q.leaf with
      | none => portDown p 0x05 s
      | some leaf =>
        if ecdsaVerify leaf (body.take 96) (q.lastRec.getD [] ++ q.ownRec) then
          let s := modPort p (fun q => { q with authed := true }) s
          if q.state = .auth then portCarry p s else endRetrain p s
        else portDown p 0x05 s
    else portDown p 0x05 s

/-! ### What the host asks of a port (R313, R494) -/

/-- LNK_CTL.EN written 1: the port may enter TRAINING (R313); LINK_TRAINING_START is the entry. -/
def enableLink (p : Nat) (s : State) : State := setBit (oLnk p 0) 0 s

/-- LNK_CTL.EN written 0. -/
def disableLink (p : Nat) (s : State) : State := portDown p 0x01 (setFld (oLnk p 0) 0 1 0 s)

/-- GLB_RST_CAUSE records a reset kind that runs no boot sequence (R527). -/
def recordReset (kind bitNo : Nat) (s : State) : State := setBit oRstCause bitNo (setFld oRstCause 4 4 kind s)

/-- Port reset (R494, R495). -/
def resetPort (p : Nat) (s : State) : State :=
  let s := setFld oRstCause 20 4 p (recordReset 8 11 s)
  portDown p 0x0B s

/-! ### Pause (R342, R344) -/

/-- A link control record arrives: the rate limit of R342, then PAUSE or RESUME. -/
def controlArrives (p cmd vcmask : Nat) (s : State) : State :=
  let rate := fld s (oLnk p 0x30) 16 8
  let times := recent s (s.port p).ctlTimes
  if rate ≠ 0 ∧ rate ≤ times.length then dropItem p errRate s
  else
    let s := modPort p (fun q => { q with ctlTimes := times ++ [s.glb.time] }) s
    let m := vcmask % 2 ^ 15
    if cmd = 1 then modPort p (fun q => { q with paused := q.paused ||| m }) s
    else if cmd = 2 then modPort p (fun q => { q with paused := q.paused - (q.paused &&& m) }) s
    else s

/-- The 16 bytes of a link control record (R344). -/
def controlBytes (cmd vcmask : Nat) : List Byte := leBytes 16 (cmd % 16 + vcmask % 2 ^ 16 * 2 ^ 16)

end Sys2Proof.Machine
end

