-- ==== Sys2Proof/Machine/Versions.lean ====
section
/-! DEFINITION. Weight regions and their versions (R224 to R240, R504 to R506): the newest LIVE generation, binding and
release, retirement, pending, commit and rollback, the gather of sharded regions. -/
namespace Sys2Proof.Machine

/-! ### Binding (R226, R504, R506) -/

/-- The generation that F of a stamp would bind in entry `r`; none while it must wait. -/
def bindGen (s : State) (x : Nat) (t : Stamp) (r : Nat) : Option Nat :=
  let e := s.region r
  let owner := if e.sharded then s.region (r + 1) else e
  let busy := owner.has .restoring || (!e.overlap && (owner.has .landing || s.c + 1 != t.step))
  let want := if e.overlap && e.seqHold then
      let g := (t.step + 4094) % 4096
      if owner.live.contains g then some g else oldestOf owner.live
    else owner.newest
  let _ := x
  if busy then none
  else match want with
    | some g => if e.live.contains g then some g else none
    | none => none

/-- Entries of the regions that F of context `x` reads, a sharded one through its gathered copy (log 20); those of its experts
bind when the expert input is assembled (R192). -/
def readRegions (s : State) (x : Nat) : List Nat :=
  ((s.ctx x).fRegions.filter fun i => !isExpertRegion s x i).map fun i => nth 0 (s.ctx x).regionBase i

/-- Entries of the regions of an expert of context `x`. -/
def expertEntries (s : State) (x : Nat) (e : Nat × Nat) : List Nat :=
  ((s.ctx x).expertRegions e).map fun i => nth 0 (s.ctx x).regionBase i

/-- A stamp whatever its phase: bindings belong to the slot (R226). -/
def slotOf (t : Stamp) : Stamp := { t with phase := phF }
/-- Micro-batches of a step (R41). -/
def stepM (s : State) (n : Nat) : Nat := match s.stepRec n with | some r => r.m | none => 0

/-! ### Eligible slots (R219 to R221) -/

/-- The eligible gradient entry of a slot. -/
def gradEntry (c : Ctx) (st : Stamp) : Option QEntry :=
  c.gq.entries.find? fun e => !e.held && slotOf e.desc.stamp == slotOf st

/-- Slots of the same round have all completed F (R220, fill-drain). -/
def roundDone (s : State) (c : Ctx) (st : Stamp) : Bool :=
  let i := max c.inflightMax 1
  let lo := st.slot / i * i
  let hi := min (lo + i) (stepM s st.step)
  (upto (hi - lo)).all fun k => c.slots.any fun w => w.stamp == { slotOf st with slot := lo + k } && w.fDone

/-- The slot whose X and then B comes next: the eligible one with the lowest stride key. -/
def bCandidate (s : State) (x : Nat) : Option SlotWork :=
  let c := s.ctx x
  (sortBy (fun w => strideKey w.stamp) (c.slots.filter fun w =>
    w.fDone && !w.bStarted && (gradEntry c w.stamp).isSome && (c.sched != 0 || roundDone s c w.stamp))).head?

/-- The generation bound to a stamp on a context in entry `r`. -/
def boundGen (s : State) (x : Nat) (t : Stamp) (r : Nat) : Option Nat :=
  (s.bindings.find? fun b => b.ctx == x && b.region == r && b.stamp == (slotOf t)).map (·.gen)

/-- Every region listed can bind now. -/
def canBindAll (s : State) (x : Nat) (t : Stamp) (rs : List Nat) : Bool := rs.all fun r => (bindGen s x t r).isSome
/-- Every region that F of `x` reads can bind now. -/
def canBind (s : State) (x : Nat) (t : Stamp) : Bool := canBindAll s x t (readRegions s x)

/-- Bind the regions listed to stamp `t`. -/
def bindThese (x : Nat) (t : Stamp) (rs : List Nat) (s : State) : State :=
  rs.foldl (fun s r =>
    match bindGen s x t r with
    | none => s
    | some g => modRegion r (fun e => e.mapFirst (fun v => v.state == .live && v.gen == g && !v.dying)
        (fun v => { v with ref := v.ref + 1 })) { s with bindings := s.bindings ++ [⟨slotOf t, x, r, g⟩] }) s

/-- Bind the regions that F of `x` reads to stamp `t`. -/
def bindAll (x : Nat) (t : Stamp) (s : State) : State := bindThese x t (readRegions s x) s

/-- Release the bindings that `p` selects and run retire_check on their regions; a slot that becomes FREE may let a gather
start (R237). -/
def releaseWhere (p : Binding → Bool) (s : State) : State :=
  startGathers ((s.bindings.filter p).foldl (fun s b => retireCheck b.region (modRegion b.region (fun e =>
      e.mapFirst (fun v => v.gen == b.gen && decide (0 < v.ref)) (fun v => { v with ref := v.ref - 1 })) s))
    { s with bindings := s.bindings.filter fun b => !p b })

/-- Release the bindings of one stamp on one context: B has completed (R226). -/
def releaseStamp (x : Nat) (t : Stamp) (s : State) : State :=
  releaseWhere (fun b => b.ctx == x && b.stamp == (slotOf t)) s

/-! ### Gather requests at the owner (R239) -/

/-- Answer a gather request from port `p` with a KIND and data; the window of the requester is one the request does
not name (log 21). -/
def answerGather (p srcmod : Nat) (h : GatherHdr) (kind : Nat) (data : List Byte) (s : State) : State :=
  let win := drawn s % 64
  sendXfer p 7 srcmod (xferBytes ⟨4, win, 0, h.offset, data.length, true, false, 0, 0, 0, false⟩ ++ data
    ++ gatherBytes { h with kind := kind }) .nothing (spend s)

/-- Serve a request, hold it while its generation is PENDING, or answer absent (R239). -/
def serveGather (p srcmod : Nat) (h : GatherHdr) (s : State) : State :=
  let e := s.region h.region
  if !e.owned then answerGather p srcmod h 2 [] s
  else if e.slots.any (fun v => v.state == .live && v.gen == h.gen) then
    match e.liveSlot h.gen with
    | some v => answerGather p srcmod h 1 (versionData s e v (slotFrom s e) h.bytes) s
    | none => s
  else if e.slots.any (fun v => v.state == .pending && v.gen == h.gen) then
    { s with heldGathers := s.heldGathers ++ [⟨p, srcmod, h⟩] }
  else answerGather p srcmod h 2 [] s

/-- Serve again every request that was held (R239: at the commit). -/
def serveHeld (s : State) : State :=
  s.heldGathers.foldl (fun s g => serveGather g.port g.srcmod g.hdr s) { s with heldGathers := [] }

/-! ### Pending, commit, abandon (R227 to R231) -/

/-- The slot that an update of an owned shard frees when none is FREE: its oldest LIVE version, when a newer one stands and
no pin holds it (R239). -/
def Region.oldestUnpinned (e : Region) : Option Nat :=
  match oldestOf e.live with
  | some g => if some g != e.newest && e.slots.any (fun v => v.state == .live && v.gen == g && v.pins == 0) then some g else .none
  | .none => .none

def freeOldest (r : Nat) (s : State) : State :=
  let e := s.region r
  if !e.owned || e.has .free then s
  else match e.oldestUnpinned with
    | some g => modRegion r (fun e => e.mapFirst (fun v => v.state == .live && v.gen == g && v.pins == 0)
        (fun v => { v with state := .free })) s
    | none => s

/-- A region whose update writes a further version: overlap mode, or an owned shard with more than one slot. -/
def Region.versioned (e : Region) : Bool := e.overlap || e.owned && e.dm1 != 0

/-- Can the update of a step write entry `r` now? Overlap mode needs a FREE slot, flush mode a version without
references and pins (R227, R231, R235). -/
def canPend (s : State) (r : Nat) : Bool :=
  let e := s.region r
  if e.versioned then e.has .free || (e.owned && e.oldestUnpinned.isSome)
  else e.slots.all fun v => v.state != .live || (v.ref == 0 && v.pins == 0)


/-- The update starts to write entry `r`: PENDING with the next generation, or LANDING in flush mode. The generation
number of a LANDING version changes at the commit. -/
def startPend (r : Nat) (s : State) : State :=
  if (s.region r).versioned then
    let s := freeOldest r s
    let g := ((s.region r).newest.getD 0 + 1) % 4096
    modRegion r (fun e => { (e.mapFirst (fun v => v.state == .free)
      (fun v => { v with gen := g, state := .pending, ref := 0, pins := 0, dying := false })) with waitSlot := false }) s
  else modRegion r (fun e => e.mapFirst (fun v => v.state == .live) (fun v => { v with state := .landing })) s

/-- No update waits for a version slot any more (R235, R244). -/
def endSlotWaits (s : State) : State :=
  { s with regions := s.regions.map fun e => (e.1, { e.2 with waitSlot := false }) }

/-- STEP_COMMIT of `n`: every PENDING version turns LIVE, a LANDING one returns to LIVE with generation n (R228, R231).
Gathered copies under way are not versions of the update. -/
def commitVersions (n : Nat) (s : State) : State :=
  let s := { s with regions := s.regions.map fun e =>
    (e.1, if e.2.sharded && !e.2.owned then e.2
      else (e.2.mapSlots (fun v => v.state == .pending) (fun v => { v with state := .live })).mapSlots
        (fun v => v.state == .landing) (fun v => { v with state := .live, gen := n % 4096 })) }
  startGathers (serveHeld (retireAll s))

/-- STEP_ABANDON of the uncommitted step: PENDING versions are freed, LANDING ones are rewritten (R229, R231). -/
def abandonVersions (s : State) : State :=
  endSlotWaits { s with regions := s.regions.map fun e =>
      (e.1, if e.2.sharded && !e.2.owned then e.2
        else (e.2.mapSlots (fun v => v.state == .pending) (fun v => { v with state := .free })).mapSlots
          (fun v => v.state == .landing) (fun v => { v with state := .restoring, gen := s.c % 4096 })) }

/-- STEP_ABANDON of the committed step `c` (R230): entry by entry, the previous generation is newest again, or the
version of generation c is rewritten: by the update site, and the gathered copy of a sharded region by a gather. -/
def rollbackRegion (c : Nat) (e : Region) : Region :=
  let g := c % 4096
  let h := (c + 4095) % 4096
  if e.frozen || !(e.slots.any fun v => v.gen == g && v.state == .live) then e
  else if e.live.contains h then
    e.mapSlots (fun v => v.state == .live && v.gen == g)
      (fun v => if v.ref = 0 ∧ v.pins = 0 then { v with state := .free } else { v with dying := true })
  else e.mapSlots (fun v => v.state == .live && v.gen == g) (fun v => { v with state := .restoring, gen := h })

/-- RESTORE_COMPLETE of entry `r`: its RESTORING version returns to LIVE (R230, R231). -/
def restoreDone (r : Nat) (s : State) : State :=
  startGathers (modRegion r (fun e => e.mapSlots (fun v => v.state == .restoring) (fun v => { v with state := .live })) s)

/-! ### Slot exhaustion (R235) -/

/-- The update of entry `r` finds no FREE slot: WAIT_SLOT, EXHAUSTED, the entry and vector 1, once per wait. -/
def exhausted (r : Nat) (s : State) : State :=
  if (s.region r).waitSlot then s
  else
    let s := modRegion r (fun e => { e with waitSlot := true }) s
    let s := bump (oAnt 4) 24 8 1 (setBit (oAnt 4) 0 s)
    raise 1 (logEv 0x06 stExhausted agHub { arg := r } s)

end Sys2Proof.Machine
end

