-- ==== Sys2Proof/Machine/Operands.lean ====
section
/-! DEFINITION. Where the operands and results of tile and vector instructions lie (R92, R93, R213, R249, R548, R549),
reading them as exact values, demotion (R131, R492), and storing results with their counts (R112, R128). -/
namespace Sys2Proof.Machine

/-! ### Places (R249). Addresses below 2^40 are HDM addresses; the context's operand buffer starts at 2^40 and the bytes
of a block input that came back from the slow tier at 2^41. -/

def opTop : Nat := 2 ^ 40
def inTop : Nat := 2 ^ 41

/-- The work an instruction belongs to: its context, its slot record and its stamp. -/
structure At where
  x : Nat
  sw : SlotWork
  st : Stamp
  deriving DecidableEq, Repr

/-- The region-table entry of local region `i` of context `x` (R236, R249). -/
def regionEntry (s : State) (x i : Nat) : Nat := nth 0 (s.ctx x).regionBase i

/-- Where the version of entry `r` that a stamp reads starts: the bound generation, or the newest for work that holds no
binding. -/
def versionLoc (s : State) (x : Nat) (st : Stamp) (r : Nat) : Option Nat :=
  let e := s.region r
  let g := match boundGen s x st r with | some g => some g | none => e.newest
  match g with
  | some g => (e.slots.find? fun v => v.gen == g && v.state != .free && v.state != .pending).map (·.loc)
  | none => none

/-- Address of the start of tensor slot `t`; none when it has no place in memory. -/
def placeOf (s : State) (a : At) (t : Nat) : Option Nat :=
  let c := s.ctx a.x
  let d := c.desc t
  match dKind d with
  | 0 =>
    if dRegion d ≠ 0xFFFF then
      let r := regionEntry s a.x (dRegion d)
      (if c.isFrozenPart d then firstLoc (s.region r) else versionLoc s a.x a.st r).map (· + dOffset d)
    else match dSpace d with
      | 0 => some (c.fastBase + dOffset d)
      | 1 => some (c.vsBase + dOffset d)
      | 2 => some (c.slowBase + dOffset d)
      | _ => some (opTop + dOffset d)
  | 2 =>
    if dQueue d = 0 then
      match a.sw.aBuf with
      | some b => some (bufAddr c.aq b)
      | none => if a.sw.inBytes.isEmpty then none else some inTop
    else a.sw.gBuf.map (bufAddr c.gq)
  | _ => none

/-- T with which slot `t` is read: an entry's data carries its own (R127), and a tensor that this slot of work has written is read
with the T it was written with (R177). -/
def operandT (s : State) (a : At) (t : Nat) : Int :=
  let d := (s.ctx a.x).desc t
  if dKind d = 2 && dPsMode d != 1 then toSigned (if dQueue d = 0 then a.sw.aTexp else a.sw.gTexp) 9
  else if dPsMode d = 2 then
    match a.sw.tUsed.find? (fun e => e.1 == t) with
    | some e => e.2
    | none => readT s a.x t
  else readT s a.x t

/-- The stored tensor of slot `t` in format `f`. -/
def tensAt (s : State) (a : At) (t f : Nat) (two4 : Bool) (T : Int) : Option Tens :=
  let d := (s.ctx a.x).desc t
  (placeOf s a t).map fun p => storedTens d two4 p f T

/-- The stored run that holds address `p`. -/
def runAt (ws : List (Nat × List Byte)) (p : Nat) : Option (Nat × List Byte) :=
  ws.find? fun w => decide (w.1 ≤ p) && decide (p < w.1 + w.2.length)

/-- How a context's instructions read bytes: what their slot of work has stored (R175, log 141), else HDM, the operand buffer, or
an offloaded block input (R512). -/
def readerOf (s : State) (a : At) : Reader where
  byte p := match runAt a.sw.mem p with
    | some w => (w.2.drop (p - w.1)).headD 0
    | none => if p < opTop then memByte s p
    else if p < inTop then tabGet hdmDefault (s.cmp (s.ctx a.x).die).sram ((s.ctx a.x).opBase * 4096 + p - opTop)
    else (a.sw.inBytes.drop (p - inTop)).headD 0
  bad p := if (runAt a.sw.mem p).isSome then false else if p < opTop then poisoned s p
    else if p < inTop then s.sramPoison.contains ((s.ctx a.x).die, ((s.ctx a.x).opBase * 4096 + p - opTop) / 64)
    else a.sw.inBad.contains ((p - inTop) / 64)

/-- Element (i, j) of tensor slot `t` where no rule gives one, outside ROWS and COLS or without a place: a free code of
the slot's format (log 43). -/
def outsideValue (s : State) (a : At) (t f i j : Nat) : Fv :=
  let fmt := fmtOr ((s.ctx a.x).desc t) f
  let v := Config.outside (packStamp a.st) t i j
  if isMx fmt then mxDecode fmt (bits v 32 8) (v % 2 ^ fmtBits fmt) 0 else decodeElem fmt (v % 2 ^ fmtBits fmt)

/-- The leading m × n block of a tensor; what lies outside ROWS × COLS, or has no place, is free (log 43). -/
def readBlock (s : State) (a : At) (t f m n : Nat) : List (List Fv) :=
  match tensAt s a t f false (operandT s a t) with
  | none => (upto m).map fun i => (upto n).map fun j => outsideValue s a t f i j
  | some q =>
    let r := readerOf s a
    (upto m).map fun i => (upto n).map fun j => if i < q.rows ∧ j < q.cols then q.value r i j
      else outsideValue s a t f i j

/-- Elements of formats 0xA and 0xB in poisoned units of the leading m × n block of a tensor: they read as 0 and count as non-finite
(R512, log 163). -/
def poisonedInts (s : State) (a : At) (t f m n : Nat) (two4 : Bool) : Nat :=
  match tensAt s a t f two4 0 with
  | none => 0
  | some q =>
    if q.fmt < 10 then 0
    else
      let r := readerOf s a
      let w := fmtBits q.fmt / 8
      sumNat ((upto (min m q.rows)).map fun i =>
        ((upto (min n q.cols)).filter fun j => r.anyBad (q.addr + i * q.rowBytes + j * w) w).length)

/-- Every element of a tensor in raster order. -/
def readFlat (s : State) (a : At) (t f : Nat) : List Fv :=
  let d := (s.ctx a.x).desc t
  (readBlock s a t f (dRows d) (dCols d)).flatten

/-! ### Sparse weights (R92, R93, R548) -/

/-- The sparsity planes of a weight: where the block-mask plane and the index plane start, and the logical shape. -/
structure Planes where
  maskAt : Nat
  idxAt : Nat
  kf : Nat
  nf : Nat
  deriving DecidableEq, Repr

def planesOf (s : State) (a : At) (d : Nat) : Option Planes :=
  let c := s.ctx a.x
  let md := c.desc (dMeta d)
  if dMeta d = 0 then none
  else (placeOf s a (dMeta d)).map fun p =>
    let maskBytes := cdiv (dRows d) 32 * roundUp (cdiv (cdiv (dCols d) 32) 8) 64
    ⟨p, if bit (dPlanes md) 1 then roundUp (p + maskBytes) 4096 else p, dRows d, dCols d⟩

/-- Is the aligned block that holds element (i, j) kept? -/
def Planes.kept (q : Planes) (r : Reader) (i j : Nat) : Bool :=
  let row := q.maskAt + i / 32 * roundUp (cdiv (cdiv q.nf 32) 8) 64
  bit (r.byte (row + j / 32 / 8)).toNat (j / 32 % 8)

/-- The stored row that holds logical row `i` of column `j` under 2:4; none when the position is pruned. -/
def Planes.storedRow (q : Planes) (r : Reader) (i j : Nat) : Option Nat :=
  let g := i / 4
  let e := bits (r.byte (q.idxAt + g * roundUp (cdiv q.nf 2) 64 + j / 2)).toNat (4 * (j % 2)) 4
  if bits e 0 2 = i % 4 then some (2 * g) else if bits e 2 2 = i % 4 then some (2 * g + 1) else none

/-- The stored row of logical element (i, j) of a weight under the sparsity named, none when it is absent. -/
def presentRow (q : Option Planes) (r : Reader) (two4 mask : Bool) (i j : Nat) : Option Nat :=
  match q with
  | none => some i
  | some q => if mask && !q.kept r i j then none else if two4 then q.storedRow r i j else some i

/-! ### Demotion (R131, R492, R493) -/

/-- Values that share one scale, read as MXFP8 E4M3 with T = 0. -/
def demoteRun (l : List Fv) : List Fv :=
  let b := mxEncode 4 0 l
  b.codes.map fun c => mxDecode 4 b.scale c 0

/-- Glue blocks side by side. -/
def zipRows {α : Type} : List (List (List α)) → List (List α)
  | [] => []
  | [b] => b
  | b :: t => List.zipWith (· ++ ·) b (zipRows t)

/-- A band of at most 32 rows, square-scaled; `run` converts the values that share one scale. -/
def demoteBand {α : Type} (run : List Fv → List α) (rows : List (List Fv)) : List (List α) :=
  let n := (rows.headD []).length
  zipRows ((upto (cdiv n 32)).map fun k =>
    let part := rows.map fun r => (r.drop (32 * k)).take 32
    let width := (part.headD []).length
    chunks width rows.length (run part.flatten))

/-- Rows converted in 1-D blocks, or in squares where R73 asks for them. -/
def demoteBy {α : Type} (run : List Fv → List α) (sq : Bool) (rows : List (List Fv)) : List (List α) :=
  if sq then (chunks 32 (rows.length / 32 + 1) rows).flatMap (demoteBand run)
  else rows.map fun l => (chunks 32 (l.length / 32 + 1) l).flatMap run

/-- Rows of an operand read as MXFP8 E4M3. -/
def demoteRows (sq : Bool) (rows : List (List Fv)) : List (List Fv) := demoteBy demoteRun sq rows

/-- Is the element at stored place (k, j) in a block that the mask keeps? Under 2:4, 16 stored rows are one block of rows (R548). -/
def keptAt (q : Option Planes) (r : Reader) (two4 mask : Bool) (k j : Nat) : Bool :=
  match q with
  | some q => !mask || q.kept r (if two4 then k / 16 * 32 else k) j
  | none => true

/-- The stored rows of a weight for its conversion: what a masked block holds is not read, and takes no part (R131, R548). -/
def unmaskedRows (w : Tens) (q : Option Planes) (r : Reader) (two4 mask : Bool) : List (List Fv) :=
  (upto w.rows).map fun k => (upto w.cols).map fun j => if keptAt q r two4 mask k j then w.value r k j else fvZero

/-- Element (i, j) of a weight operand by its logical place; none when it is absent from the product. A demoted operand is
converted in the blocks or squares of its stored rows (R103, R131, R548). -/
def weightAt (s : State) (a : At) (t f : Nat) (two4 mask dem sq : Bool) : Nat → Nat → Option Fv :=
  let d := (s.ctx a.x).desc t
  let r := readerOf s a
  let q := if two4 || mask then planesOf s a d else none
  match tensAt s a t f two4 (operandT s a t) with
  | none => fun i j => some (outsideValue s a t f i j)
  | some w =>
    let low := if dem then demoteRows sq (unmaskedRows w q r two4 mask) else []
    fun i j =>
      if i < dRows d ∧ j < dCols d then
        (presentRow q r two4 mask i j).map fun k =>
          if k < w.rows then (if dem then nth fvZero (nth [] low k) j else w.value r k j) else outsideValue s a t f i j
      else some (outsideValue s a t f i j)

/-- Code of element (k, j) of a weight operand as the arrays hold it, by its stored place: 0 in a masked block (R66, R74, R131). -/
def weightCode (s : State) (a : At) (t f : Nat) (two4 mask dem sq : Bool) : Nat → Nat → Nat :=
  let r := readerOf s a
  match tensAt s a t f two4 (operandT s a t) with
  | none => fun _ _ => 0
  | some w =>
    let q := if mask then planesOf s a ((s.ctx a.x).desc t) else none
    let low := if dem then demoteBy (fun l => (mxEncode 4 0 l).codes) sq (unmaskedRows w q r two4 mask) else []
    fun k j =>
      if keptAt q r two4 mask k j && decide (k < w.rows) && decide (j < w.cols) then
        (if dem then nth 0 (nth [] low k) j else w.code r k j) else 0

/-- A 16-bit operand that may be demoted. -/
def demotable (d : Nat) : Bool := dDemote d && (dFmt d == 2 || dFmt d == 3)

/-- Is die `d` demoting (R492)? -/
def demoting (s : State) (d : Nat) : Bool :=
  fld s (oPwr 0x44) 0 1 == 1 && decide (fld s (oPwr 0x44) 1 3 ≤ nth 0 s.pwr.therm d)

/-- Does an instruction issued now in phase `ph` read operand slot `t` demoted? Phase X repeats what F did (R493). -/
def demotesNow (s : State) (a : At) (idx which t : Nat) : Bool :=
  let c := s.ctx a.x
  demotable (c.desc t) && (if a.st.phase = phX then a.sw.demoted.contains (idx, which) else c.degrade && demoting s c.die)

/-! ### Storing results (R104, R112, R128) -/

/-- A reader over bytes about to be stored. -/
def writesReader (ws : List (Nat × List Byte)) : Reader where
  byte p := match runAt ws.reverse p with
    | some w => (w.2.drop (p - w.1)).headD 0
    | none => 0
  bad _ := false

/-- Code of CMP_NF_POS.KIND of a value, when it is non-finite (R132). -/
def nfKindOf : Fv → Option Nat
  | .nan => some 0
  | .inf n => some (if n then 2 else 1)
  | .fin _ _ _ => none

/-- The first non-finite stored element of some runs, in raster order. -/
def firstBad (q : Tens) (ws : List (Nat × List Byte)) (cells : List (Nat × Nat)) : Option (Nat × Nat × Nat) :=
  let r := writesReader ws
  cells.findSome? fun (i, j) => (nfKindOf (q.value r i j)).map fun k => (i, j, k)

/-- Runs of values at element indices of a tensor, cut at its row ends; `f` bounds the cuts. -/
def cutRows : Nat → Nat → Nat → List Fv → List (Nat × Nat × List Fv)
  | 0, _, _, _ => []
  | _, _, _, [] => []
  | f + 1, cols, e, l =>
    let n := cols - e % cols
    (e / cols, e % cols, l.take n) :: cutRows f cols (e + n) (l.drop n)

/-- What an instruction stores into one slot. -/
structure Stored where
  writes : List (Nat × List Byte)
  count : SlotCount
  bad : List (Nat × Nat × Nat × Nat)
  T : Int
  deriving DecidableEq, Repr

/-- Elements among `cells` that are non-finite, or that are stored so by the scale of their block. -/
def badCells (q : Tens) (ws : List (Nat × List Byte)) (rows : List (List Fv)) (cells : List (Nat × Nat)) : Nat :=
  let r := writesReader ws
  (cells.filter fun (i, j) => (nfKindOf (nth fvZero (nth [] rows i) j)).isSome || (nfKindOf (q.value r i j)).isSome).length

/-- Store rows of values as the leading block of slot `t`; `sats` more count as saturations (R145), and the elements
listed in `exempt` are no non-finite results, whatever the scale of their block makes of them (R142, R143). -/
def storeRows (s : State) (a : At) (t f : Nat) (xT : Option Int) (rows : List (List Fv)) (sats : Nat)
    (exempt : List (Nat × Nat)) : Stored :=
  let amax := fvAmax rows.flatten
  let T := writeT s a.x t (fmtOr ((s.ctx a.x).desc t) f) xT amax
  match tensAt s a t f false T with
  | none => ⟨[], ⟨t, 0, sats, 0, 0⟩, [], T⟩
  | some q =>
    let rows := (rows.take q.rows).map fun r => r.take q.cols
    let p := q.put rows
    let nf := p.nfs - badCells q p.writes rows exempt
    let cells := ((upto rows.length).flatMap fun i => (upto (rows.headD []).length).map fun j => (i, j)).filter
      fun c => !exempt.contains c
    let bad := if nf = 0 then [] else ((firstBad q p.writes cells).map fun (i, j, k) => (t, i, j, k)).toList
    ⟨p.writes, ⟨t, p.zeros, p.sats + sats, nf, toFp32 amax⟩, bad, T⟩

/-- Bands of 32 rows that runs of values touch. -/
def bandsOf (cuts : List (Nat × Nat × List Fv)) : List Nat := sortBy id ((cuts.map fun c => c.1 / 32).eraseDups)

/-- The rows of a band with runs of values put over what it holds (log 139). -/
def bandRows (q : Tens) (r : Reader) (cuts : List (Nat × Nat × List Fv)) (b : Nat) : List (List Fv) :=
  (upto (min 32 (q.rows - 32 * b))).map fun k =>
    let i := 32 * b + k
    (cuts.filter fun c => c.1 == i).foldl (fun row c =>
      (upto row.length).map fun j => if c.2.1 ≤ j ∧ j < c.2.1 + c.2.2.length then nth fvZero c.2.2 (j - c.2.1) else nth fvZero row j)
      (q.row r i q.cols)

/-- Store runs of values that start at element indices of slot `t`; a square of a square-scaled tensor is converted whole
(R108). -/
def storeRuns (s : State) (a : At) (t f : Nat) (xT : Option Int) (runs : List (Nat × List Fv)) (sats : Nat) : Stored :=
  let amax := fvAmax (runs.flatMap (·.2))
  let T := writeT s a.x t (fmtOr ((s.ctx a.x).desc t) f) xT amax
  match tensAt s a t f false T with
  | none => ⟨[], ⟨t, 0, sats, 0, 0⟩, [], T⟩
  | some q =>
    let cuts := (runs.flatMap fun r => cutRows (r.2.length + 1) q.cols r.1 r.2).filter fun c => decide (c.1 < q.rows)
    let p := if q.sq && isMx q.fmt then Put.all ((bandsOf cuts).map fun b => q.bandPut (32 * b) (bandRows q (readerOf s a) cuts b))
      else Put.all (cuts.map fun c => q.runPut c.1 c.2.1 c.2.2)
    let cells := sortBy (fun c => c.1 * q.cols + c.2) (cuts.flatMap fun c => (upto c.2.2.length).map fun j => (c.1, c.2.1 + j))
    let bad := if p.nfs = 0 then [] else ((firstBad q p.writes cells).map fun (i, j, k) => (t, i, j, k)).toList
    ⟨p.writes, ⟨t, p.zeros, p.sats + sats, p.nfs, toFp32 amax⟩, bad, T⟩

/-- Values in raster order as rows of `cols`. -/
def asRows (cols : Nat) (l : List Fv) : List (List Fv) := chunks cols (l.length / cols + 1) l

/-- Store a whole tensor given in raster order. -/
def storeFlat (s : State) (a : At) (t f : Nat) (xT : Option Int) (l : List Fv) (sats : Nat) (exempt : List Nat) : Stored :=
  let cols := dCols ((s.ctx a.x).desc t)
  storeRows s a t f xT (asRows cols l) sats (exempt.map fun e => (e / cols, e % cols))

/-- Make bytes visible: HDM, or the context's operand buffer, where a whole unit written ends its poison (R512). -/
def applyWrite (x : Nat) (w : Nat × List Byte) (s : State) : State :=
  if w.1 < opTop then devWrite w.1 w.2 s
  else
    let off := w.1 - opTop
    let base := (s.ctx x).opBase * 4096 + off
    let die := (s.ctx x).die
    let s := modCmp die (fun c => { c with sram := putBytes c.sram base w.2 }) s
    { s with sramPoison := s.sramPoison.filter fun u => !(u.1 == die && coversUnit base w.2.length (64 * u.2)) }

def applyWrites (x : Nat) (ws : List (Nat × List Byte)) (s : State) : State := ws.foldl (fun s w => applyWrite x w s) s

end Sys2Proof.Machine
end

