-- ==== Sys2Proof/Machine/Tile.lean ====
section
/-! DEFINITION. The result of a tile instruction (R70, R81, R89 to R93, R161, R162, R165, R167): its exact block sums
over dense or sparse operands, and the contributions of a TMM_W. -/
namespace Sys2Proof.Machine

/-! ### Exact block sums (R89) -/

/-- output_element of R89: products of the elements present in both operands, block by block. -/
def outputElement (blen start : Nat) (a b : List (Option Fv)) : Nat :=
  let pairs := List.zip a b
  accBlocks start ((chunks blen (pairs.length / blen + 1) pairs).map fun blk => blk.filterMap fun (x, y) =>
    match x, y with
    | some x, some y => some (x, y)
    | _, _ => none)

/-- Columns of rows of width `n`. -/
def columns {α : Type} (dflt : α) (n : Nat) (rows : List (List α)) : List (List α) :=
  (upto n).map fun j => rows.map fun r => nth dflt r j

/-- Accumulators of a product of rows `as` with rows `bs`, both along the reduction axis, from the starts given. -/
def accRows (blen : Nat) (start : Nat → Nat → Nat) (as bs : List (List (Option Fv))) : List (List Nat) :=
  (upto as.length).map fun i => (upto bs.length).map fun j =>
    outputElement blen (start i j) (nth [] as i) (nth [] bs j)

/-! ### Formats an instruction computes in -/

/-- Format of an operand after demotion. -/
def useFmt (fmt : Nat) (dem : Bool) : Nat := if dem then 4 else fmt

/-! ### TMM_F and TMM_B -/

/-- Rows of the A operand (M × K). -/
def aRows (s : State) (a : At) (w : TileWords) (dem : Bool) : List (List Fv) :=
  let rows := readBlock s a w.ta w.fmtA (tileM w) (tileK w)
  if dem then demoteRows false rows else rows

/-- The weight operand as stored: for TMM_F its K × N block, for TMM_B its N × K block. -/
def bRows (s : State) (a : At) (op : Nat) (w : TileWords) (dem : Bool) : List (List (Option Fv)) :=
  let at_ := weightAt s a w.tb w.fmtB (tileTwo4 w) (tileMask w) dem (op == 2)
  let (r, c) := if op = 1 then (tileK w, tileN w) else (tileN w, tileK w)
  (upto r).map fun i => (upto c).map fun j => at_ i j

/-- Where the accumulators of a TMM_F or TMM_B start: +0, or C under CONT (R79). -/
def startOf (s : State) (a : At) (w : TileWords) : Nat → Nat → Nat :=
  if w.cont then
    let c := readBlock s a w.tc w.fmtC (tileM w) (tileN w)
    fun i j => toFp32 (nth fvZero (nth [] c i) j)
  else fun _ _ => 0

/-- FP32 accumulators of a TMM_F or TMM_B. -/
def productAcc (s : State) (a : At) (op : Nat) (w : TileWords) (demA demB : Bool) : List (List Nat) :=
  let as := (aRows s a w demA).map fun r => r.map some
  let stored := bRows s a op w demB
  let bs := if op = 1 then columns none (tileN w) stored else stored
  accRows (blockLen (useFmt w.fmtA demA) (useFmt w.fmtB demB)) (startOf s a w) as bs

/-- Result of a TMM_F or TMM_B. -/
def productResult (s : State) (a : At) (op : Nat) (w : TileWords) (xT : Option Int) (demA demB : Bool) : Result :=
  let acc := productAcc s a op w demA demB
  let st := storeRows s a w.tc w.fmtC xT (acc.map fun r => r.map ofFp32) 0 []
  ⟨st.writes, [], [st.count], [], st.bad, [(w.tc, st.T)]⟩

/-! ### TMM_W (R161 to R167) -/

/-- Index of a product's stored pair and the half a KIND 0x3 slot names. -/
def pairRows (c : Ctx) (t : Nat) (isDy : Bool) (stamps : List Stamp) : List (List Fv) :=
  stamps.flatMap fun st =>
    match c.pairs.find? (fun p => p.stamp == slotOf st && p.product == dProduct (c.desc t)) with
    | some p => if isDy then p.dy else p.x
    | none => []

/-- Rows of an operand of a TMM_W over the slots named, `n` columns wide. -/
def wOperand (s : State) (a : At) (t n : Nat) (isDy : Bool) (stamps : List Stamp) (dem : Bool) : List (List Fv) :=
  let c := s.ctx a.x
  let rows := (pairRows c t isDy stamps).map fun r => (upto n).map fun j => nth fvZero r j
  if dem then demoteRows true rows else rows

/-- FP32 accumulators of a TMM_W, in raster order; they continue `acc` when it is not empty. -/
def wAcc (s : State) (a : At) (w : TileWords) (stamps : List Stamp) (acc : List Nat) (demA demB : Bool) : List Nat :=
  let m := tileM w
  let n := tileN w
  let as := columns none m ((wOperand s a w.ta m false stamps demA).map fun r => r.map some)
  let bs := columns none n ((wOperand s a w.tb n true stamps demB).map fun r => r.map some)
  (accRows (blockLen (useFmt w.fmtA demA) (useFmt w.fmtB demB)) (fun i j => nth 0 acc (i * n + j)) as bs).flatten


/-- Positions of C that receive a gradient: (row of the bucket, column of the bucket, row of C, column of C). The metadata of
position (i, j) is that of element (i, j) of the weight that TC's region holds (log 143). -/
def keptPositions (s : State) (a : At) (w : TileWords) : List (Nat × Nat × Nat × Nat) :=
  let m := tileM w
  let n := tileN w
  if !tileTwo4 w && !tileMask w then (upto m).flatMap fun i => (upto n).map fun j => (i, j, i, j)
  else
    let r := readerOf s a
    let q := (sparseWeight (s.ctx a.x) w.tc).bind (planesOf s a)
    let stored := if tileTwo4 w then m / 2 else m
    let at_ := fun k j => if tileTwo4 w then
        (upto 4).findSome? fun o => if presentRow q r true (tileMask w) (k / 2 * 4 + o) j = some k then some (k / 2 * 4 + o) else none
      else (presentRow q r false (tileMask w) k j)
    (upto stored).flatMap fun k =>
      let cols := (upto n).filterMap fun j => (at_ k j).map fun i => (i, j)
      (upto cols.length).map fun p => let e := nth (0, 0) cols p; (k, p, e.1, e.2)

/-- Output cells of a TMM_W (R89). -/
def outputCells (s : State) (a : At) (w : TileWords) : Nat :=
  let rb := tileM w / 32
  let cb := tileN w / 32
  let blocks := if tileMask w then
      let r := readerOf s a
      match (sparseWeight (s.ctx a.x) w.tc).bind (planesOf s a) with
      | some q => sumNat ((upto rb).map fun i => ((upto cb).filter fun j => q.kept r (32 * i) (32 * j)).length)
      | none => rb * cb
    else rb * cb
  if tileTwo4 w then cdiv blocks 2 else blocks

/-- round_to(FMT_C, acc) of the contributions (R167). -/
def contribCode (fmtC acc : Nat) : Nat := if fmtC = 3 then (convFloat 3 (ofFp32 acc)).code else acc

/-- Contributions of a finished tile: bucket element and code (R165, R167). -/
def contributions (s : State) (a : At) (w : TileWords) (acc : List Nat) : List (Nat × Nat) :=
  let d := (s.ctx a.x).desc w.tc
  let n := tileN w
  (keptPositions s a w).map fun (bi, bj, i, j) =>
    (dBOffset d + bi * dStride d + bj, contribCode w.fmtC (nth 0 acc (i * n + j)))

/-- The first non-finite contribution, by its row and column in C (R116, R117). -/
def badContribution (s : State) (a : At) (w : TileWords) (acc : List Nat) : List (Nat × Nat × Nat × Nat) :=
  let n := tileN w
  let cells := sortBy (fun e => e.1 * n + e.2) ((keptPositions s a w).map fun e => (e.2.2.1, e.2.2.2))
  (cells.findSome? fun (i, j) =>
    (nfKindOf (decodeFloat (if w.fmtC = 3 then 3 else 1) (contribCode w.fmtC (nth 0 acc (i * n + j))))).map fun k => (w.tc, i, j, k)).toList

/-- Counts of the contributions, for a bucket-bound slot with CENSUS = 1 (R128). -/
def contribCount (s : State) (a : At) (w : TileWords) (acc : List Nat) : SlotCount :=
  let n := tileN w
  let vs := (keptPositions s a w).map fun (_, _, i, j) => ofFp32 (nth 0 acc (i * n + j))
  let cs := vs.map (convFloat (if w.fmtC = 3 then 3 else 1))
  ⟨w.tc, zeroCodes (if w.fmtC = 3 then 3 else 1) (cs.map (·.code)), (cs.filter (·.sat)).length, (cs.filter (·.nf)).length,
    toFp32 (fvAmax vs)⟩

/-- Result of a TMM_W over the slots named, continuing `acc`: with HOLD = 1 it keeps the accumulators and hands nothing
over (R83). -/
def wResult (s : State) (a : At) (w : TileWords) (stamps : List Stamp) (acc : List Nat) (demA demB : Bool) : Result :=
  let r := wAcc s a w stamps acc demA demB
  if w.hold then ⟨[], [], [], r, [], []⟩
  else ⟨[], contributions s a w r, [contribCount s a w r], r, badContribution s a w r, []⟩

/-! ### Arrays of an instruction (R86, R88) -/

/-- Kept weight blocks of K-block `b` in the four column groups of slice `t` (R86). -/
def keptBlocks (s : State) (a : At) (op : Nat) (w : TileWords) (b t : Nat) : Nat :=
  let r := readerOf s a
  match planesOf s a ((s.ctx a.x).desc w.tb) with
  | none => 4
  | some q =>
    let width := if tileTwo4 w && op == 2 then 2 else 1
    let groups := (upto (4 * width)).map fun g => 4 * width * t + g
    (groups.filter fun g => decide (32 * g < tileN w) &&
      (if op = 1 then q.kept r (32 * b) (32 * g) else q.kept r (32 * g) (32 * b))).length

/-- The fold of an instruction on the arrays allotted to its context; in fixed-tempo mode a block mask costs exactly the
dense or 2:4 figure (R95). -/
def foldOf (s : State) (a : At) (op : Nat) (w : TileWords) (demA demB : Bool) : Fold :=
  let c := s.ctx a.x
  let allot := allotted s a.x w.eng
  let n := if w.arrays = 0 then allot else min w.arrays allot
  let full := c.tempo
  fold op (tileM w) (tileN w) (tileK w) (useFmt w.fmtA demA) (useFmt w.fmtB demB) (tileTwo4 w) (tileMask w && !full) n
    (if full then cdiv (tileM w / 32 * (tileN w / 32)) (if tileTwo4 w then 2 else 1) else outputCells s a w)
    (keptBlocks s a op w)

end Sys2Proof.Machine
end

