-- ==== Sys2Proof/Machine/Pes.lean ====
section
/-! DEFINITION. The two registers of each PE of an array (R66, R71, R74, R78): what the passes of a tile instruction leave in them.
Where a tile lies in its array, and what a register holds beside it, is fixed by log 135. -/
namespace Sys2Proof.Machine

/-- The physical array that a code (engine * 32 + logical index) stands for. -/
def Cmp.physOf (c : Cmp) (code : Nat) : Option Nat :=
  (c.inState (code / 32) .active).find? fun p => (c.arr p).logical == code % 32

/-- The registers of PE (r, k) of physical array `p`. -/
def Cmp.pe (c : Cmp) (p r k : Nat) : Nat × Nat :=
  match c.pes.find? fun e => e.1 == 16384 * p + 128 * r + k with
  | some e => e.2
  | none => (0, 0)

/-- Set the registers of array `p` from the values they hold, keeping the list in its form. -/
def Cmp.setPes (p : Nat) (f : Nat → Nat → Nat × Nat → Nat × Nat) (c : Cmp) : Cmp :=
  let mine := (upto 16384).filterMap fun i =>
    let v := f (i / 128) (i % 128) (c.pe p (i / 128) (i % 128))
    if v = (0, 0) then none else some (16384 * p + i, v)
  { c with pes := c.pes.filter (fun e => decide (e.1 < 16384 * p)) ++ mine ++ c.pes.filter fun e => decide (16384 * (p + 1) ≤ e.1) }

/-- The element (K-block, column) that PE (r, k) of the `i`-th array of a weight-stationary instruction holds in its last pass, each
32-element block on one lane; `quad` tells passes of one quadrant each. -/
def lastTile (fo : Fold) (quad : Bool) (lanes nK ng rowsPerLane i r k : Nat) : Option (Nat × Nat) :=
  if quad then
    let q := cdiv ng 2
    let m := r / 64 * 2 + k / 64 + 4 * i
    if m < q then some (r % 64 / rowsPerLane, 64 * (m + 4 * fo.used * ((q - 1 - m) / (4 * fo.used))) + k % 64) else none
  else
    let nN := cdiv ng 4
    let all := max nN fo.used
    let slice := (i + fo.used * ((all - 1 - i) / fo.used)) % max nN 1
    some ((nK - 1) * lanes + r / rowsPerLane, 128 * slice + k)

/-- The packed codes that PE (r, k) of the `i`-th array holds; none where the tile does not reach. -/
def lastWeight (op : Nat) (w : TileWords) (fo : Fold) (fa fb : Nat) (code : Nat → Nat → Nat) (i r k : Nat) : Option Nat :=
  let p := (packing fa fb).1
  let lanes := 4 * p
  let two4 := tileTwo4 w
  let kAxis := if two4 && op == 1 then tileK w / 2 else tileK w
  let nAxis := if two4 && op == 2 then tileN w / 2 else tileN w
  let kb := cdiv kAxis 32
  let rows := 32 / p
  match lastTile fo (!tileMask w && decide (kb ≤ lanes / 2)) lanes (cdiv kb lanes) (cdiv nAxis 32) rows i r k with
  | none => none
  | some (b, n) =>
    if kb ≤ b ∨ nAxis ≤ n then none
    else
      let at_ := fun e => let j := 32 * b + r % rows * p + e; if op = 1 then code j n else code n j
      some (packCodes (32 / p) ((upto p).map at_))

/-- The passes of a TMM_F or TMM_B load their weights through the shadow registers into the active ones (R74). -/
def loadWeights (a : At) (op : Nat) (w : TileWords) (fo : Fold) (arrays : List Nat) (demA demB : Bool) (s : State) : State :=
  let fb := useFmt w.fmtB demB
  let code := weightCode s a w.tb w.fmtB (tileTwo4 w) (tileMask w) demB (op == 2)
  let die := (s.ctx a.x).die
  (upto arrays.length).foldl (fun s i =>
    modCmp die (fun c => match c.physOf (nth 0 arrays i) with
      | some p => c.setPes p fun r k old => match lastWeight op w fo (useFmt w.fmtA demA) fb code i r k with
        | some v => (v % 2 ^ 32, v % 2 ^ 32)
        | none => old
      | none => c) s) s

/-- The kept blocks of C, in raster order of its grid: (block row, block column). -/
def keptBlocksOf (s : State) (a : At) (w : TileWords) : List (Nat × Nat) :=
  let all := (upto (tileM w / 32)).flatMap fun i => (upto (tileN w / 32)).map fun j => (i, j)
  if !tileMask w then all
  else match (sparseWeight (s.ctx a.x) w.tc).bind (planesOf s a) with
    | some q => all.filter fun b => q.kept (readerOf s a) (32 * b.1) (32 * b.2)
    | none => all

/-- Output cells of a TMM_W as 1,024 accumulators each, in raster order: a kept block, or under 2:4 the kept halves of two (R89,
R164). -/
def accCells (s : State) (a : At) (w : TileWords) (acc : List Nat) : List (List Nat) :=
  let n := tileN w
  let val := fun (i j : Nat) => nth 0 acc (i * n + j)
  let blocks := keptBlocksOf s a w
  if !tileTwo4 w then blocks.map fun b => (upto 1024).map fun e => val (32 * b.1 + e / 32) (32 * b.2 + e % 32)
  else
    let r := readerOf s a
    let q := (sparseWeight (s.ctx a.x) w.tc).bind (planesOf s a)
    let half := fun (b : Nat × Nat) => (upto 512).map fun e =>
      let k := 16 * b.1 + e / 32
      let j := 32 * b.2 + e % 32
      match (upto 4).find? fun o => presentRow q r true (tileMask w) (k / 2 * 4 + o) j == some k with
      | some o => val (k / 2 * 4 + o) j
      | none => 0
    (chunks 2 (blocks.length / 2 + 1) blocks).map fun p => p.flatMap half

/-- The accumulators of a TMM_W stay in the working accumulators under HOLD, else they move to the unloading ones (R78, R83); each
array takes 16 output cells a pass, in raster order (R164). -/
def leaveAcc (die : Nat) (hold : Bool) (acc : List (List Nat)) (arrays : List Nat) (s : State) : State :=
  let cells := acc.length
  let used := arrays.length
  (upto used).foldl (fun s i =>
    modCmp die (fun c => match c.physOf (nth 0 arrays i) with
      | some p => c.setPes p fun r k old =>
        let m := 16 * i + r / 32 * 4 + k / 32
        if m < cells then
          let cell := m + 16 * used * ((cells - 1 - m) / (16 * used))
          let v := nth 0 (nth [] acc cell) (r % 32 * 32 + k % 32) % 2 ^ 32
          if hold then (v, old.2) else (0, v)
        else old
      | none => c) s) s

end Sys2Proof.Machine
end

