-- ==== Sys2Proof/Machine/Reduce.lean ====
section
/-! DEFINITION. Gradient reduction (R346 to R384): shards and segments, the exact accumulator, the XW80 and XW336
records, partials, the completion and landing of segments, and the closing of a step. -/
namespace Sys2Proof.Machine

/-! ### Groups and routes (R346 to R349, R384) -/

def segElems (s : State) (g : Nat) : Nat := 256 * 2 ^ fld s (oGrp g 0) 1 3
def grpWin (s : State) (g : Nat) : Nat := fld s (oGrp g 0) 4 6
def grpMember (s : State) (g : Nat) : Nat := fld s (oGrp g 0) 10 10
/-- G, the number of members. -/
def grpSize (s : State) (g : Nat) : Nat := fld s (oGrp g 0) 20 10 + 1
def routeNext (s : State) (g o : Nat) : Nat := fld s (oRoute g o) 0 10
def routeOut (s : State) (g o : Nat) : Nat := fld s (oRoute g o) 10 5
/-- RED_FAR_CFG (R379). -/
def farOn (s : State) : Bool := fld s (oRed 0x420) 0 1 == 1
def farGroup (s : State) : Nat := fld s (oRed 0x420) 1 3
def podGroup (s : State) : Nat := fld s (oRed 0x420) 4 3
/-- Is `g` the far group? -/
def isFar (s : State) (g : Nat) : Bool := farOn s && g == farGroup s
/-- IN of R348; in the far group it is P − 1 (R379). -/
def routeIn (s : State) (g o : Nat) : Nat := if isFar s g then grpSize s g - 1 else fld s (oRoute g o) 16 5

/-! ### Shards and segments (R352, R353) -/

/-- Shard size of a bucket of `e` elements. -/
def shardSize (e g seg : Nat) : Nat := seg * cdiv e (seg * g)
/-- shard_range of R352. -/
def shardRange (e g seg j : Nat) : Nat × Nat := (min (j * shardSize e g seg) e, min ((j + 1) * shardSize e g seg) e)
/-- First element of the segment that holds element `k`. -/
def segStart (seg k : Nat) : Nat := k / seg * seg
/-- Elements of the segment that starts at `first`. -/
def segCount (e seg first : Nat) : Nat := min (first + seg) e - first
/-- Owner of the shard that holds element `k`. -/
def ownerOf (e g seg k : Nat) : Nat := k / shardSize e g seg

/-- Bucket `b` as it is loaded in group `g` (R350). -/
def loadedIn (s : State) (g b : Nat) : Option Bucket := s.red.buckets.find? fun k => k.grp == g && k.id == b

/-- The entry of bucket `b` in group `g`; the far group takes the far-exchange buckets of the pod group. -/
def bucketOf (s : State) (g b : Nat) : Option Bucket :=
  if isFar s g then s.red.buckets.find? fun k => k.grp == podGroup s && k.id == b && k.far
  else loadedIn s g b

/-- The shard of this module in bucket `b`. -/
def ownShard (s : State) (b : Bucket) : Nat × Nat :=
  shardRange b.elems (grpSize s b.grp) (segElems s b.grp) (grpMember s b.grp)

/-- Buckets of group `g` in ascending ID. -/
def groupBuckets (s : State) (g : Nat) : List Bucket := sortBy (·.id) (s.red.buckets.filter fun b => b.grp == g)

/-- The buckets whose landing a group waits for (R369): in the far group those of far exchange. -/
def bucketsOf (s : State) (g : Nat) : List Bucket :=
  if isFar s g then sortBy (·.id) (s.red.buckets.filter fun b => b.grp == podGroup s && b.far) else groupBuckets s g

/-- The groups a bucket takes part in: its own, and the far group. -/
def groupsOf (s : State) (b : Bucket) : List Nat := b.grp :: if b.far && farOn s then [farGroup s] else []

/-- Offsets of the owned shards inside a landing slot, and the bytes of the slot (R353). -/
def landLayout (s : State) (g : Nat) : List (Nat × Nat) × Nat :=
  (groupBuckets s g).foldl (fun acc b =>
    let off := roundUp acc.2 64
    let (lo, hi) := ownShard s b
    (acc.1 ++ [(b.id, off)], off + 4 * (hi - lo))) ([], 0)

/-- LAND_NEED in units of 4 KiB. -/
def landNeed (s : State) (g : Nat) : Nat := 2 * cdiv (landLayout s g).2 4096
/-- LAND_SHORT. -/
def landShort (s : State) (g : Nat) : Bool := decide (fld s (oGrp g 0x0C) 0 28 < landNeed s g)

/-- Address of bucket element `k`, in the owned shard, in the landing slot of step `n`. -/
def landAddr (s : State) (b : Bucket) (n k : Nat) : Nat :=
  let off := match (landLayout s b.grp).1.find? (fun e => e.1 == b.id) with
    | some e => e.2
    | none => 0
  fld s (oGrp b.grp 0x08) 0 28 * 4096 + n % 2 * (landNeed s b.grp / 2 * 4096) + off + 4 * (k - (ownShard s b).1)

/-- RED_SPILL_NEED.NEED in MiB (R373). -/
def spillNeed (s : State) : Nat :=
  let far := s.red.buckets.filter (·.far)
  let all := 20 * sumNat (s.red.buckets.map (·.elems)) + 20 * sumNat (far.map fun b => (ownShard s b).2 - (ownShard s b).1)
  cdiv (all - 64 * 1048576) 1048576
/-- SPILL_GIB × 1,024, in MiB. -/
def spillSize (s : State) : Nat := fld s (oRed 0x410) 20 8 * 1024
/-- RED_SPILL_NEED.SHORT. -/
def spillShort (s : State) : Bool := decide (spillSize s < spillNeed s)

/-! ### Reduction values (R356) -/

def RVal.zero : RVal := ⟨0, false, false, false, false⟩

/-- widen of an FP32 code. -/
def widen (c : Nat) : RVal :=
  match ofFp32 c with
  | .nan => ⟨0, true, false, false, true⟩
  | .inf n => ⟨0, false, !n, n, true⟩
  | .fin n m e => ⟨finAt n m e (-149), false, false, false, !(m == 0 && n)⟩

/-- add of R356. -/
def RVal.add (p q : RVal) : RVal :=
  ⟨p.a + q.a, p.nan || q.nan, p.pinf || q.pinf, p.ninf || q.ninf, p.nz || q.nz⟩

/-- finish of R356, as an FP32 code. -/
def RVal.finish (p : RVal) : Nat :=
  if p.nan || (p.pinf && p.ninf) then nan32
  else if p.pinf then 0x7F800000
  else if p.ninf then 0xFF800000
  else if p.a = 0 then (if p.nz then 0 else 0x80000000)
  else toFp32 (.fin (decide (p.a < 0)) p.a.natAbs (-149))

/-- The contribution of an element code under PREC: BF16 or FP32 (R165). -/
def widenPrec (prec c : Nat) : RVal := widen (if prec = 0 then c * 65536 else c)

/-! ### Records (R359 to R362) -/

/-- Trailing zero bits of `n`; `f` bounds the count. -/
def trailingZeros : Nat → Nat → Nat
  | 0, _ => 0
  | f + 1, n => if n % 2 = 0 then 1 + trailingZeros f (n / 2) else 0

/-- The odd significand of a nonzero accumulator and its trailing zeros. -/
def sigOf (a : Int) : Int × Nat :=
  let z := trailingZeros 320 a.natAbs
  (a / (2 ^ z : Nat), z)

/-- Does R361 encode the value as XW336? -/
def escapes (p : RVal) : Bool := p.a != 0 && decide (2 ^ 63 ≤ (sigOf p.a).1.natAbs)

/-- Flag bits of a record header. -/
def xwFlags (p : RVal) : Nat := b2n p.nan * 2 ^ 9 + b2n p.pinf * 2 ^ 10 + b2n p.ninf * 2 ^ 11 + b2n p.nz * 2 ^ 12

/-- encode of R361. -/
def xwEncode (p : RVal) : List Byte :=
  if escapes p then leBytes 42 (xwFlags p + 2 ^ 13 + ofSigned p.a 320 * 2 ^ 16)
  else if p.a = 0 then leBytes 10 (xwFlags p)
  else
    let (sig, z) := sigOf p.a
    leBytes 10 (ofSigned ((z : Int) - 149) 9 + xwFlags p + ofSigned sig 64 * 2 ^ 16)

/-- One record from the front of a byte list, with what follows; none when malformed under R362 or cut short. -/
def xwDecode (l : List Byte) : Option (RVal × List Byte) :=
  let h := leAt l 0 2
  let lsbe := toSigned h 9
  let f := fun a => RVal.mk a (bit h 9) (bit h 10) (bit h 11) (bit h 12)
  if l.length < 10 || bits h 14 2 != 0 then none
  else if bit h 13 then
    let v := f (toSigned (leAt l 2 40) 320)
    if l.length < 42 || lsbe != 0 || decide (2 ^ 308 ≤ v.a.natAbs) || !escapes v then none else some (v, l.drop 42)
  else
    let sig := toSigned (leAt l 2 8) 64
    if decide (lsbe < -149) || decide (158 < lsbe) || (sig != 0 && sig % 2 == 0) || (sig == 0 && lsbe != 0) then none
    else some (f (sig * (2 ^ (lsbe + 149).toNat : Nat)), l.drop 10)

/-- `n` XW records from the front of a byte list. -/
def xwRecords : Nat → List Byte → Option (List RVal)
  | 0, _ => some []
  | n + 1, l =>
    match xwDecode l with
    | none => none
    | some (v, t) => (xwRecords n t).map (v :: ·)

/-- `n` raw contributions. -/
def rawRecords (prec n : Nat) (l : List Byte) : Option (List RVal) :=
  let w := if prec = 0 then 2 else 4
  if l.length < n * w then none else some ((upto n).map fun i => widenPrec prec (leAt l (i * w) w))

/-! ### Slots (R371, R372, R374) -/

/-- Is `q` the slot of segment `first` of a bucket of group `g` for step `n`? -/
def Seg.isAt (g b n first : Nat) (q : Seg) : Bool := q.grp == g && q.bucket == b && q.step == n && q.first == first
def segAt (s : State) (g b n first : Nat) : Option Seg := s.red.segs.find? (Seg.isAt g b n first)
/-- Change the slot of a segment. -/
def modSeg (g b n first : Nat) (f : Seg → Seg) (s : State) : State :=
  { s with red := { s.red with segs := s.red.segs.map fun q => if Seg.isAt g b n first q then f q else q } }

/-- Bytes of the staging SRAM that slots take. -/
def stagedBytes (s : State) : Nat := 10 * sumNat ((s.red.segs.filter fun q => !q.spilled).map fun q => q.vals.length)

/-! ### Poisoned units of the staging SRAM (R24, R512, log 133) -/

/-- The unit that holds element `k` of a bucket and step. -/
def stagedUnit (g b n k : Nat) : Nat × Nat := (agHub, Config.sramUnit agHub [g, b, n, k])

/-- One write of elements of the SRAM of agent `ag` ends the poison of the units that it covers whole (R512). -/
def freshUnits (ag : Nat) (es : List (List Nat)) (s : State) : State :=
  { s with sramPoison := s.sramPoison.filter fun u =>
      !(u.1 == ag && (es.any fun e => Config.sramUnit ag e == u.2) && Config.sramWhole ag u.2 es) }

/-- Element `i` of a slot lies in a poisoned unit. -/
def Seg.bad (s : State) (q : Seg) (i : Nat) : Bool :=
  !q.spilled && s.sramPoison.contains (stagedUnit q.grp q.bucket q.step (q.first + i))

/-- A slot as it is read: an element of a poisoned unit is NaN. -/
def Seg.seen (s : State) (q : Seg) (nanCode : Nat) : Seg :=
  if s.sramPoison.isEmpty then q
  else { q with
    vals := (upto q.vals.length).map (fun i => if q.bad s i then { RVal.zero with nan := true } else nth RVal.zero q.vals i),
    raw := (upto q.raw.length).map fun i => if q.bad s i then nanCode else nth 0 q.raw i }

/-- A slot before an input adds to the `len` elements from `at_` on: one that no input has written is not read, one in a poisoned
unit reads as NaN (R371, R512). -/
def Seg.read (s : State) (q : Seg) (at_ len : Nat) : Seg :=
  if s.sramPoison.isEmpty then q
  else { q with vals := (upto q.vals.length).map fun i =>
    if at_ ≤ i ∧ i < at_ + len ∧ nth false q.written i ∧ q.bad s i then { RVal.zero with nan := true } else nth RVal.zero q.vals i }

/-- NaN in the PREC of a bucket. -/
def nanPrec (prec : Nat) : Nat := if prec = 0 then nan32 / 65536 else nan32

/-- Open the slot of a segment when it has none: its first input is written, not added (R371); it is placed in the
staging SRAM while room remains, otherwise in spill (R372). -/
def openSeg (g b n first count : Nat) (s : State) : State :=
  match segAt s g b n first with
  | some _ => s
  | none =>
    let spilled := decide (64 * 1048576 < stagedBytes s + 10 * count)
    let q : Seg := ⟨g, b, n, first, List.replicate count RVal.zero, List.replicate count false, List.replicate count 0, 0, [], 0,
      false, false, false, spilled, false⟩
    let s := { s with red := { s.red with segs := s.red.segs ++ [q] } }
    if spilled then bump (oRed 0x414) 0 32 1 s else s

/-- Add values into a list from position `i`. -/
def addVals : List RVal → Nat → List RVal → List RVal
  | vals, _, [] => vals
  | [], _, _ => []
  | v :: t, 0, x :: xs => v.add x :: addVals t 0 xs
  | v :: t, i + 1, xs => v :: addVals t i xs

/-- Put codes into a list from position `i`. -/
def putCodes : List Nat → Nat → List Nat → List Nat
  | l, _, [] => l
  | [], _, _ => []
  | _ :: t, 0, x :: xs => x :: putCodes t 0 xs
  | v :: t, i + 1, xs => v :: putCodes t i xs

/-- Slot values that escape, in every slot (R374). -/
def escaped (s : State) : Nat := sumNat (s.red.segs.map fun q => (q.vals.filter escapes).length)
/-- Escape space left for one element beyond NEED. -/
def escapeRoom (s : State) : Nat := (spillSize s - spillNeed s) * 1048576 / 32

/-! ### Closing a step (R377) and its faults -/

/-- The reduce stamp of step `n` (R43). -/
def reduceStamp (s : State) (n : Nat) : Stamp := ⟨s.str.epoch, n, 0xFFFF, phReduce⟩
/-- ARG of the reduction entries (R529). -/
def redArg (b g k : Nat) : Nat := b % 2 ^ 16 + g % 8 * 2 ^ 16 + k % 2 ^ 32 * 2 ^ 32

/-- STEP_COMMITs of `n` that wait complete with ABANDONED (R399). -/
def abandonCommits (n : Nat) (s : State) : State :=
  (s.upd.commits.filter fun w => w.2 == n).foldl (fun s w => complete w.1 stAbandoned s)
    { s with upd := { s.upd with commits := s.upd.commits.filter fun w => w.2 != n } }

/-- A transfer that carries a segment of step `n` of group `g`. -/
def carriesStep (g n : Nat) (t : TxXfer) : Bool :=
  match t.done with
  | .partialOf h _ _ m => h == g && m == n
  | _ => false

/-- Close step `n` in group `g`: its slots are freed, nothing of it is sent or landed again, so a transfer partly sent is not
sent a second time (R378). -/
def closeStep (g n : Nat) (s : State) : State :=
  let red := { s.red with
    segs := s.red.segs.filter (fun q => !(q.grp == g && q.step == n)),
    closed := if s.red.closed.contains (g, n) then s.red.closed else (g, n) :: s.red.closed }
  let unsent : List TxXfer → List TxXfer := fun l =>
    (l.filter fun t => !(carriesStep g n t && t.sent == 0)).map fun t => if carriesStep g n t then { t with done := .nothing } else t
  abandonCommits n { s with red := red, ports := s.ports.map fun q => { q with tx := unsent q.tx, parked := unsent q.parked } }

/-- FAULT and one more bit of word +0x14 are set and the step is closed: PLAN (R368) and ESC_FULL (R374). -/
def redFault (g b n bitNo event status : Nat) (s : State) : State :=
  let s := setBit (oGrp g 0x14) 0 (setBit (oGrp g 0x14) bitNo s)
  closeStep g n (logEv event status agHub { stamp := some (reduceStamp s n), arg := redArg b g 0 } s)

/-- Escape space is exhausted (R374). -/
def escapeFault (g b n : Nat) (s : State) : State := raise 1 (redFault g b n 5 0x14 stResources s)
/-- A plan fault (R368). -/
def planFault (g b n : Nat) (s : State) : State := redFault g b n 3 0x13 stFormat s

/-! ### Landing (R367, R369, R375) -/

/-- Every segment of the owned shard of bucket `b` has landed for step `n` (R369, R352); a far-exchange bucket once
its far result has. -/
def bucketLanded (s : State) (b : Bucket) (n : Nat) : Bool :=
  let (lo, hi) := ownShard s b
  let g := if b.far && farOn s then farGroup s else b.grp
  let landed := s.red.segs.filter fun q => q.grp == g && q.bucket == b.id && q.step == n && q.landed
  decide (landed.length ≥ cdiv (hi - lo) (segElems s b.grp))

/-- Step `n` of group `g` cannot land any more: it is closed in the group, or in the far group that it feeds (R369, R377). -/
def groupClosed (s : State) (g n : Nat) : Bool :=
  s.red.closed.contains (g, n) || ((bucketsOf s g).any fun b => (groupsOf s b).any fun k => s.red.closed.contains (k, n))

/-- The owned shard of group `g` has landed for step `n`: not before the module holds the step. -/
def groupLanded (s : State) (g n : Nat) : Bool :=
  (s.stepRec n).isSome && !groupClosed s g n && (bucketsOf s g).all fun b => bucketLanded s b n

/-- Record in LANDED_STEP that group `g` has landed step `n`. -/
def noteLanded (g n : Nat) (s : State) : State :=
  if groupLanded s g n && !(bucketsOf s g).isEmpty then
    { s with red := { s.red with landedStep := modNth (fun _ => n) s.red.landedStep g } }
  else s

/-- Count landed elements that are not finite; the first of a step and group is logged. -/
def noteNonfinite (g b n : Nat) (ks : List Nat) (s : State) : State :=
  match ks with
  | [] => s
  | k :: _ =>
    let s := bump (oGrp g 0x18) 0 32 ks.length s
    if s.red.nfLogged.contains (g, n) then s
    else
      let s := { s with red := { s.red with nfLogged := (g, n) :: s.red.nfLogged } }
      let s := logEv 0x15 stNonfinite agHub { stamp := some (reduceStamp s n), arg := redArg b g k } (setBit (oGrp g 0x14) 2 s)
      raiseIf (fld s (oGrp g 4) 16 1 == 1) 1 s

/-- finish each element of a segment into the landing slot. -/
def landSeg (bk : Bucket) (q : Seg) (s : State) : State :=
  let codes := q.vals.map RVal.finish
  let s := memWrite (landAddr s bk q.step q.first) (codes.flatMap (leBytes 4)) s
  let bad := (upto codes.length).filter fun i => !f32finite (nth 0 codes i)
  let s := noteNonfinite q.grp q.bucket q.step (bad.map (q.first + ·)) s
  let s := modSeg q.grp q.bucket q.step q.first (fun q => { q with landed := true, vals := [], raw := [] }) s
  (groupsOf s bk).foldl (fun s g => noteLanded g q.step s) s

/-! ### Sending (R363, R364, R367) -/

/-- The 64 bytes of a partial header. -/
def partialBytes (h : PartialHdr) : List Byte :=
  leBytes 64 (packStamp h.stamp + h.bucket % 2 ^ 16 * 2 ^ 80 + h.grp % 8 * 2 ^ 96 + h.prec % 2 * 2 ^ 99
    + h.kind % 16 * 2 ^ 100 + h.src % 2 ^ 10 * 2 ^ 104 + h.owner % 2 ^ 10 * 2 ^ 128 + h.ncontrib % 2 ^ 16 * 2 ^ 144
    + h.first % 2 ^ 32 * 2 ^ 160 + h.count % 2 ^ 32 * 2 ^ 192 + h.esize % 2 ^ 32 * 2 ^ 224)

/-- The header in 64 bytes; `resv` tells that a reserved bit is set, those of the stamp among them (log 159). -/
def partialOfBytes (l : List Byte) : PartialHdr :=
  let v := leNat (l.take 64)
  ⟨unpackStamp v, bits v 80 16, bits v 96 3, bits v 99 1, bits v 100 4, bits v 104 10, bits v 128 10, bits v 144 16,
    bits v 160 32, bits v 192 32, bits v 224 32,
    bits v 114 14 != 0 || bits v 138 6 != 0 || bits v 256 256 != 0 || bits v 0 4 != 0⟩

/-- Module ID of member `m` of group `g`. -/
def memberMod (s : State) (g m : Nat) : Option Nat :=
  ((members s g).find? fun r => r.1 == m).map fun r => r.2.1

/-- Queue a reduction transfer of group `g`: header, records, zero padding. -/
def sendPartial (p dst : Nat) (h : PartialHdr) (recs : List Byte) (s : State) : State :=
  let data := partialBytes h ++ recs
  let data := padTo (roundUp data.length 64) data
  let xh : XferHdr := ⟨5, grpWin s h.grp, 0, 0, data.length, false, false, 0, 0, 0, false⟩
  sendXfer p (8 + h.grp) dst (xferBytes xh ++ data) (.partialOf h.grp h.bucket h.first h.stamp.step) s

/-- Windows of a step on a context: R of R160. -/
def windowCount (m n : Nat) : Nat := if n = 0 ∨ m ≤ n then 1 else cdiv m n
/-- R for bucket `b` in step `n`. -/
def rounds (s : State) (b : Bucket) (n : Nat) : Nat :=
  match s.stepRec n with
  | some r => windowCount r.m (s.ctx b.ctx).window
  | none => 1

/-- Send a completed segment to NEXT on OUT. -/
def sendSeg (bk : Bucket) (q : Seg) (o : Nat) (s : State) : State :=
  let g := q.grp
  let raw := routeIn s g o == 0 && rounds s bk q.step == 1
  let recs := if raw then q.raw.flatMap (leBytes (if bk.prec = 0 then 2 else 4)) else q.vals.flatMap xwEncode
  let esc := if raw then 0 else (q.vals.filter escapes).length
  let h : PartialHdr := ⟨reduceStamp s q.step, q.bucket, g, bk.prec, if raw then 0 else 1, grpMember s g, o, q.ncontrib,
    q.first, q.vals.length, bk.elems, false⟩
  let dst := (memberMod s g (routeNext s g o)).getD 0
  let s := sendPartial (routeOut s g o) dst h recs (bump (oRed 0x418) 0 32 esc s)
  modSeg g q.bucket q.step q.first (fun q => { q with sent := true, vals := [], raw := [] }) s

/-! ### Completion (R366 to R368) -/

/-- A segment whose inputs are all present is sent or landed, or its step is closed. -/
def completeSeg (g : Nat) (bk : Bucket) (n first : Nat) (s : State) : State :=
  match segAt s g bk.id n first with
  | none => s
  | some q =>
    let o := if isFar s g then grpMember s g else ownerOf bk.elems (grpSize s g) (segElems s g) first
    let out := routeOut s g o
    let mine := o == grpMember s g
    if q.sent || q.landed || !q.localIn || q.inputs.length < routeIn s g o then s
    else if (out == 0x1F) != mine || (decide (15 < out) && out != 0x1F) then planFault g bk.id n s
    else if mine then (if q.ncontrib = grpSize s g then landSeg bk (q.seen s (nanPrec bk.prec)) s else planFault g bk.id n s)
    else sendSeg bk (q.seen s (nanPrec bk.prec)) o s

/-- Add values into a slot; when escape space runs out the step is closed (R374). -/
def addInput (g : Nat) (bk : Bucket) (n first at_ : Nat) (vals : List RVal) (f : Seg → Seg) (s : State) : State :=
  let before := escaped s
  let staged := match segAt s g bk.id n first with
    | some q => if q.spilled then [] else (upto vals.length).map fun i => [g, bk.id, n, first + at_ + i]
    | none => []
  let s := freshUnits agHub staged (modSeg g bk.id n first (fun q =>
    let q := q.read s at_ vals.length
    f { q with vals := addVals q.vals at_ vals,
               written := (upto q.written.length).map fun i => nth false q.written i || decide (at_ ≤ i) && decide (i < at_ + vals.length) }) s)
  if escaped s > before ∧ escaped s > escapeRoom s then escapeFault g bk.id n s
  else completeSeg g bk n first s

/-! ### Local contributions (R167 to R169, R366) -/

/-- Does the hub take a local contribution of step `n` in group `g`? -/
def stepOpen (s : State) (g n : Nat) : Bool :=
  decide (s.c < n) && decide (n ≤ s.c + 2) && !s.red.closed.contains (g, n)

/-- Local elements of one segment land from position `k` of their bucket. -/
def landLocal (bk : Bucket) (n k : Nat) (codes : List Nat) (s : State) : State :=
  let g := bk.grp
  let first := segStart (segElems s g) k
  let count := segCount bk.elems (segElems s g) first
  let s := openSeg g bk.id n first count s
  match segAt s g bk.id n first with
  | none => s
  | some q =>
    if q.sent || q.landed || q.localIn then s
    else
      let all := count * rounds s bk n
      addInput g bk n first (k - first) (codes.map (widenPrec bk.prec)) (fun q =>
        let got := q.locals_ + codes.length
        { q with raw := putCodes q.raw (k - first) codes, locals_ := got, localIn := decide (all ≤ got),
                 ncontrib := if all ≤ got then q.ncontrib + 1 else q.ncontrib }) s

/-- Contributions from element `k` on, cut at segment ends; `f` bounds the pieces. -/
def landRun : Nat → Bucket → Nat → Nat → List Nat → State → State
  | 0, _, _, _, _, s => s
  | f + 1, bk, n, k, codes, s =>
    let room := segStart (segElems s bk.grp) k + segElems s bk.grp - k
    if codes.isEmpty then s
    else
      let s := if stepOpen s bk.grp n then landLocal bk n k (codes.take room) s else s
      landRun f bk n (k + room) (codes.drop room) s

/-- A contribution reaches the hub: `n` is the step of its stamp, codes are in PREC (R167). Elements past the end of
the bucket, or for a bucket, a step or an epoch the hub does not hold, add nothing. The reduction of the step starts with
it, and offers its stamp (R43, R51, log 130). -/
def contribute (g b : Nat) (t : Stamp) (k : Nat) (codes : List Nat) (s : State) : State :=
  match bucketOf s g b with
  | none => s
  | some bk =>
    if isFar s g || t.epoch != s.str.epoch || !s.str.valid then s
    else
      let s := if stepOpen s g t.step then offerNow ⟨s.str.epoch, t.step, 0xFFFF, phReduce⟩ (0x10 + bk.ctx) s else s
      landRun (codes.length + 1) bk t.step k (codes.take (bk.elems - k)) s

/-! ### Partials (R365) -/

/-- KIND is one that the group takes: raw and XW in a group, top-k or signs in the far group. -/
def kindOk (s : State) (h : PartialHdr) : Bool :=
  if isFar s h.grp then h.kind == 2 + fld s (oRed 0x420) 7 1
  else decide (h.kind ≤ 1)

/-- D of R381. -/
def farD (s : State) : Nat := 16 * 2 ^ fld s (oRed 0x420) 8 3

/-- Top-k records as (index, code) pairs, ascending within the segment; none when they break R381. -/
def topkRecords (s : State) (h : PartialHdr) (n : Nat) (l : List Byte) : Option (List (Nat × Nat)) :=
  let rs := (upto h.count).map fun i => (leAt l (8 * i) 4, leAt l (8 * i + 4) 4)
  let rising := (upto (h.count - 1)).all fun i => decide ((nth (0, 0) rs i).1 < (nth (0, 0) rs (i + 1)).1)
  let inside := rs.all fun r => decide (h.first ≤ r.1) && decide (r.1 < h.first + n)
  if l.length < 8 * h.count || !rising || !inside || decide (h.count < min (cdiv n (farD s)) n) then none else some rs

/-- Sign records as one FP32 code per element of a segment of `n`. -/
def signRecords (h : PartialHdr) (n : Nat) (l : List Byte) : Option (List Nat) :=
  if l.length < 8 * h.count || h.count != cdiv n 32 then none
  else some ((upto n).map fun i =>
    let sc := leAt l (8 * (i / 32)) 4
    let sg := bit (leAt l (8 * (i / 32) + 4) 4) (i % 32)
    if sg then sc % 2 ^ 31 + 2 ^ 31 else sc % 2 ^ 31)

/-- The records of a transfer as values of the whole segment; none when COUNT does not fit or a record is malformed. -/
def partialVals (s : State) (h : PartialHdr) (n : Nat) (l : List Byte) : Option (List RVal) :=
  if h.kind = 0 then (if h.count = n ∧ h.ncontrib = 1 then rawRecords h.prec n l else none)
  else if h.kind = 1 then (if h.count = n then xwRecords n l else none)
  else if h.kind = 2 then (topkRecords s h n l).map fun rs => (upto n).map fun i =>
    match rs.find? (fun r => r.1 == h.first + i) with
    | some r => widen r.2
    | none => widen 0
  else (signRecords h n l).map fun cs => cs.map widen

/-- A reduction transfer that R365 discards. -/
def refusePartial (p : Nat) (h : PartialHdr) (s : State) : State :=
  discardLog 0x12 stFormat { stamp := some h.stamp, port := p, arg := redArg h.bucket h.grp 0 } s

/-- GRP, PREC or ESIZE disagrees with the bucket table, or the bucket is not loaded. -/
def bucketMismatch (s : State) (h : PartialHdr) : Bool :=
  match bucketOf s h.grp h.bucket with
  | none => true
  | some b => b.prec != h.prec || b.elems != h.esize

/-- FIRST starts a segment of OWNER's shard; in the far group every member holds the pod shard of its index. -/
def firstOk (s : State) (h : PartialHdr) (b : Bucket) : Bool :=
  let (lo, hi) := if isFar s h.grp then ownShard s b else shardRange b.elems (grpSize s h.grp) (segElems s h.grp) h.owner
  decide (lo ≤ h.first) && decide (h.first < hi) && h.first % segElems s b.grp == 0

/-- A header that R365 refuses by itself. -/
def partialHdrBad (s : State) (h : PartialHdr) : Bool :=
  h.resv || decide (5 < h.grp) || !kindOk s h || h.ncontrib == 0 || h.stamp.slot != 0xFFFF || h.stamp.phase != phReduce

/-- The bucket and the values of a current partial that passes R365; none when it is discarded. -/
def partialFit (s : State) (srcmod : Nat) (h : PartialHdr) (data : List Byte) : Option (Bucket × List RVal) :=
  let g := h.grp
  if partialHdrBad s h || bucketMismatch s h then none
  else match bucketOf s g h.bucket with
    | none => none
    | some bk =>
      let o := if isFar s g then grpMember s g else h.owner
      let got := match segAt s g h.bucket h.stamp.step h.first with
        | some q => q.inputs
        | none => []
      if memberMod s g h.src != some srcmod || decide (grpSize s g ≤ h.owner) || !firstOk s h bk || got.contains h.src
          || decide (routeIn s g o ≤ got.length) || s.red.closed.contains (g, h.stamp.step) then none
      else (partialVals s h (segCount bk.elems (segElems s bk.grp) h.first) data).map fun vals => (bk, vals)

/-- A current partial is checked under R365 and added. -/
def takePartial (p srcmod : Nat) (h : PartialHdr) (data : List Byte) (s : State) : State :=
  match partialFit s srcmod h data with
  | none => refusePartial p h (if !partialHdrBad s h && bucketMismatch s h then setBit (oGrp h.grp 0x14) 4 s else s)
  | some (bk, vals) =>
    let s := offerNow h.stamp p (openSeg h.grp h.bucket h.stamp.step h.first (segCount bk.elems (segElems s bk.grp) h.first) s)
    addInput h.grp bk h.stamp.step h.first 0 vals (fun q =>
      { q with inputs := q.inputs ++ [h.src], ncontrib := q.ncontrib + h.ncontrib }) s

/-! ### Receive windows (R331) -/

/-- Window `w` of port `p` admits a transfer. -/
def windowOk (s : State) (p w tkind vc srcmod off bytes : Nat) : Bool :=
  let r := 0x400 + 0x10 * w
  let src := fld s (oLnk p (r + 0xC)) 0 16
  decide (w < 64) && fld s (oLnk p (r + 8)) 8 1 == 1 && bit (fld s (oLnk p (r + 8)) 0 8) tkind
    && bit (fld s (oLnk p (r + 8)) 16 16) vc && (src == 0xFFFF || src == srcmod)
    && decide (off + bytes ≤ fld s (oLnk p (r + 4)) 0 28 * 4096)

/-- Address of byte `off` of window `w`. -/
def windowAddr (s : State) (p w off : Nat) : Nat := fld s (oLnk p (0x400 + 0x10 * w)) 0 28 * 4096 + off

/-- A transfer discarded under R331. -/
def refuseWindow (p srcmod w tkind : Nat) (s : State) : State :=
  dropItem p errWindow (logEv 0x0C stPrivilege agHub
    { port := p, arg := srcmod % 2 ^ 16 + w % 64 * 2 ^ 16 + tkind % 16 * 2 ^ 24 } s)

/-- A reduction partial whose transfer was admitted (R47, R365): `cmd` is the command that brings it again when it is
held. -/
def partialTaken (cmd : Instr) (p srcmod : Nat) (h : PartialHdr) (data : List Byte) (s : State) : State :=
  match verdict s h.stamp with
  | .discard row => discardLog 0x01 stAbandoned { stamp := some h.stamp, port := p, arg := row } s
  | .hold => { s with heldArr := s.heldArr ++ [(0, cmd)] }
  | .accept => takePartial p srcmod h data s

/-- A partial that is added or held (R47, R365). -/
def partialKept (s : State) (srcmod : Nat) (h : PartialHdr) (data : List Byte) : Bool :=
  match verdict s h.stamp with
  | .discard _ => false
  | .hold => true
  | .accept => (partialFit s srcmod h data).isSome

/-- A reduction transfer arrives (R331). -/
def partialArrives (cmd : Instr) (p vc srcmod win : Nat) (h : PartialHdr) (data : List Byte) (s : State) : State :=
  if !windowOk s p win 5 vc srcmod 0 (64 + roundUp data.length 64) then refuseWindow p srcmod win 5 s
  else partialTaken cmd p srcmod h data s

/-- REDUCTION_PARTIAL_ARRIVAL: the window is the one the group's configuration names (R363). -/
def partialEvent (p vc srcmod : Nat) (hdr : PartialHdr) (data : List Byte) (s : State) : State :=
  if (s.port p).carrying then
    partialArrives (.reductionPartialArrival p vc srcmod hdr data) p vc srcmod (grpWin s hdr.grp) hdr data s else s

/-! ### Timeouts (R376, R378) -/

/-- Does a transfer carry the segment `first` of bucket `b`? -/
def carriesSeg (g b n first : Nat) (t : TxXfer) : Bool :=
  match t.done with
  | .partialOf h c k m => h == g && c == b && k == first && m == n
  | _ => false

/-- The port that holds an unsent transfer of the segment and does not carry. -/
def strandedOn (s : State) (g b n first : Nat) : Option Nat :=
  (upto 16).find? fun p =>
    let q := s.port p
    !q.carrying && (q.tx ++ q.parked).any (carriesSeg g b n first)

/-- This member's part of a segment is on its way: the segment, or in the far group its compressed pod sum, has been given to
the ports (R367, R380). -/
def givenOut (s : State) (q : Seg) : Bool := q.sent || isFar s q.grp && q.localIn

/-- TIMEOUT_MS has passed for a segment that starts at element `first`: what it sent may be stranded at a port (R378), and what it
waits for may not have come (R376). -/
def segmentTimeout (g b first newer : Nat) (s : State) : State :=
  let n := s.c + 1 + newer % 2
  if fld s (oGrp g 4) 0 16 = 0 then s
  else match segAt s g b n first with
    | none => s
    | some q =>
      let s := match strandedOn s g b n first with
        | some p =>
          if !givenOut s q || q.timedOut then s
          else
            let s := modSeg g b n first (fun q => { q with timedOut := true }) s
            logEv 0x17 stPeerAbsent agHub { stamp := some (reduceStamp s n), port := p, arg := redArg b g 0 }
              (setBit (oGrp g 0x14) 6 s)
        | none => s
      if q.sent || q.landed || (q.locals_ == 0 && q.inputs.isEmpty) then s
      else
        let s := setBit (oGrp g 0x14) 1 s
        if s.red.timeoutLogged.contains (g, n) then s
        else logEv 0x16 stTimeout agHub { stamp := some (reduceStamp s n), arg := redArg b g 0 }
          { s with red := { s.red with timeoutLogged := (g, n) :: s.red.timeoutLogged } }

def execSegmentTimeout (g bucket seg newer : Nat) (s : State) : Host.Outcome State Fault Refusal :=
  runLive (segmentTimeout g bucket seg newer) s

/-! ### Context commands and steps (R350, R377) -/

/-- Group `g` has begun step `n`: the module holds its STEP_BEGIN, or the group a slot of it (log 152). -/
def begun (s : State) (g n : Nat) : Bool := (s.stepRec n).isSome || s.red.segs.any fun q => q.grp == g && q.step == n

/-- CONTEXT_RESET or PATTERN_UNLOAD of context `x` closes every step begun that has not landed in a group where it
owns a bucket; the buckets report poisoned (R377). -/
def closeForCtx (x : Nat) (s : State) : State :=
  let mine := s.red.buckets.filter fun b => b.ctx == x
  [s.c + 1, s.c + 2].foldl (fun s n =>
    mine.foldl (fun s b =>
      if begun s b.grp n && !bucketLanded s b n then
        (groupsOf s b).foldl (fun s g =>
          let s := closeStep g n s
          { s with red := { s.red with poisoned := (g, b.id, n) :: s.red.poisoned } }) s
      else s) s) s

/-- Step `n` is closed in every group. -/
def closeGroups (n : Nat) (s : State) : State := (upto 6).foldl (fun s g => closeStep g n s) s

/-- The buckets of step `n` are reported as poisoned no longer (R377). -/
def endPoisoned (n : Nat) (s : State) : State :=
  { s with red := { s.red with poisoned := s.red.poisoned.filter fun p => p.2.2 != n } }

/-- STEP_ABANDON of step `n` closes it in every group and ends the poison report (R377). -/
def closeEverywhere (n : Nat) (s : State) : State := endPoisoned n (closeGroups n s)

/-- A change of epoch closes every step of the old epoch (R50, R377); the steps of the new one are open. -/
def closeEpoch (s : State) : State :=
  let s := (s.str.steps.map (·.step)).foldl (fun s n => closeGroups n s) s
  { s with red := { s.red with segs := [], closed := [], timeoutLogged := [], nfLogged := [] } }

/-- The commit of step `n` frees what the reduction kept of it. -/
def forgetStep (n : Nat) (s : State) : State :=
  { s with red := { s.red with
      segs := s.red.segs.filter (fun q => decide (n < q.step)), closed := s.red.closed.filter (fun q => decide (n < q.2)),
      timeoutLogged := s.red.timeoutLogged.filter (fun q => decide (n < q.2)),
      nfLogged := s.red.nfLogged.filter fun q => decide (n < q.2) } }

/-- PATTERN_UNLOAD removes the context's buckets (R350). -/
def removeBuckets (x : Nat) (s : State) : State :=
  { s with red := { s.red with buckets := s.red.buckets.filter fun b => b.ctx != x } }

end Sys2Proof.Machine
end

