-- ==== Sys2Proof/Machine/VecFun.lean ====
section
/-! DEFINITION. The functions of VFUNC (R146): limit values, exact results, and for every other operand a value
that nothing fixes beyond the maximum error of the table. The exact result is enclosed by fixed-point series. -/
namespace Sys2Proof.Machine

/-! ### Fixed-point series. A number v stands for v / 2^800; each function is accurate far below any ulp of FP32. -/

def fxOne : Int := 2 ^ 800
def fxMul (a b : Int) : Int := a * b / fxOne
def fxDiv (a b : Int) : Int := if b = 0 then 0 else a * fxOne / b

/-- An exact value as a fixed-point number. -/
def fxOf : Fv → Int
  | .fin n m e =>
    let k := (e + 800).toNat
    let v : Int := if 0 ≤ e + 800 then ((m <<< k : Nat) : Int) else ((m >>> (-(e + 800)).toNat : Nat) : Int)
    if n then -v else v
  | _ => 0

/-- A fixed-point number as a value. -/
def fxVal (v : Int) : Fv := .fin (decide (v < 0)) v.natAbs (-800)

/-- Sum of t, t * z / 1, … : term n is divided by `d n`; the sum stops at a zero term. -/
def fxSum : Nat → Nat → Int → Int → (Nat → Int) → (Nat → Int) → Int
  | 0, _, _, _, _, _ => 0
  | f + 1, n, t, z, d, w => if t = 0 then 0 else t / w n + fxSum f (n + 1) (fxMul t z / d n) z d w

/-- artanh(z), |z| < 1. -/
def fxArtanh (z : Int) : Int := fxSum 2000 0 z (fxMul z z) (fun _ => 1) (fun n => 2 * n + 1)
/-- arctan(1 / k). -/
def fxArctan (k : Int) : Int := fxSum 2000 0 (fxOne / k) (-(fxOne / (k * k))) (fun _ => 1) (fun n => 2 * n + 1)
def fxLn2 : Int := 2 * fxArtanh (fxOne / 3)
def fxPi : Int := 16 * fxArctan 5 - 4 * fxArctan 239
/-- Square root. -/
def fxSqrt (v : Int) : Int := isqrt (v.natAbs * 2 ^ 800)

/-- e^x as a value, for any x. -/
def fxExp (x : Int) : Fv :=
  let k := x / fxLn2
  let r := x - k * fxLn2
  let y := fxSum 1000 0 fxOne r (fun n => n + 1) (fun _ => 1)
  .fin false y.natAbs (k - 800)

/-- ln of a positive value m * 2^e. -/
def fxLn (m : Nat) (e : Int) : Int :=
  let l := Nat.log2 m
  let f : Int := ((m : Int) * fxOne) / (2 ^ l : Nat)
  2 * fxArtanh (fxDiv (f - fxOne) (f + fxOne)) + (e + l) * fxLn2

/-- ln(1 + t) for small t ≥ 0. -/
def fxLn1p (t : Int) : Int := 2 * fxArtanh (fxDiv t (2 * fxOne + t))

/-- Σ (-h)^n / (n! (2n + 1)), which times x gives the error integrals: h = x² for erf, x² / 2 for the normal one. -/
def fxErfSum (h : Int) : Int := fxSum 3000 0 fxOne (-h) (fun n => n + 1) (fun n => 2 * n + 1)

/-- erf(x) for |x| ≤ 15; beyond it differs from ±1 by less than 2^-300. -/
def fxErf (x : Int) : Int :=
  if 15 * fxOne < x then fxOne - 1 else if x < -(15 * fxOne) then 1 - fxOne
  else fxDiv (2 * fxMul x (fxErfSum (fxMul x x))) (fxSqrt fxPi)

/-- The normal distribution function Φ(x). -/
def fxPhi (x : Int) : Int :=
  if 20 * fxOne < x then fxOne - 1 else if x < -(20 * fxOne) then 1
  else fxOne / 2 + fxDiv (fxMul x (fxErfSum (fxMul x x / 2))) (fxSqrt (2 * fxPi))

/-- sin and cos of x. -/
def fxSin (x : Int) : Int :=
  let r := x % (2 * fxPi)
  fxSum 1000 0 r (-(fxMul r r)) (fun n => (2 * n + 2) * (2 * n + 3)) (fun _ => 1)
def fxCos (x : Int) : Int :=
  let r := x % (2 * fxPi)
  fxSum 1000 0 fxOne (-(fxMul r r)) (fun n => (2 * n + 1) * (2 * n + 2)) (fun _ => 1)

/-- 1 / (1 + e^-x) as a value. -/
def fxSigmoid (x : Int) : Fv :=
  let one := Fv.fin false 1 0
  if x < 0 then let t := fxExp x; fvDiv t (fvAdd one t)
  else fvDiv one (fvAdd one (fxExp (-x)))

/-- The root of Φ(y) = p by halving an interval `f` times. -/
def fxProbit (p : Int) : Nat → Int → Int → Int
  | 0, lo, hi => (lo + hi) / 2
  | f + 1, lo, hi => let m := (lo + hi) / 2; if fxPhi m < p then fxProbit p f m hi else fxProbit p f lo m

/-! ### The table (R146) -/

/-- Maximum error in hundredths of an ulp. -/
def errBound (sub : Nat) : Nat :=
  nth 0 [100, 100, 100, 100, 100, 50, 200, 200, 200, 300, 300, 250, 200, 150, 150, 400] sub

/-- The exact result for a finite nonzero operand inside the domain, enclosed far below an ulp. -/
def exactResult (sub : Nat) (v : Fv) : Fv :=
  let x := fxOf v
  match sub, v with
  | 0, _ => fxExp x
  | 1, _ => fxExp (fxMul x fxLn2)
  | 2, .fin _ m e => fxVal (fxLn m e)
  | 3, .fin _ m e => fxVal (fxDiv (fxLn m e) fxLn2)
  | 4, _ => fvDiv (.fin false 1 0) (fvSqrt v)
  | 6, _ =>
    let t := fxExp (-(2 * (x.natAbs : Int)))
    let one := Fv.fin false 1 0
    let y := fvDiv (fvSub one t) (fvAdd one t)
    if x < 0 then fvNeg y else y
  | 7, _ => fxSigmoid x
  | 8, _ => fxVal (fxErf x)
  | 9, _ => fvMul v (fxVal (fxPhi x))
  | 10, _ =>
    let u := fxMul (fxSqrt (fxDiv (2 * fxOne) fxPi)) (x + 44715 * fxMul x (fxMul x x) / 1000000)
    fvMul v (fxSigmoid (2 * u))
  | 11, _ => fvMul v (fxSigmoid x)
  | 12, _ => if x < 0 then fxVal (fxLn1p (fxOf (fxExp x))) else fvAdd v (fxVal (fxLn1p (fxOf (fxExp (-x)))))
  | 13, _ => fxVal (fxSin x)
  | 14, _ => fxVal (fxCos x)
  | 15, _ => fxVal (fxProbit x 120 (-(16 * fxOne)) (16 * fxOne))
  | _, _ => .nan

/-- An operand is a power of two. -/
def isPow2 : Fv → Bool
  | .fin n m _ => !n && decide (m ≠ 0) && 2 ^ Nat.log2 m == m
  | _ => false

/-- A value is an integer. -/
def isIntVal : Fv → Bool
  | .fin _ m e => decide (0 ≤ e) || m % 2 ^ (-e).toNat == 0
  | _ => false

/-- R146 states no result: rsqrt of a negative number, sin and cos at an infinity, the inverse normal CDF outside its
domain. Such a result is free (log 121). -/
def unstated (sub : Nat) (v : Fv) : Bool :=
  match v with
  | .nan => false
  | .inf n => (sub == 4 && n) || sub == 13 || sub == 14 || sub == 15
  | .fin n m _ => (sub == 4 && n && m != 0) || (sub == 15 && m != 0 && (n || !fvLt v (.fin false 1 0)))

/-- Results that R146 fixes: limits at ±0, ±infinity and NaN, logarithms of negative numbers, exactly representable
results, and recip. The limit of rsqrt at -0 is the one from above, +infinity (log 164). -/
def fixedResult (sub : Nat) (v : Fv) : Option Nat :=
  let one := 0x3F800000
  let ninf := 0xFF800000
  let pinf := 0x7F800000
  let zeroOf := fun n => if n then 0x80000000 else 0
  match v with
  | .nan => some nan32
  | .inf n =>
    match sub with
    | 0 => some (if n then 0 else pinf)
    | 1 => some (if n then 0 else pinf)
    | 2 => some (if n then nan32 else pinf)
    | 3 => some (if n then nan32 else pinf)
    | 4 => some 0
    | 5 => some (zeroOf n)
    | 6 => some (if n then 0xBF800000 else one)
    | 7 => some (if n then 0 else one)
    | 8 => some (if n then 0xBF800000 else one)
    | 9 => some (if n then 0x80000000 else pinf)
    | 10 => some (if n then 0x80000000 else pinf)
    | 11 => some (if n then 0x80000000 else pinf)
    | 12 => some (if n then 0 else pinf)
    | _ => some nan32
  | .fin n m _ =>
    if m = 0 then
      match sub with
      | 0 => some one
      | 1 => some one
      | 2 => some ninf
      | 3 => some ninf
      | 4 => some pinf
      | 5 => some (if n then ninf else pinf)
      | 7 => some 0x3F000000
      | 12 => none
      | 14 => some one
      | 15 => some ninf
      | _ => some (zeroOf n)
    else
      match sub with
      | 1 => if isIntVal v && fvLt (fvAbs v) (fvInt 150) then
          some (toFp32 (.fin false 1 (fxOf v / fxOne))) else none
      | 2 => if n then some nan32 else if toFp32 v = one then some 0 else none
      | 3 => if n then some nan32 else if isPow2 v then some (toFp32 (fvInt (fvLog2 v))) else none
      | 4 =>
        let c := ofFp32 (toFp32 (exactResult 4 v))
        if fvIsZero (fvSub (fvMul (fvMul c c) v) (.fin false 1 0)) then some (toFp32 c) else none
      | 5 => some (toFp32 (fvDiv (.fin false 1 0) v))
      | 15 => if toFp32 v = 0x3F000000 then some 0 else none
      | _ => none

/-- The value of a magnitude code, with the code above the largest finite one standing at 2^128. -/
def codeMag (c : Nat) : Fv := if c ≥ 0x7F800000 then .fin false 1 128 else ofFp32 c

/-- Magnitude codes whose distance from |y| is at most `b` hundredths of ulp(y) (R146). -/
def withinBound (y : Fv) (b : Nat) : List Nat :=
  let a := fvAbs y
  let q := max (fvLog2 a) (-126) - 23
  let near := toFp32 a
  let lim := fvScale (fvInt b) q
  ((upto 19).map fun k => near + k - 9).filter fun c =>
    decide (c ≤ 0x7F800000) && !fvLt lim (fvMul (fvInt 100) (fvAbs (fvSub (codeMag c) a)))

/-- VFUNC on an FP32 code: a value the table fixes, or one of those within its maximum error that `Config.vfunc` selects
(log 10), or any value where the spec states none. Its sign is that of the exact result, for a zero too (log 165). -/
def vfun (sub code : Nat) : Nat :=
  let v := ofFp32 code
  if unstated sub v then Config.vfunc sub code % 2 ^ 32
  else match fixedResult sub v with
  | some c => c
  | none =>
    let x := if fvIsZero v then .fin false 0 0 else v
    let big := (sub == 0 || sub == 1) && fvLt (fvInt 200) (fvAbs x)
    if big then (if fvNegBit x then nth 0 [0, 1] (Config.vfunc sub code % 2) else 0x7F800000)
    else
      let y := exactResult sub x
      let cs := (withinBound y (errBound sub)).eraseDups
      let c := nth (toFp32 (fvAbs y)) cs (Config.vfunc sub code % cs.length)
      if fvNegBit y then c + 0x80000000 else c

end Sys2Proof.Machine
end

