-- ==== Sys2Proof/Machine/VecOps.lean ====
section
/-! DEFINITION. The arithmetic of the vector operations on exact values (R139 to R151): elementwise operations,
row sums, norms, softmax, top-k, index operations, and Philox draws. -/
namespace Sys2Proof.Machine

/-- Rows of `n` consecutive elements. -/
def rowsOf {α : Type} (n : Nat) (l : List α) : List (List α) := chunks n (l.length / n + 1) l

/-- An INT32 element as an integer. -/
def intOf : Fv → Int
  | .fin n m e => let v : Int := if 0 ≤ e then ((m <<< e.toNat : Nat) : Int) else ((m >>> (-e).toNat : Nat) : Int); if n then -v else v
  | _ => 0

/-- An integer wrapped to INT32. -/
def wrap32 (i : Int) : Fv := fvInt (toSigned (ofSigned i 32) 32)

/-! ### Elementwise operations (R139, R147) -/

/-- The larger of two values; -0 is below +0 and a NaN gives NaN. -/
def fvMax (a b : Fv) : Fv :=
  if fvIsNan a || fvIsNan b then .nan
  else if fvLt a b then b else if fvLt b a then a else if fvNegBit a then b else a
/-- The smaller of two values, as `fvMax`. -/
def fvMin (a b : Fv) : Fv := fvNeg (fvMax (fvNeg a) (fvNeg b))

/-- Binary operations of VADD to VMAX, each rounded once. -/
def binOp (vop : Nat) (a b d : Fv) : Fv :=
  match vop with
  | 0x80 => rnd32 (fvAdd a b)
  | 0x81 => rnd32 (fvSub a b)
  | 0x82 => rnd32 (fvMul a b)
  | 0x83 => rnd32 (fvAdd (fvMul a b) d)
  | 0x84 => rnd32 (fvDiv a b)
  | 0x85 => rnd32 (fvSqrt a)
  | 0x86 => fvMin a b
  | _ => fvMax a b

/-- Bitwise operation on INT32. -/
def bitOp (f : Nat → Nat → Nat) (a b : Int) : Fv := fvInt (toSigned (f (ofSigned a 32) (ofSigned b 32)) 32)

/-- VIALU (R147). -/
def ialu (sub : Nat) (a b : Int) : Fv :=
  let sh := ofSigned b 32 % 32
  match sub with
  | 0 => wrap32 (a + b)
  | 1 => wrap32 (a - b)
  | 2 => wrap32 (a * b)
  | 3 => bitOp (· &&& ·) a b
  | 4 => bitOp (· ||| ·) a b
  | 5 => bitOp (· ^^^ ·) a b
  | 6 => wrap32 (a * (2 ^ sh : Nat))
  | 7 => fvInt (a / (2 ^ sh : Nat))
  | 8 => fvInt (min a b)
  | 9 => fvInt (max a b)
  | _ => fvInt (if a < b then 1 else 0)

/-! ### Rows (R140 to R144) -/

/-- round_fp32(row_sum / n). -/
def meanOf (xs : List Fv) : Fv := rnd32 (fvDiv (ofFp32 (rowSum xs)) (fvInt xs.length))

/-- VFUNC on a value. -/
def vfunVal (sub : Nat) (v : Fv) : Fv := ofFp32 (vfun sub (toFp32 v))

/-- layer_norm of R141. -/
def layerNorm (xs gs bs : List Fv) (eps : Fv) : List Fv :=
  let mean := meanOf xs
  let ds := xs.map fun x => rnd32 (fvSub x mean)
  let var := meanOf (ds.map fun d => fvMul d d)
  let r := vfunVal 4 (rnd32 (fvAdd var eps))
  (upto ds.length).map fun i =>
    rnd32 (fvAdd (fvMul (rnd32 (fvMul (nth fvZero ds i) r)) (nth fvZero gs i)) (nth fvZero bs i))

/-- rms_norm of R141. -/
def rmsNorm (xs gs : List Fv) (eps : Fv) : List Fv :=
  let ms := meanOf (xs.map fun x => fvMul x x)
  let r := vfunVal 4 (rnd32 (fvAdd ms eps))
  (upto xs.length).map fun i => rnd32 (fvMul (rnd32 (fvMul (nth fvZero xs i) r)) (nth fvZero gs i))

/-- exp of a rounded difference (R142). -/
def expDiff (a b : Fv) : Fv := vfunVal 0 (rnd32 (fvSub a b))

/-- Largest value of a list, -infinity when it is empty. -/
def rowMax (xs : List Fv) : Fv := xs.foldl fvMax (.inf true)

/-- The statistics (m, l) of a row after its blocks (R142). -/
def smxStats (xs : List Fv) : Fv × Fv :=
  (rowsOf 32 xs).foldl (fun (ml : Fv × Fv) blk =>
    let mn := fvMax ml.1 (rowMax blk)
    if mn = .inf true then ml
    else
      let e := fvSum (blk.map fun x => expDiff x mn)
      (mn, rnd32 (fvAdd (fvMul ml.2 (expDiff ml.1 mn)) e))) (.inf true, fvZero)

/-- softmax_row of R142: the row, m and l. -/
def softmaxRow (xs : List Fv) : List Fv × Fv × Fv :=
  let (m, l) := smxStats xs
  if m = .inf true then (xs.map fun _ => fvZero, m, l)
  else (xs.map fun x => rnd32 (fvDiv (expDiff x m) l), m, l)

/-- VSMXM on one row of each partial (R143): ROWLEN outputs, then m and l. -/
def mergeRow (n : Nat) (p q : List Fv) : List Fv :=
  let m1 := nth fvZero p n
  let m2 := nth fvZero q n
  let m := fvMax m1 m2
  let masked := decide (m = .inf true)
  let a1 := if masked then fvZero else expDiff m1 m
  let a2 := if masked then fvZero else expDiff m2 m
  let mix := fun i => if masked then fvZero else
    rnd32 (fvAdd (fvMul (nth fvZero p i) a1) (fvMul (nth fvZero q i) a2))
  (upto n).map mix ++ [m, mix (n + 1)]

/-- Does `b` rank before `a` in VTOPK (R144)? -/
def outranks (b a : Fv) : Bool := if fvIsNan b then false else if fvIsNan a then true else fvLt a b

/-- Insert into a ranking, after every element that is not outranked. -/
def rankIn (x : Nat × Fv) : List (Nat × Fv) → List (Nat × Fv)
  | [] => [x]
  | a :: t => if outranks x.2 a.2 then x :: a :: t else a :: rankIn x t

/-- The k largest values of a row with their indices. -/
def topK (k : Nat) (xs : List Fv) : List (Nat × Fv) :=
  (((upto xs.length).zip xs).foldl (fun acc x => rankIn x acc) []).take k

/-- Inclusive prefix sum, wrapping (VSCAN). -/
def scanRow (acc : Int) : List Fv → List Fv
  | [] => []
  | x :: t => let v := intOf (wrap32 (acc + intOf x)); fvInt v :: scanRow v t

/-! ### Draws (R150 to R152) -/

/-- One round of Philox4x32. -/
def philoxRound (k0 k1 : Nat) (c : Nat × Nat × Nat × Nat) : Nat × Nat × Nat × Nat :=
  let p0 := 0xD2511F53 * c.1
  let p1 := 0xCD9E8D57 * c.2.2.1
  ((p1 / 2 ^ 32) ^^^ c.2.1 ^^^ k0, p1 % 2 ^ 32, (p0 / 2 ^ 32) ^^^ c.2.2.2 ^^^ k1, p0 % 2 ^ 32)

/-- `n` rounds, the key raised between them. -/
def philox : Nat → Nat → Nat → Nat × Nat × Nat × Nat → Nat × Nat × Nat × Nat
  | 0, _, _, c => c
  | n + 1, k0, k1, c =>
    philox n ((k0 + 0x9E3779B9) % 2 ^ 32) ((k1 + 0xBB67AE85) % 2 ^ 32) (philoxRound k0 k1 c)

/-- draw_word of R150. -/
def drawWord (seed e slot drawId step : Nat) : Nat :=
  let ctr := (e / 4) * 2 ^ 80 + slot % 2 ^ 16 * 2 ^ 64 + drawId % 2 ^ 24 * 2 ^ 40 + step % 2 ^ 40
  let c := philox 10 (seed % 2 ^ 32) (seed / 2 ^ 32 % 2 ^ 32) (bits ctr 0 32, bits ctr 32 32, bits ctr 64 32, bits ctr 96 32)
  match e % 4 with
  | 0 => c.1
  | 1 => c.2.1
  | 2 => c.2.2.1
  | _ => c.2.2.2

/-- VRAND: the value of kind SUB of a word (R150). -/
def drawValue (sub p w : Nat) : Fv :=
  match sub with
  | 0 => fvInt (toSigned w 32)
  | 1 => .fin false (w / 256) (-24)
  | 2 => if p ≤ w then fvInt 1 else fvZero
  | _ => ofFp32 (vfun 15 (toFp32 (.fin false (2 * (w / 512) + 1) (-24))))

/-- position of R200; LAYOUT false is contiguous. -/
def position (balanced : Bool) (l s i t : Nat) : Nat :=
  if !balanced then i * (l / s) + t
  else
    let c := l / (2 * s)
    if t < c then i * c + t else (2 * s - 1 - i) * c + (t - c)

/-- Position of local token `t` in the sequence of a context that shards one (R198, R200). -/
def tokenPos (s : State) (x t : Nat) : Nat :=
  match (s.ctx x).pat.seqd with
  | none => t
  | some q => position (bit q 40) (bits q 0 25) (bits q 32 8 + 1) (ownMember s (0x18 + x)) t

/-- Element index of R150: the raster position in the whole tensor, with the offset of a sequence shard. -/
def drawIndex (s : State) (x cols e : Nat) : Nat := tokenPos s x (e / cols) * cols + e % cols

/-- Key of a step on die `d` (R152). -/
def stepSeed (s : State) (d n : Nat) : Nat :=
  match s.stepRec n with
  | some r => nth 0 r.seeds d
  | none => 0

end Sys2Proof.Machine
end

