-- ==== Sys2Proof/Machine/Vector.lean ====
section
/-! DEFINITION. The result of a vector instruction (R133 to R151): its operands read as exact values, its rows dealt
through the operations of `VecOps`, and what it stores. -/
namespace Sys2Proof.Machine

/-- Values in raster order for one slot, extra saturations (R145), and elements that are no non-finite result. -/
structure VecOut where
  vals : List Fv
  sats : Nat
  exempt : List Nat
  deriving DecidableEq, Repr

def VecOut.plain (l : List Fv) : VecOut := ⟨l, 0, []⟩

/-- A constant word of the context. -/
def constWord (s : State) (x i : Nat) : Nat := nth 0 (s.ctx x).pat.consts i

/-- Elementwise over A with the elements of B and D at the same raster place. -/
def zip3 (f : Fv → Fv → Fv → Fv) : List Fv → List Fv → List Fv → List Fv
  | [], _, _ => []
  | a :: t, bs, ds => f a (bs.headD fvZero) (ds.headD fvZero) :: zip3 f t (bs.drop 1) (ds.drop 1)

/-- Rows of VGATHER: row A[r] of B, or +0 with a saturation (R145). -/
def gatherRows (n : Nat) (idx b : List Fv) : VecOut :=
  let rows := rowsOf n b
  let pick := fun v => let i := intOf v; if 0 ≤ i ∧ i < rows.length then nth [] rows i.toNat else List.replicate n fvZero
  ⟨idx.flatMap pick, (idx.filter fun v => !(decide (0 ≤ intOf v) && decide (intOf v < rows.length))).length, []⟩

/-- Runs of VSCATTER: the highest source row wins; indices outside the rows of C write nothing (R145). -/
def scatterRuns (n rowsC : Nat) (idx b : List Fv) : List (Nat × List Fv) × Nat :=
  let rows := rowsOf n b
  let is := idx.map intOf
  let inside := fun (i : Int) => decide (0 ≤ i) && decide (i < rowsC)
  let runs := (upto rows.length).filterMap fun r =>
    let i := nth (-1) is r
    if inside i && !(is.drop (r + 1)).contains i then some (i.toNat * n, nth [] rows r) else none
  (runs, (is.filter fun i => !inside i).length)

/-- VCOUNT: how many elements equal each j; others count as saturations (R145). -/
def countRow (n : Nat) (xs : List Fv) : VecOut :=
  let is : List Int := xs.map intOf
  ⟨(upto n).map fun (j : Nat) => fvInt ((is.filter fun i => i == (j : Int)).length),
    (is.filter fun (i : Int) => !(decide (0 ≤ i) && decide (i < (n : Int)))).length, []⟩

/-- Words of a draw for the elements of a tensor of `cols` columns (R150). -/
def drawWords (s : State) (a : At) (cst cols n : Nat) : List Nat :=
  let seed := stepSeed s (s.ctx a.x).die a.st.step
  let id := constWord s a.x (cst + 1) % 2 ^ 24
  (upto n).map fun e => drawWord seed (drawIndex s a.x cols e) a.st.slot id a.st.step

/-- VDROP on the elements of A: kept values and the mask bits (R151). A NaN has no sign here: one that is dropped becomes +0
(log 168). -/
def dropVals (p : Nat) (sc : Fv) (ws : List Nat) (xs : List Fv) : List (Fv × Bool) :=
  (List.zip xs ws).map fun (x, w) =>
    if p ≤ w then (rnd32 (fvMul x sc), true) else (.fin (fvNegBit x) 0 0, false)

/-- Bits packed into bytes, lowest first. -/
def packBits (l : List Bool) : List Byte := leBytes (cdiv l.length 8) (packCodes 1 (l.map b2n))

/-- What a vector instruction writes to C and to D. -/
def vecOuts (s : State) (a : At) (vop : Nat) (w : VecWords) : VecOut × Option VecOut :=
  let c := s.ctx a.x
  let n := w.rowlen
  let xs := if readsA vop then readFlat s a w.ta w.fmtA else []
  let bs := if readsB vop then readFlat s a w.tb w.fmtB else []
  let ds := if readsD vop then readFlat s a w.td w.fmtB else []
  let eps := ofFp32 (constWord s a.x w.cst)
  let rows := rowsOf n xs
  let hasD := w.td != 0
  match vop with
  | 0x88 => (.plain xs, none)
  | 0x89 => (.plain (xs.map (vfunVal w.sub)), none)
  | 0x90 => (.plain (rows.map fun r => ofFp32 (rowSum r)), none)
  | 0x91 => (.plain (rows.map rowMax), none)
  | 0x92 => (.plain (rows.flatMap fun r => layerNorm r bs ds eps), none)
  | 0x93 => (.plain (rows.flatMap fun r => rmsNorm r bs eps), none)
  | 0x94 =>
    let rs := rows.map softmaxRow
    let masked := (upto rs.length).filter fun i => decide ((nth ([], fvZero, fvZero) rs i).2.1 = .inf true)
    (.plain (rs.flatMap (·.1)),
      if hasD then some ⟨rs.flatMap fun r => [r.2.1, r.2.2], 0, masked.flatMap fun i => [2 * i, 2 * i + 1]⟩ else none)
  | 0x95 =>
    let ps := rowsOf (n + 2) xs
    let qs := rowsOf (n + 2) bs
    let ms := (upto ps.length).map fun i => mergeRow n (nth [] ps i) (nth [] qs i)
    let masked := (upto ms.length).filter fun i => decide (nth fvZero (nth [] ms i) n = .inf true)
    (⟨ms.flatten, 0, masked.flatMap fun i => [i * (n + 2) + n, i * (n + 2) + n + 1]⟩, none)
  | 0xA0 =>
    let ks := rows.map (topK w.sub)
    (.plain (ks.flatMap fun r => r.map (·.2)),
      if hasD then some (.plain (ks.flatMap fun r => r.map fun e => fvInt e.1)) else none)
  | 0xA1 => (countRow n xs, none)
  | 0xA2 => (.plain (rows.flatMap (scanRow 0)), none)
  | 0xA3 => (gatherRows n xs bs, none)
  | 0xA8 => (.plain (zip3 (fun x y _ => ialu w.sub (intOf x) (intOf y)) xs bs []), none)
  | 0xB0 =>
    let d := c.desc w.tc
    let p := constWord s a.x w.cst
    (.plain ((drawWords s a w.cst (dCols d) (dRows d * dCols d)).map (drawValue w.sub p)), none)
  | 0xB1 =>
    let d := c.desc w.ta
    let sc := ofFp32 (constWord s a.x (w.cst + 2))
    (.plain ((dropVals (constWord s a.x w.cst) sc (drawWords s a w.cst (dCols d) xs.length) xs).map (·.1)), none)
  | _ => (.plain (zip3 (binOp vop) xs bs ds), none)

/-- The mask that VDROP writes to D: bit e of element e of the tensor as this context holds it, its shard where the sequence is sharded
(R151, log 167). -/
def dropMask (s : State) (a : At) (w : VecWords) : List Byte :=
  let xs := readFlat s a w.ta w.fmtA
  packBits ((dropVals (constWord s a.x w.cst) fvZero
    (drawWords s a w.cst (dCols ((s.ctx a.x).desc w.ta)) xs.length) xs).map (·.2))

/-- The result of a vector instruction; `xT` gives the exponents of a phase X (R177). The mask bytes of VDROP count in no census entry
(R135, log 169). -/
def vecResult (s : State) (a : At) (vop : Nat) (w : VecWords) (xT : Nat → Option Int) : Result :=
  if vop = 0xA4 then
    let rowsC := dRows ((s.ctx a.x).desc w.tc) * dCols ((s.ctx a.x).desc w.tc) / max w.rowlen 1
    let r := scatterRuns w.rowlen rowsC (readFlat s a w.ta w.fmtA) (readFlat s a w.tb w.fmtB)
    let q := storeRuns s a w.tc w.fmtC (xT w.tc) r.1 r.2
    ⟨q.writes, [], [q.count], [], q.bad, [(w.tc, q.T)]⟩
  else
    let (c, d) := vecOuts s a vop w
    let q := storeFlat s a w.tc w.fmtC (xT w.tc) c.vals c.sats c.exempt
    let r : Result := ⟨q.writes, [], [q.count], [], q.bad, [(w.tc, q.T)]⟩
    let r := match d with
      | some d =>
        let p := storeFlat s a w.td w.fmtB (xT w.td) d.vals d.sats d.exempt
        { r with writes := r.writes ++ p.writes, counts := r.counts ++ [p.count],
                 bad := r.bad ++ p.bad, texps := r.texps ++ [(w.td, p.T)] }
      | none => r
    if vop = 0xB1 ∧ w.td ≠ 0 then
      match placeOf s a w.td with
      | some p => { r with writes := r.writes ++ [(p, dropMask s a w)] }
      | none => r
    else r

end Sys2Proof.Machine
end

