-- ==== Sys2Proof/Machine/Exec.lean ====
section
/-! DEFINITION. The sequencer of a context (R82 to R85, R157 to R168, R212, R217): issue in program order, start when
dependencies are met, completion, and what the completion of a phase brings about. -/
namespace Sys2Proof.Machine

/-! ### Slots of work -/

/-- The record of work that belongs to no slot: phase W. -/
def SlotWork.none : SlotWork :=
  ⟨⟨0, 0, 0, 0⟩, 0, .none, .none, 0, 0, false, false, false, false, false, [], [], [], [], .fast, [], [], [], []⟩

/-- The record of the slot that a stamp names on context `x`. -/
def slotRec? (s : State) (x : Nat) (st : Stamp) : Option SlotWork :=
  (s.ctx x).slots.find? fun w => w.stamp == slotOf st
def slotRec (s : State) (x : Nat) (st : Stamp) : SlotWork := (slotRec? s x st).getD SlotWork.none
/-- Change the record of a slot. -/
def modSlot (x : Nat) (st : Stamp) (f : SlotWork → SlotWork) (s : State) : State :=
  modCtx x (fun c => { c with slots := c.slots.map fun w => if w.stamp = slotOf st then f w else w }) s

/-- Where an instruction with a stamp finds its operands. -/
def atOf (s : State) (x : Nat) (st : Stamp) : At := ⟨x, slotRec s x st, st⟩


/-! ### Stored pairs and windows (R158 to R162) -/

/-- The pair that a stored-pair descriptor names takes part in a W pass: the train mask of its region asks for it (R158, R172). -/
def Ctx.trained (c : Ctx) (d : Nat) : Bool :=
  let m := rMask (nth 0 c.pat.regions (dRegion d))
  dKind d == 3 && (m == 0 || (m == 2 && dMatrix d != 0))

/-- Products whose pairs some descriptor names and some W pass reads. -/
def Ctx.pairProducts (c : Ctx) : List Nat := ((c.pat.descs.filter c.trained).map dProduct).eraseDups

/-- TB of product `p`. -/
def Ctx.productTb (c : Ctx) (p : Nat) : Nat :=
  match c.workAt (nth 0 c.products p) with | .tile _ w => w.tb | .vec _ _ => 0

/-- Slots of the window that the context's phase W runs, as stamps. -/
def windowStamps (s : State) (c : Ctx) (step w : Nat) : List Stamp :=
  let (lo, hi) := windowSlots c.window (stepM s step) w
  (upto (hi + 1 - lo)).map fun i => ⟨s.str.epoch, step, lo + i, phF⟩

/-- Every slot of the window has reached step 6 of R157. -/
def windowWhole (s : State) (c : Ctx) (step w : Nat) : Bool :=
  decide (0 < stepM s step) &&
    (windowStamps s c step w).all fun st => c.slots.any fun r => r.stamp == st && r.bDone

/-- The slots a unit of phase W reads: the one it names, or the whole window. -/
def unitStamps (s : State) (c : Ctx) (step w : Nat) (u : Unit_) : List Stamp :=
  match u.slot with
  | some k => if (windowStamps s c step w).any (fun st => st.slot == k) then [⟨s.str.epoch, step, k, phF⟩] else []
  | none => if u.body then [] else windowStamps s c step w

/-- Every slot that a unit reads has reached step 6 of R157, so its pairs are stored. -/
def unitReady (s : State) (c : Ctx) (step w : Nat) (u : Unit_) : Bool :=
  (unitStamps s c step w u).all fun st => c.slots.any fun r => r.stamp == st && r.bDone

/-- The units of the active window. -/
def activeUnits (s : State) (c : Ctx) : List Unit_ :=
  match c.wActive with
  | some (n, w) => c.units (stepM s n) w
  | none => []

/-- The first place of the W list that is neither done nor issued nor a remote set or clear that has not left. -/
def nextUnit (c : Ctx) : Nat :=
  c.wDone.length + (c.issued.filter fun i => i.stamp.phase == phW).length
    + (c.remoteOps.filter fun r => r.2.2.phase == phW).length

/-! ### Issue (R82, R261, R264) -/

/-- Places of a phase's list that are behind slot `w`: done, issued, or a remote set or clear that has not left. -/
def Ctx.taken (c : Ctx) (w : SlotWork) (ph : Nat) : Nat :=
  (w.done.filter fun d => d.1 == ph).length
    + (c.issued.filter fun i => i.stamp.phase == ph && slotOf i.stamp == w.stamp).length
    + (c.remoteOps.filter fun r => r.2.2.phase == ph && slotOf r.2.2 == w.stamp).length

/-- The place of program index `idx` in its phase's list, when it is the next one to issue for the stamp. -/
def issuePos (s : State) (x : Nat) (st : Stamp) (idx : Nat) : Option Nat :=
  let c := s.ctx x
  if st.phase = phW then
    match c.wActive with
    | some (n, _) =>
      let p := nextUnit c
      match (activeUnits s c).drop p with
      | u :: _ => if u.idx = idx ∧ st.step = n then some p else none
      | [] => none
    | none => none
  else
    match slotRec? s x st with
    | none => none
    | some w =>
      let open_ := if st.phase = phF then !w.fDone else if st.phase = phX then w.xStarted && !w.xDone
        else st.phase == phB && w.bStarted && !w.bDone
      let list := c.phaseList st.phase
      let taken := c.taken w st.phase
      if open_ && nth 0xFFFF list taken == idx && decide (taken < list.length) then some taken else none

/-- A late issue of a fixed-tempo context (R271). -/
def lateIssue (x : Nat) (s : State) : State :=
  let d := (s.ctx x).die
  let s := bump (oCmp d 0x300) 16 16 1 (setFld (oCmp d 0x300) 4 4 x s)
  raiseIf (fld s (oCmp d 0x300) 1 1 == 1) 1 s

/-- The index of the instruction that opens the tempo block of `idx` (R268). -/
def tempoBlock (c : Ctx) (idx : Nat) : Nat :=
  ((upto (idx + 1)).filter fun i => bit (nth 0 c.pat.tempo i) 0).getLastD 0

/-- Instruction `idx` belongs, for a stamp, to a tempo block: one window of W, or one phase of one slot, runs it at a time. -/
def TempoBlock.holds (b : TempoBlock) (c : Ctx) (idx : Nat) (st : Stamp) : Bool :=
  b.idx == tempoBlock c idx && b.stamp.phase == st.phase && (st.phase == phW || slotOf b.stamp == slotOf st)

/-- The open block of an instruction. -/
def Ctx.tempoOf (c : Ctx) (idx : Nat) (st : Stamp) : Option TempoBlock := c.tempos.find? fun b => b.holds c idx st

/-- In fixed-tempo mode an instruction issues only inside a block whose origin has come, each place of it once (R269). -/
def tempoOpen (c : Ctx) (idx : Nat) (st : Stamp) : Bool :=
  !c.tempo || (c.tempoOf idx st).any fun b => decide (b.next ≤ idx)

/-- The issue may come late: an array was lost since the origin, or too few are left (R271, log 145). -/
def tempoLate (c : Ctx) (idx : Nat) (st : Stamp) : Bool :=
  (c.tempoOf idx st).any fun b => (b.hit || c.tempoFew) && idx != b.idx

/-- Instruction `idx` has issued in its block: a later one waits for its turn, and one that comes late shifts the origin of what
follows (R269, R271, log 145). -/
def tempoIssued (x idx : Nat) (st : Stamp) (s : State) : State :=
  let late := tempoLate (s.ctx x) idx st
  let delay := if late then Config.tempoDelay s.free else 0
  let s := if late then spend s else s
  let on : Ctx → TempoBlock → TempoBlock := fun c b =>
    if b.holds c idx st then { b with next := idx + 1, origin := b.origin + delay } else b
  let s := modCtx x (fun c => { c with tempos := c.tempos.map (on c) }) s
  if delay = 0 then s else lateIssue x s

/-- A tempo block goes on: nothing of it has issued yet, something issued has not completed, or a later place of the list of its phase
lies in it. -/
def TempoBlock.goesOn (c : Ctx) (b : TempoBlock) : Bool :=
  decide (b.next ≤ b.idx) || (c.issued.any fun i => b.holds c i.idx i.stamp) || (c.remoteOps.any fun r => b.holds c r.1 r.2.2)
    || (c.wait.any fun w => b.holds c w.idx w.stamp)
    || (c.phaseList b.stamp.phase).any fun p => decide (b.next ≤ p) && tempoBlock c p == b.idx

/-- A tempo block ends when its last instruction has completed (R269, R272). -/
def endTempo (x : Nat) (s : State) : State := modCtx x (fun c => { c with tempos := c.tempos.filter (TempoBlock.goesOn c) }) s

/-- Arrays for a tile instruction: those of its chain, or the lowest allotted ones that no open chain keeps and no instruction of
another context still runs on, free ones first (R82, R83, R86, log 162). -/
def pickArrays (s : State) (x : Nat) (op : Nat) (w : TileWords) (used : Nat) : List Nat :=
  let c := s.ctx x
  match op, w.cont, c.linkArrays with
  | 3, true, some h => h
  | _, _, _ =>
    let others := (upto 16).flatMap fun y => if y != x && (s.ctx y).die == c.die then (s.ctx y).issued.flatMap (·.arrays) else []
    let mine := (allottedArrays s x w.eng).filter fun a => !(chainArrays s c.die).contains a && !others.contains a
    let taken := fun a => c.issued.any fun j => j.arrays.contains a
    (sortBy id (((mine.filter fun a => !taken a) ++ mine.filter taken).take used))

/-- The empty result of an instruction that has not started. -/
def Result.none : Result := ⟨[], [], [], [], [], []⟩

/-! ### Start (R82, R123, R158, R492) -/

/-- Every router of the context is past a point of its slot (R194). -/
def routersAt (c : Ctx) (w : SlotWork) (done : RouteRec → Bool) : Bool :=
  (upto c.pat.routers.length).all fun r => w.routes.any fun q => q.router == r && done q


/-- Two issued instructions belong to one run of the program: one phase of one slot, or phase W. -/
def sameRun (e i : Issued) : Bool :=
  e.stamp.phase == i.stamp.phase && (i.stamp.phase == phW || slotOf e.stamp == slotOf i.stamp)

/-- May issued instruction `i` start: every earlier one of its run has started, no earlier issued instruction still writes a
slot it reads or writes, the pairs it reads are stored, and no other pass runs on its arrays (R82, R83, R161, R162). -/
def mayStart (s : State) (c : Ctx) (earlier : List Issued) (i : Issued) : Bool :=
  let mine := i.work.reads ++ c.metaSlots i.work ++ i.work.writes
  (earlier.all fun e => e.started || !sameRun e i) && !(earlier.any fun e => e.work.writes.any mine.contains) && combinedThere c i.work i.stamp &&
    !arraysBusy c i &&
    (if i.stamp.phase = phW then
      match c.wActive with
      | some (n, w) => (match (activeUnits s c).drop i.pos with | u :: _ => unitReady s c n w u | [] => false)
      | none => false
    else true)

/-- Does the TMM_B on weight slot `tb` read the output gradient of product `p`: it works on the same weight, or on the same
region where no TMM_B works on exactly that slot? -/
def Ctx.gradOf (c : Ctx) (p tb : Nat) : Bool :=
  let own := c.productTb p
  let exact := (c.listOf phB).any fun i => match c.workAt i with | .tile 2 w => w.tb == own | _ => false
  own == tb || (!exact && dRegion (c.desc own) != 0xFFFF && dRegion (c.desc own) == dRegion (c.desc tb))

/-- Keep the values read from slot `t` for one half of the pair of product `p`; reading it again replaces them. -/
def SlotWork.keep (p : Nat) (dy : Bool) (t : Nat) (rows : List (List Fv)) (w : SlotWork) : SlotWork :=
  let mine := fun (k : Nat × Bool × Nat × List (List Fv)) => k.1 == p && k.2.1 == dy && k.2.2.1 == t
  if w.kept.any mine then { w with kept := w.kept.map fun k => if mine k then (p, dy, t, rows) else k }
  else { w with kept := w.kept ++ [(p, dy, t, rows)] }

/-- One half of the pair of product `p`, all `n` rows of it: what its first tile read, or, where the tokens are tiled, the rows of
its tiles in the order of their places (R79, R158, log 44). -/
def SlotWork.half (c : Ctx) (w : SlotWork) (n p : Nat) (dy : Bool) : Option (List (List Fv)) :=
  match w.kept.filter fun k => k.1 == p && k.2.1 == dy with
  | [] => Option.none
  | k :: l =>
    if n ≤ k.2.2.2.length then some (k.2.2.2.take n)
    else some (((sortBy (fun k => dOffset (c.desc k.2.2.1)) (k :: l)).flatMap (·.2.2.2)).take n)

/-- Keep the operand of a product for its stored pair: X as F or X read it, dY as B read it (R158). The pair holds the whole
tensor for the tokens of the micro-batch, or the rows assembled for an expert (R193), however the product is tiled: a later
TMM_F on the weight slot of the product reads further rows of X. -/
def keepOperand (x : Nat) (st : Stamp) (i : Issued) (s : State) : State :=
  let c := s.ctx x
  match i.work with
  | .vec _ _ => s
  | .tile op w =>
    let d := c.desc w.ta
    let rows := fun (a : At) => readBlock s a w.ta w.fmtA (min (dRows d) (workRows s x i.idx st a.sw.tokens)) (dCols d)
    let put := fun (p : Nat) (dy : Bool) (s : State) => modSlot x st (fun r => r.keep p dy w.ta (rows (atOf s x st))) s
    if op = 1 ∧ st.phase ≠ phB then
      match findIdxN (· == i.idx) c.products 0 with
      | some k => (c.pairProducts.filter fun p => p == k || (decide (p < k) && c.productTb p == w.tb)).foldl (fun s p => put p false s) s
      | none => s
    else if op = 2 then
      (c.pairProducts.filter fun p => c.gradOf p w.tb).foldl (fun s p => put p true s) s
    else s

/-- The exponent that phase X repeats for a slot (R177). -/
def xExponent (a : At) (t : Nat) : Option Int :=
  if a.st.phase = phX then some (match a.sw.tUsed.find? (fun e => e.1 == t) with | some e => e.2 | none => 0) else none

/-- The stamps whose pairs a TMM_W at place `pos` of the active window reads. -/
def stampsAt (s : State) (c : Ctx) (pos : Nat) : List Stamp :=
  match c.wActive, (activeUnits s c).drop pos with
  | some (n, w), u :: _ => unitStamps s c n w u
  | _, _ => []

/-- The result of an instruction from the operands as they are now (R85, R89); `force` gives the T of a slot that is not its
census entry's own. -/
def resultOf (s : State) (a : At) (i : Issued) (force : Nat → Option Int) : Result :=
  let c := s.ctx a.x
  match i.work with
  | .vec vop w => vecResult s a vop w force
  | .tile op w =>
    let demA := i.demoted.any (·.1 == 0)
    let demB := i.demoted.any (·.1 == 1)
    if op = 3 then
      let acc := if w.cont then (match c.chain with | some h => h.acc | none => []) else []
      wResult s a w (stampsAt s c i.pos) acc demA demB
    else productResult s a op w (force w.tc) demA demB

/-- The instructions of a phase after place `pos` that write slot `t` in the use that opens there, up to the first that reads
it (R123). -/
def laterWriters (c : Ctx) (st : Stamp) (pos t : Nat) : List Issued :=
  let rest := (c.phaseList st.phase).drop (pos + 1)
  let flags := rest.map fun i => isFlagOp (nth 0 c.pat.prog i)
  let use := (upto rest.length).takeWhile fun k => nth false flags k || !(c.workAt (nth 0 rest k)).reads.contains t
  (use.filter fun k => !nth false flags k && (c.workAt (nth 0 rest k)).writes.contains t).map fun k =>
    ⟨nth 0 rest k, pos + 1 + k, c.workAt (nth 0 rest k), st, [], [], false, Result.none⟩

/-- The result of an instruction that starts: phase X repeats the T of F (R177), and a use whose history is empty takes its T
from the largest input of all its writing instructions, formed once before (R125, log 140). -/
def startResult (s : State) (a : At) (i : Issued) : Result :=
  let r := resultOf s a i (xExponent a)
  let slots := i.work.writes.filter fun t => a.st.phase != phX && measures s a.x t
  if slots.isEmpty then r
  else
    let c := s.ctx a.x
    let largest := fun (q : Result) t => maxNat ((q.counts.filter fun n => n.slot == t).map (·.maxabs))
    let force := fun t => if slots.contains t then
        let m := maxNat (largest r t :: (laterWriters c a.st i.pos t).map fun j => largest (resultOf s a j (xExponent a)) t)
        let d := c.desc t
        some (measuredT (fmtOr d (i.work.fmtOf t)) (headroom s c.die (dHr d)) (ofFp32 m))
      else none
    resultOf s a i force

/-- Operands that an instruction issued now reads demoted, as (which, slot) (R492). -/
def demotedOperands (s : State) (a : At) (idx : Nat) : Work → List (Nat × Nat)
  | .vec _ _ => []
  | .tile _ w => [(0, w.ta), (1, w.tb)].filter fun e => demotesNow s a idx e.1 e.2

/-- What the passes of an instruction that starts leave in the PE registers of its arrays (R66). -/
def loadArrays (s : State) (a : At) (i : Issued) : State :=
  match i.work with
  | .tile op w =>
    let demA := i.demoted.any (·.1 == 0)
    let demB := i.demoted.any (·.1 == 1)
    if op = 3 then s else loadWeights a op w (foldOf s a op w demA demB) i.arrays demA demB s
  | .vec _ _ => s

/-- The leading blocks that an instruction reads: slot, format, rows, columns, and whether half of the rows are stored. -/
def readShapes (c : Ctx) : Work → List (Nat × Nat × Nat × Nat × Bool)
  | .tile op w =>
    if op = 3 then []
    else
      let half := if tileTwo4 w then 2 else 1
      [(w.ta, w.fmtA, tileM w, tileK w, false),
        (w.tb, w.fmtB, (if op = 1 then tileK w else tileN w) / half, if op = 1 then tileN w else tileK w, tileTwo4 w)]
  | .vec vop w =>
    let all := fun t f => (t, f, dRows (c.desc t), dCols (c.desc t), false)
    (if readsA vop then [all w.ta w.fmtA] else []) ++ (if readsB vop then [all w.tb w.fmtB] else [])
      ++ (if readsD vop then [all w.td w.fmtB] else [])

/-- Count the poisoned integer elements that an instruction reads as non-finite (R512, log 163). -/
def countPoisoned (x : Nat) (i : Issued) (s : State) : State :=
  (readShapes (s.ctx x) i.work).foldl (fun s (t, f, m, n, half) =>
    let k := poisonedInts s (atOf s x i.stamp) t f m n half
    if k = 0 then s else addCounts x true ⟨t, 0, 0, k, 0⟩ s) s

/-- Start an issued instruction: the uses it reads end, its result is formed, the uses it writes begin (R123, R124). One
that reads an operand demoted counts in PWR_DEGRADE.DEMOTE_CNT (R492, R501). -/
def startOne (x : Nat) (i : Issued) (s : State) : State :=
  let s := i.work.reads.foldl (fun s t => endUse x t s) s
  let s := keepOperand x i.stamp i (countPoisoned x i s)
  let a := atOf s x i.stamp
  let dem := i.demoted
  let r := startResult s a i
  let isX := i.stamp.phase == phX
  let s := loadArrays s a i
  let s := dem.foldl (fun s e => addDemoted x e.2 s) (if dem.isEmpty then s else bump (oPwr 0x44) 16 16 1 s)
  let s := r.texps.foldl (fun s e => beginUse x e.1 isX e.2 s) s
  let s := if isX then s else modSlot x i.stamp (fun w => { w with
      tUsed := w.tUsed.filter (fun e => !r.texps.any fun f => f.1 == e.1) ++ r.texps,
      demoted := if i.stamp.phase = phF then w.demoted ++ dem.map fun e => (i.idx, e.1) else w.demoted }) s
  modCtx x (fun c => { c with issued := c.issued.map fun j => if j = i then { j with started := true, result := r } else j }) s

/-- Start every issued instruction that can, oldest first; `n` is how many have been looked at. -/
def startReady : Nat → Nat → Nat → State → State
  | 0, _, _, s => s
  | f + 1, n, x, s =>
    let c := s.ctx x
    match c.issued.drop n with
    | [] => s
    | i :: _ =>
      let s := if !i.started && mayStart s c (c.issued.take n) i && inputsThere s x i.work i.stamp then startOne x i s else s
      startReady f (n + 1) x s

def startAll (x : Nat) (s : State) : State := startReady (s.ctx x).issued.length 0 x s


/-- Every slot that a TMM_W on an expert's region reads has zero rows: it runs no pass (R193). -/
def emptyTile (s : State) (x : Nat) (w : TileWords) (stamps : List Stamp) : Bool :=
  isExpertRegion s x (dRegion ((s.ctx x).desc w.tc)) && !stamps.isEmpty && stamps.all fun st =>
    (s.ctx x).pairs.any fun p => p.stamp == slotOf st && p.product == dProduct ((s.ctx x).desc w.ta) && p.x.isEmpty

/-- The arrays an instruction at place `pos` issues with; none while a tile instruction finds no free one. A TMM_W that keeps no
cell uses no array (log 136). -/
def issueArrays (s : State) (x : Nat) (st : Stamp) (idx pos : Nat) : Work → Option (List Nat)
  | .vec _ _ => some []
  | .tile op w =>
    let a := atOf s x st
    let used := (foldOf s a op w (demotesNow s a idx 0 w.ta) (demotesNow s a idx 1 w.tb)).used
    let arrays := pickArrays s x op w used
    if op = 3 && emptyTile s x w (stampsAt s (s.ctx x) pos) then some []
    else if arrays.isEmpty && (used != 0 || allotted s x w.eng == 0) then none else some arrays

/-- Issue an instruction of context `x` (R82): it joins the issued ones with its arrays, and starts when it can. -/
def issue (x : Nat) (st : Stamp) (idx : Nat) (work : Work) (s : State) : State :=
  let c := s.ctx x
  let chainGoesOn := (match work with | .tile 3 w => w.cont && c.chain.isSome | _ => false) && c.state == .running
  if !(mayIssue s x || (preempting s x && chainGoesOn)) || !tempoOpen c idx st then s
  else match issuePos s x st idx with
    | none => s
    | some pos =>
      let dem := demotedOperands s (atOf s x st) idx work
      match issueArrays s x st idx pos work with
      | none => s
      | some arrays => startAll x (modCtx x (fun c => { c with
          issued := c.issued ++ [⟨idx, pos, work, st, arrays, dem, false, Result.none⟩] }) (tempoIssued x idx st s))

/-! ### What a completed instruction sends (R157, R167, R212, R214, R448) -/

/-- Contributions cut into runs of consecutive elements, at most `k` each. -/
def contribRuns (k : Nat) : List (Nat × Nat) → List (Nat × List Nat)
  | [] => []
  | (e, c) :: t =>
    match contribRuns k t with
    | (e', cs) :: r => if e' = e + 1 ∧ cs.length < k then (e, c :: cs) :: r else (e, [c]) :: (e', cs) :: r
    | [] => [(e, [c])]

/-- The 16-byte prefix of a RED message (R448). -/
def redStamp (t : Stamp) (count : Nat) : List Byte := leBytes 16 (packStamp t + count % 2 ^ 16 * 2 ^ 96)

/-- Hand the contributions of a finished tile to the hub over the die interface (R167, R448). -/
def handOff (x : Nat) (t : Stamp) (tc : Nat) (l : List (Nat × Nat)) (s : State) : State :=
  let c := s.ctx x
  let d := c.desc tc
  let w := if dPrec d = 1 then 4 else 2
  (contribRuns (4080 / w) l).foldl (fun s r =>
    let body := redStamp t r.2.length ++ r.2.flatMap (leBytes w)
    let len := cdiv body.length 64
    sendIx ⟨6, 0, c.die, agHub, 0, 15, 0, len, r.1 % 2 ^ 32 + dGrp d * 2 ^ 32 + dPrec d * 2 ^ 35, 0, dBucket d, false, 0⟩
      (padTo (64 * len) body) s) s

/-- Hand an empty-tile marker over for each run of elements of a finished tile, without data bytes (R193, R448). -/
def handEmpty (x : Nat) (t : Stamp) (tc : Nat) (l : List (Nat × Nat)) (s : State) : State :=
  let c := s.ctx x
  let d := c.desc tc
  (contribRuns 65535 l).foldl (fun s r =>
    sendIx ⟨6, 1, c.die, agHub, 0, 15, 0, 1, r.1 % 2 ^ 32 + dGrp d * 2 ^ 32 + dPrec d * 2 ^ 35, 0, dBucket d, false, 0⟩
      (padTo 64 (redStamp t r.2.length)) s) s

/-- The stored bytes of a tensor slot, padded to whole 64-byte units. -/
def slotBytes (s : State) (a : At) (t : Nat) : List Byte :=
  match tensAt s a t 0 false 0 with
  | none => []
  | some q =>
    let r := readerOf s a
    let n := if isMx q.fmt then q.scaleAt - q.addr + (if q.sq then cdiv q.rows 32 else q.rows) * q.rowBlocks
      else q.rows * q.rowBytes
    (upto (roundUp n 64)).map fun i => (q.clean r).byte (q.addr + i)

/-- The descriptor of an entry whose data is slot `t`: with the T of its use, the one that this slot of work wrote it with (R127,
R213). -/
def entryOf (s : State) (a : At) (t ph kind : Nat) : QDesc :=
  let d := (s.ctx a.x).desc t
  let used := match a.sw.tUsed.find? (fun e => e.1 == t) with | some e => e.2 | none => operandT s a t
  let texp := if dPsMode d = 2 then ofSigned used 9 else 0
  ⟨{ a.st with phase := ph }, kind, 0, a.sw.tokens / 32, texp, (slotBytes s a t).length, 0, 0, 0⟩

/-- The slot that holds the result of the last instruction of phase F. -/
def Ctx.lastOut (c : Ctx) : Nat :=
  match (c.listOf phF).getLast? with
  | some i => (c.workAt i).writes.headD 0
  | .none => 0

/-- The program index of the instruction whose completion leaves dX of the stage's first product (R157 step 5): the last
TMM_B that writes the result of the TMM_B on that product's weight. -/
def Ctx.firstDx (c : Ctx) : Option Nat :=
  let b := c.listOf phB
  let onFirst := b.filter fun i => match c.workAt i with | .tile 2 w => w.tb == c.productTb 0 | _ => false
  match onFirst with
  | [] => Option.none
  | i :: _ =>
    let tc := (c.workAt i).writes.headD 0
    (b.filter fun j => match c.workAt j with | .tile 2 w => w.tc == tc | _ => false).getLast?

/-- Count `k` slots more that completed a phase of a step on a context (R65: PHASE_DONE). -/
def countPhase (x step ph k : Nat) (s : State) : State :=
  modCtx x (fun c =>
    let had := match c.phaseCount.find? (fun e => e.1 == step && e.2.1 == ph) with | some e => e.2.2 | none => 0
    { c with phaseCount := (c.phaseCount.filter fun e => !(e.1 == step && e.2.1 == ph)) ++ [(step, ph, had + k)] }) s

/-- The tensor slot of the loss gradient: the one of the own gradient queue that F writes (R212, log 85). -/
def Ctx.lossSlot (c : Ctx) : Nat :=
  (((c.listOf phF).flatMap fun i => (c.workAt i).writes).find? fun t => dKind (c.desc t) == 2 && dQueue (c.desc t) == 1).getD 0

/-- F of a slot completes (R176, R212): its output leaves for the downstream neighbour, or a LAST context places its
own gradient entry. -/
def finishF (x : Nat) (st : Stamp) (s : State) : State :=
  let c := s.ctx x
  let s := modSlot x st (fun w => { w with fDone := true, input := if c.offloads then .offloading else w.input }) s
  let a := atOf s x st
  let s := countPhase x st.step phF 1 s
  if c.last then placeOwnGradient x a.sw.gBuf (entryOf s a c.lossSlot phB 1) (slotBytes s a c.lossSlot) s
  else produceEntry x 0 (entryOf s a c.lastOut phF 0) (slotBytes s a c.lastOut) s

/-- Return a gradient buffer that no pair holds (R217). -/
def freeGrad (x buf : Nat) (s : State) : State :=
  if (s.ctx x).pairs.any (fun p => p.gBuf == some buf) then s else freeBuf x 1 buf s

/-- Does the dY of product `p` lie in the gradient entry? With no TMM_B on its weight, the entry is its dY (log 44). -/
def gradProduct (c : Ctx) (p : Nat) : Bool :=
  match (c.listOf phB).find? (fun i => match c.workAt i with | .tile 2 w => c.gradOf p w.tb | _ => false) with
  | some i => (match c.workAt i with | .tile _ w => dKind (c.desc w.ta) == 2 | .vec _ _ => false)
  | none => true

/-- The gradient entry's data as rows, for a product that no TMM_B reads. -/
def gradRows (s : State) (a : At) (p : Nat) : List (List Fv) :=
  let c := s.ctx a.x
  let w := dCols (c.desc (match c.workAt (nth 0 c.products p) with | .tile _ w => w.tc | .vec _ _ => 0))
  match findIdxN (fun d => dKind d == 2 && dQueue d == 1) c.pat.descs 0 with
  | some i => readBlock s a (i + 1) 0 a.sw.tokens w
  | none => []

/-- The pairs that a slot stores when its B completes (R158). -/
def pairsOf (s : State) (a : At) : List Pair :=
  let c := s.ctx a.x
  let half := fun p dy => a.sw.half c (workRows s a.x (nth 0 c.products p) a.st a.sw.tokens) p dy
  if !c.hasW then [] else c.pairProducts.map fun p =>
    ⟨slotOf a.st, p, (half p false).getD [], (half p true).getD (gradRows s a p), if gradProduct c p then a.sw.gBuf else none⟩

/-- B of a slot completes (R157 step 6, R217, R226). -/
def finishB (x : Nat) (st : Stamp) (s : State) : State :=
  let a := atOf s x st
  let ps := pairsOf s a
  let s := modCtx x (fun c => { c with pairs := c.pairs ++ ps,
                                       ringHeld := c.ringHeld.filter fun b => slotOf b.hdr.stamp != slotOf st }) s
  let s := modSlot x st (fun w => { w with bDone := true, aBuf := none, gBuf := none, kept := [], inBytes := [], inBad := [], routes := [], mem := [] }) s
  let s := match a.sw.aBuf with | some b => freeBuf x 0 b s | none => s
  let s := match a.sw.gBuf with | some b => freeGrad x b s | none => s
  countPhase x st.step phB 1 (releaseStamp x st (pumpAll s))

/-- Does unit `u` read the pair of product `p` and stamp `t`? -/
def unitReads (s : State) (c : Ctx) (n w : Nat) (u : Unit_) (p : Nat) (t : Stamp) : Bool :=
  match c.workAt u.idx with
  | .tile _ tw => (dProduct (c.desc tw.ta) == p || dProduct (c.desc tw.tb) == p) && (unitStamps s c n w u).contains t
  | .vec _ _ => false

/-- Unit `i` of the active window still needs its pairs: it has not completed, or its held chain has not, so that a failed
array could have the chain executed again (R98, R158, log 137). -/
def unitLeft (c : Ctx) (us : List Unit_) (i : Nat) : Bool :=
  let closes := fun u : Unit_ => u.body && (match c.workAt u.idx with | .tile _ w => !w.hold | .vec _ _ => false)
  !c.wDone.contains i || match us.drop i with
    | u :: t => u.body && (match findIdxN closes (u :: t) i with | some j => !c.wDone.contains j | none => true)
    | [] => false

/-- Release the pairs of the active window that no unit still to complete reads (R158). -/
def releasePairs (x : Nat) (s : State) : State :=
  let c := s.ctx x
  match c.wActive with
  | none => s
  | some (n, w) =>
    let us := activeUnits s c
    let left := (upto us.length).filter (unitLeft c us)
    let mine := windowStamps s c n w
    let gone := c.pairs.filter fun p => mine.contains p.stamp &&
      !(left.any fun i => match us.drop i with | u :: _ => unitReads s c n w u p.product p.stamp | [] => false)
    let s := modCtx x (fun c => { c with pairs := c.pairs.filter fun p => !gone.contains p }) s
    let back := (gone.filterMap (·.gBuf)).eraseDups
    if back.isEmpty then s else pumpAll (back.foldl (fun s b => freeGrad x b s) s)

/-- Phase W of the active window ends with its last unit (R168). -/
def finishW (x : Nat) (s : State) : State :=
  let c := s.ctx x
  match c.wActive with
  | none => s
  | some (n, w) =>
    if c.wDone.length < (activeUnits s c).length then s
    else
      let k := (windowStamps s c n w).length
      countPhase x n phW k (modCtx x (fun c => { c with windowsDone := c.windowsDone ++ [(n, w)], wActive := none, wDone := [] }) s)

/-- End the phase of a slot whose list has completed. -/
def endPhase (x : Nat) (st : Stamp) (s : State) : State :=
  let c := s.ctx x
  let w := slotRec s x st
  let all := decide ((c.phaseList st.phase).length ≤ (w.done.filter fun d => d.1 == st.phase).length)
  if !all then s
  else if st.phase = phF then (if w.fDone || !routersAt c w (·.combined) then s else finishF x st s)
  else if st.phase = phX then
    (if w.xDone || !w.xStarted || !routersAt c w (·.xDone) then s else countPhase x st.step phX 1 (modSlot x st (fun w => { w with xDone := true }) s))
  else if w.bDone || !w.bStarted || !routersAt c w (·.backDone) then s else finishB x st s

/-! ### Completion (R85, R116, R128, R158, R167) -/

/-- The last slot of the active window, whose stamp its contributions carry (R167). -/
def lastStamp (s : State) (c : Ctx) (st : Stamp) : Stamp :=
  match c.wActive with
  | some (n, w) => ⟨s.str.epoch, n, (windowSlots c.window (stepM s n) w).2, phW⟩
  | none => st

/-- Store bytes for a slot of work: they become visible, and the slot keeps its own intermediates (R175, log 141). -/
def storeFor (x : Nat) (st : Stamp) (ws : List (Nat × List Byte)) (s : State) : State :=
  modSlot x st (fun w => { w with mem := ws.reverse ++ w.mem }) (applyWrites x ws s)

/-- Make a started instruction's result visible and settle its counts, flag, chain and contributions. -/
def makeVisible (x : Nat) (i : Issued) (s : State) : State :=
  let c := s.ctx x
  let r := i.result
  let s := storeFor x i.stamp r.writes s
  let s := r.counts.foldl (fun s n => addCounts x (i.stamp.phase == phX) n s) s
  let src := match i.work with | .tile _ _ => 0 | .vec _ _ => 1
  let s := r.bad.foldl (fun s b => raiseNf x b.1 b.2.1 b.2.2.1 b.2.2.2 src s) s
  match i.work with
  | .tile 3 w =>
    let s := leaveAcc c.die w.hold (accCells s (atOf s x i.stamp) w r.acc) i.arrays s
    if w.hold then
      let links := (match c.chain with | some h => if w.cont then h.links else [] | none => []) ++ [(i.idx, i.stamp)]
      modCtx x (fun c => { c with chain := some ⟨links, r.acc, i.arrays⟩ }) s
    else
      let s := if w.cont then modCtx x (fun c => { c with chain := none }) s else s
      (if emptyTile s x w (stampsAt s c i.pos) then handEmpty else handOff) x (lastStamp s c i.stamp) w.tc r.contrib s
  | _ => s

/-- INSTRUCTION_COMPLETE for a started instruction. -/
def completeOne (x : Nat) (i : Issued) (s : State) : State :=
  let s := modCtx x (fun c => { c with issued := dropFirst (· == i) c.issued }) s
  let s := endTempo x (progress x (makeVisible x i s))
  let s := if i.stamp.phase = phW then finishW x (releasePairs x (modCtx x (fun c => { c with wDone := c.wDone ++ [i.pos] }) s))
    else
      let s := modSlot x i.stamp (fun w => { w with done := w.done ++ [(i.stamp.phase, i.pos)] }) s
      let c := s.ctx x
      let a := atOf s x i.stamp
      let dxSlot := i.work.writes.headD 0
      let s := if i.stamp.phase = phB && c.firstDx == some i.idx && !c.first then
          produceEntry x 1 (entryOf s a dxSlot phB 1) (slotBytes s a dxSlot) s
        else s
      endPhase x i.stamp s
  startAll x s

/-- A flag instruction at place `pos` of a phase retires (R289). -/
def retireFlag (x : Nat) (st : Stamp) (pos : Nat) (s : State) : State :=
  let s := endTempo x (progress x s)
  let s := if st.phase = phW then finishW x (releasePairs x (modCtx x (fun c => { c with wDone := c.wDone ++ [pos] }) s))
    else endPhase x st (modSlot x st (fun w => { w with done := w.done ++ [(st.phase, pos)] }) s)
  startAll x s

/-- Retire the FWAIT of context `x` when its wait has completed with OK. -/
def settleWait (x : Nat) (s : State) : State :=
  match (s.ctx x).wait with
  | some w => if w.status = some stOk then retireFlag x w.stamp w.pos (modCtx x (fun c => { c with wait := none }) s) else s
  | none => s

/-- Retire every FWAIT whose wait has completed with OK. -/
def settleWaits (s : State) : State := (upto 16).foldl (fun s x => settleWait x s) s

/-- A remote set or clear of context `x` retires as its record leaves the module (R289). -/
def retireRemote (x idx pos : Nat) (st : Stamp) (s : State) : State :=
  if (s.ctx x).remoteOps.contains (idx, pos, st) then
    retireFlag x st pos (modCtx x (fun c => { c with remoteOps := dropFirst (· == (idx, pos, st)) c.remoteOps }) s)
  else s

/-- Contexts that wait for their issued instructions complete their jobs elsewhere (`Context.lean`). -/
def completeInstr (x : Nat) (st : Stamp) (idx : Nat) (s : State) : State :=
  match (s.ctx x).issued.find? (fun i => i.idx == idx && i.stamp == st && i.started) with
  | some i => completeOne x i s
  | none => s

end Sys2Proof.Machine
end

