-- ==== Sys2Proof/Machine/Moe.lean ====
section
/-! DEFINITION. Conditional computation (R181 to R197): the dispatch unit, batches and their checks, receive partitions,
the assembly of an expert's input and the return of its rows, combining at the source, and the load table. -/
namespace Sys2Proof.Machine

/-! ### Rows of a batch (R187): the element bytes of a row, then its scales where the format has them (log 46) -/

def rowTens (fmt n : Nat) (T : Int) : Tens := ⟨0, 1, n, fmt, false, T⟩
/-- Bytes of a row of tensor slot `t`. -/
def slotSpan (c : Ctx) (t : Nat) : Nat := rowSpan (dFmt (c.desc t)) (dCols (c.desc t))

/-- A reader over the bytes of one row. -/
def rowReader (q : Tens) (b : List Byte) : Reader where
  byte p := (b.drop (if p < q.scaleAt then p else q.rowBytes + (p - q.scaleAt))).headD 0
  bad _ := false
/-- The values of a row, decoded with exponent `T` (R106, R109). -/
def rowValues (fmt n : Nat) (T : Int) (b : List Byte) : List Fv := (rowTens fmt n T).row (rowReader (rowTens fmt n T) b) 0 n

/-- The bytes of a row of values, converted with exponent `T`. -/
def rowBytesOf (fmt n : Nat) (T : Int) (vs : List Fv) : List Byte :=
  let q := rowTens fmt n T
  let r := writesReader (q.put [vs]).writes
  padTo (rowSpan fmt n) ((upto q.rowBytes).map r.byte ++
    (if isMx fmt then (upto q.rowBlocks).map fun i => r.byte (q.scaleAt + i) else []))

/-- Row `i` of a stored tensor as it lies in memory, with its scales. -/
def storedRow (s : State) (a : At) (t i : Nat) : List Byte :=
  match tensAt s a t 0 false 0 with
  | none => List.replicate (slotSpan (s.ctx a.x) t) 0
  | some q =>
    let r := q.clean (readerOf s a)
    padTo (rowSpan q.fmt q.cols) ((upto q.rowBytes).map (fun k => r.byte (q.addr + i * q.rowBytes + k)) ++
      (if isMx q.fmt then (upto q.rowBlocks).map fun k => r.byte (q.scaleOf i 0 + k) else []))

/-- The bytes of a travelled row go to row `i` of a stored tensor as they are. -/
def rowPlaces (q : Tens) (i : Nat) (b : List Byte) : List (Nat × List Byte) :=
  (q.addr + i * q.rowBytes, (padTo q.rowBytes b).take q.rowBytes) ::
    (if isMx q.fmt then [(q.scaleOf i 0, (padTo (q.rowBytes + q.rowBlocks) b |>.drop q.rowBytes).take q.rowBlocks)] else [])

/-- An index word (R187). -/
def idxWord (c : Nat × Nat) : Nat := c.1 % 2 ^ 20 + c.2 % 8 * 2 ^ 20

/-! ### Routing records (R184, R194) -/

def routeOf (w : SlotWork) (r : Nat) : Option RouteRec := w.routes.find? fun q => q.router == r
def modRoute (x : Nat) (st : Stamp) (r : Nat) (f : RouteRec → RouteRec) (s : State) : State :=
  modSlot x st (fun w => { w with routes := w.routes.map fun q => if q.router = r then f q else q }) s

/-- Kept choices of expert `e`, in pos order. -/
def RouteRec.keptOf (q : RouteRec) (e : Nat) : List (Nat × Nat) :=
  (q.choices.filter fun c => c.2.2.1 == e && c.2.2.2.1).map fun c => (c.1, c.2.1)
/-- Ranks of token `t` that were kept, ascending. -/
def RouteRec.ranksOf (q : RouteRec) (t : Nat) : List Nat :=
  (q.choices.filter fun c => c.1 == t && c.2.2.2.1).map fun c => c.2.1

/-- assign of R184 over the choices in order; `l` holds the loads. A choice outside the experts carries expert `e`. -/
def assignGo (e cap : Nat) : List (Nat × Nat × Int) → List Nat → List (Nat × Nat × Nat × Bool × Nat) × List Nat
  | [], l => ([], l)
  | (t, r, i) :: rest, l =>
    if i < 0 ∨ (e : Int) ≤ i then
      let q := assignGo e cap rest l
      ((t, r, e, false, 0) :: q.1, q.2)
    else
      let n := nth 0 l i.toNat
      if n < cap then
        let q := assignGo e cap rest (modNth (· + 1) l i.toNat)
        ((t, r, i.toNat, true, n) :: q.1, q.2)
      else
        let q := assignGo e cap rest l
        ((t, r, i.toNat, false, 0) :: q.1, q.2)

/-- The choices of a micro-batch in the order of R184. -/
def choicesOf (k tok : Nat) (idx : List Int) : List (Nat × Nat × Int) :=
  (upto k).flatMap fun r => (upto tok).map fun t => (t, r, nth (-1) idx (t * k + r))

/-! ### Load statistics (R196) -/

/-- Count one micro-batch in the load entry of expert `e`. -/
def countLoad (x r e load dropped : Nat) (s : State) : State :=
  let c := s.ctx x
  if !censusOn s c.die then s
  else
    let i := 1024 * x + c.loadBase r + e
    let l := loadAt s c.die i
    let d := satAdd 0xFFFFFFFF l.dropped dropped
    let rises := l.thr != 0 && decide (l.dropped < l.thr) && decide (l.thr ≤ d) && !l.evt
    let s := modLoad c.die i (fun l => { l with
      routed := satAdd 0xFFFFFFFF l.routed load, dropped := d, peak := max l.peak load, evt := l.evt || rises }) s
    raiseIf (rises && censusIrq s c.die) 5 s

/-! ### Combining at the source (R185, R194) -/

/-- The values of the kept expert output of (t, r), from their batches: rows of the tensor slot that describes them, with its T
(log 170). -/
def outOf (fmt n : Nat) (T : Int) (outs : List (Nat × Nat × List Byte)) (t r : Nat) : List Fv :=
  match outs.find? fun o => o.1 == t && o.2.1 == r with
  | some o => rowValues fmt n T o.2.2
  | none => List.replicate n fvZero

/-- Row `t` of the combination of R185. -/
def combineRow (n : Nat) (ranks : List Nat) (gate : Nat → Fv) (out : Nat → List Fv) : List Fv :=
  ranks.foldl (fun acc r => List.zipWith (fun a o => rnd32 (fvAdd a (fvMul (gate r) o))) acc (out r)) (List.replicate n fvZero)

/-- Write TOUT of router `r` for the slot and phase of `a` from the kept outputs. -/
def writeCombined (r : Nat) (a : At) (q : RouteRec) (s : State) : State :=
  let c := s.ctx a.x
  let t := c.tOut r
  let d := c.desc t
  let gates := readFlat s a (c.tGate r) 0
  let k := c.nRanks r
  let rows := (upto a.sw.tokens).map fun i =>
    combineRow (dCols d) (q.ranksOf i) (fun j => nth fvZero gates (i * k + j)) (outOf (dFmt d) (dCols d) (operandT s a t) q.outs i)
  let isX := a.st.phase == phX
  let p := storeRows s a t 0 (xExponent a t) rows 0 []
  storeFor a.x a.st p.writes (addCounts a.x isX p.count (beginUse a.x t isX p.T s))

/-- The stored combine batch of expert `e` for a stamp and router. -/
def combineOf (s : State) (x : Nat) (st : Stamp) (r : Nat) (q : RouteRec) (e : Nat) : Option Batch :=
  let c := s.ctx x
  let m := c.expertAt r e
  c.combines.find? fun b => b.hdr.stamp == st && b.hdr.router == r && b.hdr.expert == m.2.1
    && memberOf s (expertKind x) b.sender == some m.1 && b.idxs == (q.keptOf e).map idxWord

/-- Kept rows of a batch with their choices. -/
def batchRows (b : Batch) : List (Nat × Nat × List Byte) :=
  (upto b.idxs.length).map fun i =>
    (bits (nth 0 b.idxs i) 0 20, bits (nth 0 b.idxs i) 20 3, (b.rows.drop (i * b.hdr.rowbytes)).take b.hdr.rowbytes)

/-- Store what the dispatch unit forms in B, the summed input gradient or the gate gradients, in the tensor slot of its role
(R194, log 45). -/
def storeRole (x : Nat) (st : Stamp) (r role : Nat) (rows : List (List Fv)) (s : State) : State :=
  let t := (s.ctx x).moeSlot (r, 0) role
  let p := storeRows s (atOf s x st) t 0 none rows 0 []
  storeFor x st p.writes (addCounts x false p.count (beginUse x t false p.T s))

/-- All E combine batches of a slot are present: phase F writes TOUT (R185), phase B sums the input gradient (R194). -/
def combineWhole (x : Nat) (st : Stamp) (r : Nat) (s : State) : State :=
  match routeOf (slotRec s x st) r with
  | none => s
  | some q =>
    let c := s.ctx x
    let bs := (upto (c.nExperts r)).filterMap (combineOf s x st r q)
    let done := if st.phase = phF then q.combined else q.backDone
    if done || decide (bs.length < c.nExperts r) then s
    else
      let rows := bs.flatMap batchRows
      let s := modCtx x (fun c => { c with combines := c.combines.filter fun b => !bs.contains b }) s
      let s := if st.phase = phF then
          writeCombined r (atOf s x st) { q with outs := rows } (modRoute x st r (fun q => { q with outs := rows, combined := true }) s)
        else
          let d := c.desc (c.tTok r)
          let T := operandT s (atOf s x st) (c.tTok r)
          let sum := fun t => (combineRow (dCols d) (q.ranksOf t) (fun _ => fvInt 1) (outOf (dFmt d) (dCols d) T rows t)).map toFp32
          let dIn := (upto (slotRec s x st).tokens).map sum
          storeRole x st r 5 (dIn.map fun l => l.map ofFp32) (modRoute x st r (fun q => { q with backDone := true, dIn := dIn }) s)
      endPhase x st (startAll x s)

/-! ### Checks (R189) -/

/-- The index words are in range and in the order of R187. -/
def idxOk (tok k : Nat) (idxs : List Nat) : Bool :=
  idxs.all (fun w => decide (bits w 0 20 < tok) && decide (bits w 20 3 < k)) &&
    (List.zip idxs (idxs.drop 1)).all fun p => decide (p.1 % 2 ^ 23 < p.2 % 2 ^ 23)

/-- A batch of the same stamp, router, expert, source and direction; combine batches of two owners may agree in all of these, so
there the sending module counts too (log 48). -/
def sameBatch (srcmod : Nat) (h : BatchHdr) (b : Nat × BatchHdr) : Bool :=
  b.2.stamp == h.stamp && b.2.router == h.router && b.2.expert == h.expert && b.2.src == h.src && b.2.dir == h.dir
    && (h.dir == 0 || b.1 == srcmod)

/-- R189 at context `x`. T is the row count of the tensor TTOK (log 47). -/
def batchBad (s : State) (x srcmod : Nat) (h : BatchHdr) (idxs : List Nat) : Bool :=
  let c := s.ctx x
  let r := h.router
  let tok := dRows (c.desc (c.tTok r))
  let row := slotSpan c (if h.dir = 1 ∧ h.stamp.phase = phF then c.tOut r else c.tTok r)
  let named := (upto (c.nExperts r)).any fun e =>
    let m := c.expertAt r e
    m.2.1 == h.expert && (if h.dir = 0 then m.1 == ownMember s (expertKind x) && m.2.2 == x
      else memberOf s (expertKind x) srcmod == some m.1)
  decide (c.pat.routers.length ≤ r) || decide (c.capacity r tok < h.count) || !idxOk tok (c.nRanks r) idxs
    || h.rowbytes != row || decide (c.nSources r ≤ h.src) || !named || c.batchSeen.any (sameBatch srcmod h)

/-- A batch refused under R189, or discarded by R47. -/
def batchDrop (event status : Nat) (port : Option Nat) (x srcmod arg : Nat) (h : BatchHdr) (s : State) : State :=
  let _ := srcmod
  discardLog event status ⟨some h.stamp, port.getD 0x1F, x, arg⟩ s

/-- Batches in the receive partition of a source for a router and phase (R190, log 146). -/
def partitionOf (s : State) (x : Nat) (h : BatchHdr) : List Batch :=
  (s.ctx x).batches.filter fun b => b.hdr.router == h.router && b.hdr.src == h.src && b.hdr.stamp.phase == h.stamp.phase

/-- A dispatch batch finds its partition full: DEPTH batches wait in it (R190). -/
def partitionFull (s : State) (x : Nat) (h : BatchHdr) : Bool :=
  h.dir == 0 && decide (bits ((s.ctx x).routerWord h.router 1) 20 4 ≤ (partitionOf s x h).length)

/-- Check an arriving batch and hand it to `take` when it is accepted (R47, R189, R207). The checks of R189 come before the table of
R47, but for its row 1, so a foreign or early batch that fails them is discarded, not held (log 171). One whose partition is full
keeps its place in the receive buffer; nothing is dropped for load (R190, R197): it offers its stamp, and is classified again, when
it enters the partition (log 172). SRC of a batch between two contexts of this module is the receiving one (log 130). -/
def batchIn (port : Option Nat) (x srcmod : Nat) (h : BatchHdr) (idxs : List Nat) (rows : List Byte)
    (take : Batch → State → State) (s : State) : State :=
  if (h.stamp.phase != phF && h.stamp.phase != phB && phaseRank h.stamp.phase != 7) || batchBad s x srcmod h idxs then
    batchDrop 0x0A stFormat port x srcmod srcmod h s
  else match verdict s h.stamp with
    | .discard row => batchDrop 0x01 stAbandoned port 0x1F srcmod row h s
    | .hold => { s with heldArr := s.heldArr ++ [(0, .moeBatchArrival port x srcmod h idxs rows)] }
    | .accept =>
      if partitionFull s x h then { s with stalled := s.stalled ++ [(0, .moeBatchArrival port x srcmod h idxs rows)] }
      else
        let s := modCtx x (fun c => { c with batchSeen := c.batchSeen ++ [(srcmod, h)] }) s
        take ⟨srcmod, h, idxs.map (· % 2 ^ 23), rows⟩ (progress x (offerNow h.stamp (port.getD (0x10 + x)) s))

/-- A combine batch at its source. -/
def combineArrives (port : Option Nat) (x srcmod : Nat) (h : BatchHdr) (idxs : List Nat) (rows : List Byte) (s : State) : State :=
  batchIn port x srcmod h idxs rows (fun b s =>
    combineWhole x h.stamp h.router (modCtx x (fun c => { c with combines := c.combines ++ [b] }) s)) s

/-! ### The owner (R188, R190, R192) -/

/-- The 32 bytes of a batch header (R187). -/
def batchHdrBytes (h : BatchHdr) : List Byte :=
  leBytes 32 (packStamp h.stamp + h.router % 2 ^ 16 * 2 ^ 80 + h.expert % 1024 * 2 ^ 96 + h.src % 256 * 2 ^ 112
    + h.dir % 2 * 2 ^ 120 + h.count % 2 ^ 21 * 2 ^ 128 + h.rowbytes % 2 ^ 24 * 2 ^ 160)
def batchHdrOf (l : List Byte) : BatchHdr :=
  let v := leNat (l.take 32)
  ⟨unpackStamp v, bits v 80 16, bits v 96 10, bits v 112 8, bits v 120 1, bits v 128 21, bits v 160 24⟩

/-- A batch as a transfer of TKIND 0x2 (R187, R330). The receiver's window is one no rule names (log 21). -/
def sendBatch (p dst : Nat) (h : BatchHdr) (idxs : List Nat) (rows : List Byte) (s : State) : State :=
  let head := batchHdrBytes h ++ idxs.flatMap (leBytes 4)
  let data := padTo (roundUp head.length 64) head ++ rows
  sendXfer p (4 + h.dir) dst (xferBytes ⟨2, drawn s % 64, 0, 0, data.length, false, false, 0, 0, 0, false⟩ ++ data) .nothing (spend s)

/-- The context of this module that sent a dispatch batch of stamp `st` to expert LOCAL `l` of context `x`. -/
def localSource (s : State) (x : Nat) (st : Stamp) (r l : Nat) : Option Nat :=
  (upto 16).find? fun y =>
    let c := s.ctx y
    c.slots.any (fun w => w.stamp == slotOf st && (routeOf w r).isSome) &&
      (upto (c.nExperts r)).any fun e => c.expertAt r e == (ownMember s (expertKind y), l, x)

/-- Return one combine batch of an expert's run: the rows of its output in F, of its input gradient in B, from row `at_` on
(R186, R187, R194). -/
def returnBatch (x : Nat) (r : ExpertRun) (part : Nat × Nat × List Nat) (at_ : Nat) (s : State) : State :=
  let c := s.ctx x
  let (_, src, idxs) := part
  let fwd := decide (r.stamp.phase = phF)
  let row := slotSpan c (if fwd then c.tOut r.router else c.tTok r.router)
  let h : BatchHdr := ⟨r.stamp, r.router, r.expert, src, 1, idxs.length, row⟩
  let t := c.moeSlot (r.router, r.expert) (if fwd then 1 else 3)
  let a := atOf s x r.stamp
  let rows := (upto idxs.length).flatMap fun i => (padTo row (storedRow s a t (at_ + i))).take row
  match memberAt s (expertKind x) src with
  | none => s
  | some (m, p) =>
    if p ≤ 15 then sendBatch p m h idxs rows s
    else match localSource s x r.stamp r.router r.expert with
      | some y => combineArrives none y m h idxs rows s
      | none => s

/-- Rows an assembled expert input has: a multiple of 32, or full capacity in fixed tempo (R188, R195). -/
def inputRows (c : Ctx) (r n : Nat) : Nat :=
  if c.tempo then c.nSources r * c.capacity r (dRows (c.desc (c.tTok r))) else roundUp n 32

/-- Slots of a step that an expert has consumed in a phase. -/
def consumedOf (c : Ctx) (h : BatchHdr) : Nat :=
  (c.experts.filter fun b => b.router == h.router && b.expert == h.expert && b.stamp.step == h.stamp.step
    && b.stamp.phase == h.stamp.phase).length

/-- All dispatch batches of one expert's slot, in ascending SRC. -/
def batchGroup (c : Ctx) (h : BatchHdr) : List Batch :=
  sortBy (fun b => b.hdr.src) (c.batches.filter fun b => b.hdr.stamp == h.stamp && b.hdr.router == h.router && b.hdr.expert == h.expert)

/-- The entries of an expert's regions that its slot has not bound yet (R192). -/
def unbound (s : State) (x : Nat) (h : BatchHdr) : List Nat :=
  (expertEntries s x (h.router, h.expert)).filter fun r => (boundGen s x h.stamp r).isNone

/-- Assemble the expert input of a slot once every source's batch is there, in slot order, and bind its version; the partitions
release the batches (R188, R190, R192). A context that does not run assembles none (R242). -/
def assemble (x : Nat) (h : BatchHdr) (s : State) : State :=
  let c := s.ctx x
  let g := batchGroup c h
  let t := h.stamp
  let free := if t.phase = phF then unbound s x h else []
  if c.state ≠ .running ∨ g.length < c.nSources h.router ∨ consumedOf c h ≠ t.slot ∨ !canBindAll s x t free then s
  else
    let n := sumNat (g.map (·.hdr.count))
    let rows := inputRows c h.router n
    let run : ExpertRun := ⟨h.router, h.expert, t, g.map fun b => (b.sender, b.hdr.src, b.idxs),
      padTo (rows * h.rowbytes) (g.flatMap (·.rows)), h.rowbytes, rows, false, false⟩
    modCtx x (fun c => { c with batches := c.batches.filter (fun b => !g.contains b), experts := c.experts ++ [run] })
      (bindThese x t free s)

/-! ### The run of an expert (R188, R191 steps 3 to 5) -/

/-- Change the run of an expert. -/
def modRun (x : Nat) (r : ExpertRun) (f : ExpertRun → ExpertRun) (s : State) : State :=
  modCtx x (fun c => { c with experts := c.experts.map fun q => if q = r then f q else q }) s

/-- The rows of a run go to the expert's tensor slot once the slot of work has begun the phase. -/
def placeRun (x : Nat) (r : ExpertRun) (s : State) : State :=
  let c := s.ctx x
  let ready := c.slots.any fun w => w.stamp == slotOf r.stamp && (r.stamp.phase != phB || w.bStarted)
  if r.placed || !ready then s
  else
    let t := c.moeSlot (r.router, r.expert) (if r.stamp.phase = phB then 2 else 0)
    let ws := match tensAt s (atOf s x r.stamp) t 0 false 0 with
      | some q => (upto r.count).flatMap fun i => rowPlaces q i ((r.rows.drop (i * r.rowbytes)).take r.rowbytes)
      | none => []
    storeFor x r.stamp ws (modRun x r (fun q => { q with placed := true }) s)

/-- Every instruction of the phase that writes one of the slots has completed. -/
def writtenFor (c : Ctx) (w : SlotWork) (ph : Nat) (slots : List Nat) : Bool :=
  let l := c.phaseList ph
  (upto l.length).all fun p => !((c.workAt (nth 0 l p)).writes.any slots.contains) || w.done.contains (ph, p)

/-- The combine batches of a run leave, in ascending SRC, once the expert's instructions have formed its rows. -/
def returnRun (x : Nat) (r : ExpertRun) (s : State) : State :=
  let c := s.ctx x
  let w := slotRec s x r.stamp
  let t := c.moeSlot (r.router, r.expert) (if r.stamp.phase = phF then 1 else 3)
  if !r.placed || r.returned || !writtenFor c w r.stamp.phase [t] then s
  else
    let s := modRun x r (fun q => { q with returned := true }) s
    (upto r.parts.length).foldl (fun s i =>
      returnBatch x r (nth (0, 0, []) r.parts i) (sumNat ((r.parts.take i).map (·.2.2.length))) s) s

/-- Runs whose slot has begun their phase take their place, and those that have ended return their rows. -/
def runExperts (x : Nat) (s : State) : State :=
  if (s.ctx x).experts.isEmpty then s
  else
    let s := (s.ctx x).experts.foldl (fun s r => placeRun x r s) s
    startAll x ((s.ctx x).experts.foldl (fun s r => returnRun x r s) s)

/-! ### Receive partitions (R190, R197) -/

/-- A batch enters its partition. -/
def enterPartition (x : Nat) (b : Batch) (s : State) : State := modCtx x (fun c => { c with batches := c.batches ++ [b] }) s

/-- The stalled batch that finds room now: its place in the list. -/
def roomFor (s : State) : Option Nat :=
  findIdxN (fun q => match q.2 with | .moeBatchArrival _ x _ h _ _ => !partitionFull s x h | _ => false) s.stalled 0

/-- A dispatch batch over port `p`, whose header has come, waits for room: its partition is full, or a batch before it waits
(R190, R197, R327). -/
def batchWaits (s : State) (p : Nat) (body : List Byte) : Bool :=
  let b := batchHdrOf (body.drop 32)
  b.dir == 0 && ((s.stalled.any fun q => cameOver p q.2)
    || (upto 16).any fun x => decide (b.router < (s.ctx x).pat.routers.length) && partitionFull s x b)

/-- Take stalled batches that find room, oldest first; the credits of their flits return. `f` bounds how many. -/
def drainStalled : Nat → State → State
  | 0, s => releaseOpen (fun p r => r.vc != 4 || batchWaits s p r.body) s
  | f + 1, s =>
    match roomFor s with
    | none => releaseOpen (fun p r => r.vc != 4 || batchWaits s p r.body) s
    | some i =>
      match s.stalled.drop i with
      | (n, .moeBatchArrival port x m h idxs rows) :: _ =>
        let s := flitsLeave (n, .moeBatchArrival port x m h idxs rows) { s with stalled := s.stalled.eraseIdx i }
        drainStalled f (batchIn port x m h idxs rows (enterPartition x) s)
      | _ => s

/-- Try every expert slot that waits on context `x`; `f` bounds the passes. -/
def pumpExperts : Nat → Nat → State → State
  | 0, x, s => runExperts x s
  | f + 1, x, s =>
    let s := ((s.ctx x).batches.map (·.hdr)).foldl (fun s h => assemble x h s) s
    pumpExperts f x (drainStalled s.stalled.length s)

/-- Passes that context `x` may need. -/
def pumpBound (s : State) (x : Nat) : Nat := (s.ctx x).batches.length + s.stalled.length

/-- Try the expert slots of every context, after a change that may let them bind (R188, R226). -/
def pumpAllExperts (s : State) : State := (upto 16).foldl (fun s x => pumpExperts (pumpBound s x) x s) s

/-- A dispatch batch at its owner. -/
def dispatchArrives (port : Option Nat) (x srcmod : Nat) (h : BatchHdr) (idxs : List Nat) (rows : List Byte) (s : State) : State :=
  batchIn port x srcmod h idxs rows (fun b s =>
    let s := enterPartition x b s
    pumpExperts (pumpBound s x) x s) s

/-- MOE_BATCH_ARRIVAL. -/
def batchArrives (port : Option Nat) (x srcmod : Nat) (h : BatchHdr) (idxs : List Nat) (rows : List Byte) (s : State) : State :=
  if h.dir = 0 then dispatchArrives port x srcmod h idxs rows s else combineArrives port x srcmod h idxs rows s

def execMoeBatchArrival (port : Option Nat) (x srcmod : Nat) (hdr : BatchHdr) (idxs : List Nat) (rows : List Byte) (s : State) :
    Host.Outcome State Fault Refusal := runLive (batchArrives port x srcmod hdr idxs rows) s

/-! ### The dispatch unit (R184, R186, R194) -/

/-- Send the dispatch batch of expert `e`: `row t r` gives a row's bytes. -/
def sendDispatch (x r : Nat) (st : Stamp) (q : RouteRec) (row : Nat → Nat → List Byte) (e : Nat) (s : State) : State :=
  let c := s.ctx x
  let m := c.expertAt r e
  let kept := q.keptOf e
  let h : BatchHdr := ⟨st, r, m.2.1, ownMember s (expertKind x), 0, kept.length, slotSpan c (c.tTok r)⟩
  let rows := kept.flatMap fun k => row k.1 k.2
  match memberAt s (expertKind x) m.1 with
  | none => s
  | some (mod, p) =>
    if p ≤ 15 then sendBatch p mod h (kept.map idxWord) rows s
    else dispatchArrives none m.2.2 mod h (kept.map idxWord) rows s

/-- Phase F: assign, count, and send one batch to each expert in ascending order. -/
def dispatchF (x r : Nat) (st : Stamp) (s : State) : State :=
  let c := s.ctx x
  let a := atOf s x st
  let e := c.nExperts r
  let idx := (readFlat s a (c.tIdx r) 0).map intOf
  let (choices, loads) := assignGo e (c.capacity r a.sw.tokens) (choicesOf (c.nRanks r) a.sw.tokens idx) (List.replicate e 0)
  let q : RouteRec := ⟨r, choices, [], false, false, false, false, [], []⟩
  let outside := (choices.filter fun k => k.2.2.1 == e).length
  let bad := poisonedInts s a (c.tIdx r) 0 (dRows (c.desc (c.tIdx r))) (dCols (c.desc (c.tIdx r))) false
  let s := if bad = 0 then s else addCounts x true ⟨c.tIdx r, 0, 0, bad, 0⟩ s
  let s := addCounts x false ⟨c.tOut r, 0, outside, 0, 0⟩ s
  let s := (upto e).foldl (fun s i =>
    countLoad x r i (nth 0 loads i) (choices.filter fun k => k.2.2.1 == i && !k.2.2.2.1).length s) s
  let s := modSlot x st (fun w => { w with routes := w.routes ++ [q] }) s
  (upto e).foldl (fun s i => sendDispatch x r st q (fun t _ => storedRow s a (c.tTok r) t) i s) s

/-- Phase B: the rows g × dy leave, and the gate gradients are formed (R194): row sums of exact products (R140). -/
def dispatchB (x r : Nat) (st : Stamp) (q : RouteRec) (s : State) : State :=
  let c := s.ctx x
  let a := atOf s x st
  let d := c.desc (c.tTok r)
  let o := c.desc (c.tOut r)
  let dy := readBlock s a (c.moeSlot (r, 0) 4) 0 a.sw.tokens (dCols d)
  let gates := readFlat s a (c.tGate r) 0
  let k := c.nRanks r
  let row := fun t j => rowBytesOf (dFmt d) (dCols d) (operandT s a (c.tTok r))
    ((nth [] dy t).map fun v => fvMul (nth fvZero gates (t * k + j)) v)
  let grad := fun t j => rowSum (List.zipWith fvMul (nth [] dy t) (outOf (dFmt o) (dCols o) (operandT s a (c.tOut r)) q.outs t j))
  let g := q.choices.map fun m => (m.1, m.2.1, if m.2.2.2.1 then grad m.1 m.2.1 else 0)
  let s := modRoute x st r (fun q => { q with sentB := true, dGate := g }) s
  let gradOf := fun t j => match g.find? fun e => e.1 == t && e.2.1 == j with | some e => ofFp32 e.2.2 | none => fvZero
  let s := storeRole x st r 6 ((upto a.sw.tokens).map fun t => (upto k).map (gradOf t)) s
  startAll x ((upto (c.nExperts r)).foldl (fun s i => sendDispatch x r st q row i s) s)

/-- MOE_DISPATCH in phase F or B; in phase X only the combination is formed again from the kept outputs (R194). -/
def dispatch (x r : Nat) (st : Stamp) (s : State) : State :=
  let c := s.ctx x
  let w := slotRec s x st
  let ready := c.state == .running && !preempting s x && c.slots.any (fun v => v.stamp == slotOf st)
    && decide (r < c.pat.routers.length) && writtenFor c w st.phase [c.tIdx r, c.tGate r, c.tTok r]
  if !ready then s
  else match routeOf w r with
    | none => if st.phase = phF ∧ !w.fDone then dispatchF x r st s else s
    | some q =>
      if st.phase = phX ∧ w.xStarted ∧ !w.xDone ∧ !q.xDone then
        let s := writeCombined r (atOf s x st) q (modRoute x st r (fun q => { q with xDone := true }) s)
        endPhase x st (startAll x s)
      else if st.phase = phB ∧ w.bStarted ∧ !w.bDone ∧ !q.sentB ∧ q.combined ∧ writtenFor c w phB [c.moeSlot (r, 0) 4] then dispatchB x r st q s
      else s

def execMoeDispatch (x router : Nat) (st : Stamp) (s : State) : Host.Outcome State Fault Refusal :=
  runLive (dispatch x router st) s

end Sys2Proof.Machine
end

