-- ==== Sys2Proof/Machine/Ring.lean ====
section
/-! DEFINITION. Ring attention (R198 to R207): the checks of a ring block, where its tensors lie, the ascending hop order, and the
blocks that leave for the next member. The partials are formed and merged by the Pattern's instructions (R143, R203); which tensor
slots they work on no rule names (log 49). -/
namespace Sys2Proof.Machine

/-- KIND a block of a phase and hop must have (R201). -/
def ringKind (size ph hop : Nat) : Option Nat :=
  if ph = phB then (if hop < size then some 1 else some 2)
  else if (ph = phF ∨ ph = phX) ∧ hop < size then some 0
  else none

/-- The conditions of R202 at context `x`. -/
def ringBad (s : State) (x : Nat) (h : RingHdr) : Bool :=
  let c := s.ctx x
  let n := seqSize c
  n == 0 || decide (n ≤ h.origin) || h.hop == 0 || decide (n < h.hop)
    || (h.origin + h.hop) % n != ownMember s (seqKind x) || ringKind n h.stamp.phase h.hop != some h.kind
    || h.tokens != seqTokens c
    || c.ringSeen.any fun r => r.stamp == h.stamp && r.layer == h.layer && r.origin == h.origin && r.hop == h.hop

/-- The 32 bytes of a ring header (R202). -/
def ringHdrBytes (h : RingHdr) : List Byte :=
  leBytes 32 (packStamp h.stamp + h.layer % 2 ^ 16 * 2 ^ 80 + h.origin % 256 * 2 ^ 96 + h.hop % 512 * 2 ^ 104
    + h.kind % 8 * 2 ^ 113 + h.tokens % 2 ^ 21 * 2 ^ 128)
def ringHdrOf (l : List Byte) : RingHdr :=
  let v := leNat (l.take 32)
  ⟨unpackStamp v, bits v 80 16, bits v 96 8, bits v 104 9, bits v 113 3, bits v 128 21⟩

/-! ### The tensors of a block (R202) -/

/-- The tensor slots of a block of a KIND that came with a hop: K, V, then dK, dV. -/
def ringTensors (c : Ctx) (layer hop kind : Nat) : List Nat :=
  let l := c.ringSlots layer hop
  if kind = 0 then l.take 2 else if kind = 2 then l.drop 2 else l

/-- The bytes of the block lie in the slots of its hop: each tensor starts on a 64-byte boundary (R202). -/
def placeTensors (x : Nat) (a : At) (data : List Byte) : List Nat → State → State
  | [], s => s
  | t :: ts, s =>
    let n := (slotBytes s a t).length
    let s' := match placeOf s a t with | some p => storeFor x a.st [(p, data.take n)] s | none => s
    placeTensors x a (data.drop n) ts s'

/-! ### Hops (R201, R203, R205) -/

/-- A phase of a slot that has begun on a context. -/
def phaseBegun (w : SlotWork) (ph : Nat) : Bool := ph == phF || (ph == phX && w.xStarted) || (ph == phB && w.bStarted)

/-- The instructions of a phase that work on one of the slots have completed. -/
def workedOn (c : Ctx) (w : SlotWork) (ph : Nat) (slots : List Nat) : Bool :=
  let l := c.phaseList ph
  (upto l.length).all fun p =>
    let i := c.workAt (nth 0 l p)
    isFlagOp (nth 0 c.pat.prog (nth 0 l p)) || !((i.reads ++ i.writes).any slots.contains) || w.done.contains (ph, p)

/-- The block of a hop is in place and merged: its instructions have completed; hop 0 is the member's own (R203). -/
def hopDone (c : Ctx) (w : SlotWork) (st : Stamp) (layer hop : Nat) : Bool :=
  (hop == 0 || c.ringPlaced layer hop st) && workedOn c w st.phase (c.ringSlots layer hop)

/-- The block of a hop may go on: K and V once they are written or have come; in B once this member's contribution is in the
travelling partial (R201, R205). -/
def mayPass (c : Ctx) (w : SlotWork) (st : Stamp) (layer hop : Nat) : Bool :=
  if st.phase = phB then hopDone c w st layer hop
  else if hop = 0 then writtenFor c w st.phase ((c.ringSlots layer 0).take 2)
  else c.ringPlaced layer hop st

/-- Pass the block that came with a hop, or the own one, on to member (i + 1) mod S on VC6 (R201, R202). -/
def passBlock (x : Nat) (st : Stamp) (layer hop : Nat) (s : State) : State :=
  let c := s.ctx x
  let n := seqSize c
  let own := ownMember s (seqKind x)
  match ringKind n st.phase (hop + 1), (members s (seqKind x)).find? fun m => m.1 == (own + 1) % n with
  | some kind, some (_, mod, p) =>
    let h : RingHdr := ⟨st, layer, (own + n - hop % n) % n, hop + 1, kind, seqTokens c⟩
    let a := atOf s x st
    let data := padTo 64 (ringHdrBytes h) ++ (ringTensors c layer hop kind).flatMap (slotBytes s a)
    let s := modCtx x (fun c => { c with ringSent := c.ringSent ++ [(layer, st, hop)] }) s
    if p ≤ 15 then
      sendXfer p 6 mod (xferBytes ⟨3, drawn s % 64, 0, 0, data.length, false, false, 0, 0, 0, false⟩ ++ data) .nothing (spend s)
    else s
  | _, _ => s

/-- One hop of one layer of a phase: a block that waits for its turn takes its place, in ascending hop order, and one that may go on
leaves. -/
def ringHop (x : Nat) (st : Stamp) (layer hop : Nat) (s : State) : State :=
  let c := s.ctx x
  match slotRec? s x st with
  | none => s
  | some w =>
    if !phaseBegun w st.phase then s
    else
      let s := match c.ringHeld.find? fun b => b.hdr.stamp == st && b.hdr.layer == layer && b.hdr.hop == hop with
        | some b =>
          if c.ringPlaced layer hop st || !hopDone c w st layer (hop - 1) then s
          else placeTensors x (atOf s x st) b.data (ringTensors c layer hop b.hdr.kind)
            (modCtx x (fun c => { c with ringMerged := c.ringMerged ++ [(layer, st, b.hdr.origin, hop)] }) s)
        | none => s
      let c := s.ctx x
      if hop < seqSize c && decide (1 < seqSize c) && !c.ringSent.contains (layer, st, hop) && mayPass c w st layer hop then
        passBlock x st layer hop s
      else s

/-- Every hop of every layer of context `x`, for each phase of each slot (R203, R205). -/
def pumpRing (x : Nat) (s : State) : State :=
  let c := s.ctx x
  if c.ringLayers = 0 then s
  else
    let sts := c.slots.flatMap fun w => [phF, phX, phB].map fun ph => { w.stamp with phase := ph }
    startAll x (sts.foldl (fun s st => (upto c.ringLayers).foldl (fun s l =>
      (upto (seqSize c + 1)).foldl (fun s h => ringHop x st l h s) s) s) s)

/-- Whatever waits on context `x` for experts or ring blocks and can go on, goes on. -/
def pumpWork (x : Nat) (s : State) : State := pumpRing x (pumpExperts (pumpBound s x) x s)

/-- RING_BLOCK_ARRIVAL (R202, R203, R207). -/
def ringArrives (p x srcmod : Nat) (h : RingHdr) (data : List Byte) (s : State) : State :=
  if phaseRank h.stamp.phase ≠ 7 ∧ ringBad s x h then discardLog 0x0A stFormat ⟨some h.stamp, p, x, srcmod⟩ s
  else match verdict s h.stamp with
    | .discard row => discardLog 0x01 stAbandoned { stamp := some h.stamp, port := p, arg := row } s
    | .hold => { s with heldArr := s.heldArr ++ [(0, .ringBlockArrival p x srcmod h data)] }
    | .accept =>
      let s := modCtx x (fun c => { c with ringSeen := c.ringSeen ++ [h], ringHeld := c.ringHeld ++ [⟨h, data⟩] }) s
      pumpRing x (progress x (offerNow h.stamp p s))

def execRingBlockArrival (p x srcmod : Nat) (hdr : RingHdr) (data : List Byte) (s : State) : Host.Outcome State Fault Refusal :=
  runLive (ringArrives p x srcmod hdr data) s

end Sys2Proof.Machine
end

