-- ==== Sys2Proof/Machine/Update.lean ====
section
/-! DEFINITION. The parameter update (R385 to R406): update entries, the factored moment update, the passes of the
update site, far compression, the commit of a step, and the actions of the UPD registers. -/
namespace Sys2Proof.Machine

/-! ### Update entries (R385, R386, R406) -/

/-- An update entry as its words give it. -/
structure UEntry where
  idx : Nat
  kind : Nat
  grp : Nat
  ctx : Nat
  bucket : Nat
  off : Nat
  rows : Nat
  cols : Nat
  base : Nat
  slot : Nat
  vregion : Nat
  vfmt : Nat
  sq : Bool
  vtexp : Int
  vbase : Nat
  deriving DecidableEq, Repr

/-- Entry `i` of UPD_SHARD_TBL. -/
def uentry (s : State) (i : Nat) : UEntry :=
  let f := fun w lo n => fld s (oEntry i w) lo n
  ⟨i, f 0 1 2, f 0 3 3, f 0 6 4, f 0 16 16, f 4 0 32, f 8 0 24, f 0xC 0 24, f 0x10 0 28 * 4096, f 0x14 0 28 * 4096,
    f 0x18 0 10, f 0x18 10 4, f 0x18 14 1 == 1, toSigned (f 0x18 16 9) 9, f 0x1C 0 32⟩

/-- The valid entries in ascending index: those that hold statistics. -/
def validEntries (s : State) : List UEntry := s.upd.statRows.map fun e => uentry s e.1

/-- End of the bucket elements an entry covers. -/
def UEntry.stop (e : UEntry) : Nat := e.off + e.rows * e.cols

/-- First and one past the last owned bucket element of an entry (R385). -/
def owned (s : State) (e : UEntry) : Nat × Nat :=
  match loadedIn s e.grp e.bucket with
  | none => (e.off, e.off)
  | some b =>
    let (lo, hi) := ownShard s b
    (max e.off lo, max (max e.off lo) (min e.stop hi))

/-- Rows that the owned elements of an entry touch. -/
def ownedRows (s : State) (e : UEntry) : Nat :=
  let (a, b) := owned s e
  if b ≤ a then 0 else (b - 1 - e.off) / max e.cols 1 - (a - e.off) / max e.cols 1 + 1

/-- Statistics words of an entry in one slot: only a matrix has sums, a vector entry keeps t alone, an embedding entry none
(log 30). -/
def statLayout (e : UEntry) (rows : Nat) : Nat × Nat := if e.kind = 0 then (rows, e.cols) else (0, 0)
/-- Words of update-die SRAM that the valid entries hold in both slots (R394). -/
def statsUsed (s : State) : Nat :=
  sumNat (s.upd.statRows.map fun r =>
    let e := uentry s r.1
    if e.kind = 0 then 2 * (r.2 + e.cols + 2) else 0)

/-- Every shard boundary of the bucket inside the entry falls on a whole unit of elements from OFF. -/
def boundariesOn (s : State) (e : UEntry) (b : Bucket) (unit : Nat) : Bool :=
  let sb := shardSize b.elems (grpSize s e.grp) (segElems s e.grp)
  (upto (grpSize s e.grp)).all fun m =>
    decide (m * sb ≤ e.off) || decide (min e.stop b.elems ≤ m * sb) || (m * sb - e.off) % unit == 0

/-- R386 for an entry that is not valid. -/
def entryOk (s : State) (e : UEntry) : Bool :=
  match loadedIn s e.grp e.bucket with
  | none => false
  | some b =>
    let overlaps := (validEntries s).any fun o => o.idx != e.idx && o.grp == e.grp && o.bucket == e.bucket
      && decide (o.off < e.stop) && decide (e.off < o.stop)
    let unit := max (e.cols * (if e.sq then 32 else 1)) 1
    let region := match s.region? e.vregion with
      | none => false
      | some r => !r.frozen && (!r.sharded || r.owned)
    let words := if e.kind = 0 then 2 * (ownedRows s e + e.cols + 2) else 0
    !overlaps && e.kind != 3 && ((e.kind != 2 && !e.sq) || boundariesOn s e b unit) && region
      && decide (statsUsed s + words ≤ 8388608)

/-- Key of a statistics word. -/
def statKey (i slot w : Nat) : Nat := (i * 2 + slot) * 2 ^ 22 + w
def statDefault (_ : Nat) : Nat := 0
/-- The unit of the update die's SRAM that holds a statistics word (log 133). -/
def statUnit (i slot w : Nat) : Nat × Nat := (agUd, Config.sramUnit agUd [i, slot, w])
/-- A statistics word as it is read: NaN in a poisoned unit (R512). -/
def statGet (s : State) (i slot w : Nat) : Nat :=
  if s.sramPoison.contains (statUnit i slot w) then nan32 else tabGet statDefault s.upd.stats (statKey i slot w)
/-- The words of a statistics slot as elements of the SRAM. -/
def statWords (i slot n : Nat) : List (List Nat) := (upto n).map fun w => [i, slot, w]
def statPut (i slot w v : Nat) (s : State) : State :=
  { s with upd := { s.upd with stats := tabSet statDefault s.upd.stats (statKey i slot w) v } }
/-- Both statistics slots of entry `i` read as zero. -/
def clearStats (i : Nat) (s : State) : State :=
  { s with upd := { s.upd with stats := s.upd.stats.filter fun e => e.1 / 2 ^ 23 != i } }

/-- Zeros are written over both statistics slots of entry `i` with `rows` rows. -/
def zeroStats (i rows : Nat) (s : State) : State :=
  let (nr, nc) := statLayout (uentry s i) rows
  let n := if nr + nc = 0 then 0 else nr + nc + 2
  freshUnits agUd (statWords i 0 n ++ statWords i 1 n) (clearStats i s)

/-- VALID = 1 is written to an entry that is not valid: accepted with cleared statistics, or CFG_ERR (R386). -/
def validateEntry (i : Nat) (s : State) : State :=
  let e := uentry s i
  if entryOk s e then
    let s := zeroStats i (ownedRows s e) (setBit (oEntry i 0) 0 s)
    { s with upd := { s.upd with statRows := tabInsert s.upd.statRows i (ownedRows s e) } }
  else setBit (oEntry i 0) 10 (setFld (oEntry i 0) 0 1 0 s)

/-- VALID = 0 is written to a valid entry: its statistics are freed (R406). -/
def invalidateEntry (i : Nat) (s : State) : State :=
  let s := clearStats i (setFld (oEntry i 0) 0 1 0 s)
  { s with upd := { s.upd with statRows := tabErase s.upd.statRows i } }

/-- A write of word 0 of entry `i`, with the enabled bits `en` (R406). -/
def writeEntry0 (i en v : Nat) (s : State) : State :=
  if fld s (oEntry i 0) 0 1 = 1 then
    if bit en 0 && !bit v 0 then invalidateEntry i s else s
  else
    let s := regPut (oEntry i 0) (writeFields s.locked (oEntry i 0) en v (tabGet resetWord s.regs (oEntry i 0))).toNat s
    if fld s (oEntry i 0) 0 1 = 1 then validateEntry i s else s

def execUpdEntryValidate (i : Nat) (w0 : Word) (s : State) : Host.Outcome State Fault Refusal :=
  runLive (fun s => if i < 1024 then writeEntry0 i 0xFFFFFFFF (w0.toNat / 2 * 2 + 1) s else s) s
def execUpdEntryInvalidate (i : Nat) (s : State) : Host.Outcome State Fault Refusal :=
  runLive (fun s => if i < 1024 then writeEntry0 i 1 0 s else s) s

/-! ### State slots (R394, R395, R383) -/

/-- Where the planes of state slot `k` of an entry lie: master, moment, kind plane, residual. -/
def planes (s : State) (e : UEntry) (k : Nat) : Nat × Nat × Nat × Nat :=
  let (a, b) := owned s e
  let n := b - a
  let p0 := e.base + k * e.slot
  let p1 := p0 + roundUp (4 * n) 4096
  let p2 := p1 + roundUp (2 * n) 4096
  let own := if e.kind = 1 then 4 * n else if e.kind = 2 then 8 * ownedRows s e else 0
  (p0, p1, p2, p2 + roundUp own 4096)

/-- An FP32 word of module memory as a consumer in the module reads it: poison reads as NaN (R512). -/
def memF32 (s : State) (a : Nat) : Nat := if poisoned s a || poisoned s (a + 3) then nan32 else memNat s a 4
/-- A BF16 element widened to FP32. -/
def memBf16 (s : State) (a : Nat) : Nat := if poisoned s a || poisoned s (a + 1) then nan32 else memNat s a 2 * 65536

/-- A residual slot of an entry was written and not cleared since (R383). -/
def residualKept (s : State) (i k : Nat) : Bool := (tabFind s.upd.resWritten (2 * i + k)).isSome

/-- Forget the residual slots that step `n` wrote (R383, STEP_ABANDON). -/
def forgetResiduals (n : Nat) (s : State) : State :=
  { s with upd := { s.upd with resWritten := s.upd.resWritten.filter fun e => e.2 != n } }
/-- Forget the residual slots of the entries whose bucket context `x` owns (R383, PATTERN_LOAD, CONTEXT_RESET). -/
def forgetCtxResiduals (x : Nat) (s : State) : State :=
  let mine := fun i => match loadedIn s (uentry s i).grp (uentry s i).bucket with
    | some b => b.ctx == x
    | none => false
  { s with upd := { s.upd with resWritten := s.upd.resWritten.filter fun e => !mine (e.1 / 2) } }

def execResidualZero (s : State) : Host.Outcome State Fault Refusal :=
  runLive (fun s => { s with upd := { s.upd with resWritten := [] } }) s

/-! ### Arithmetic of the update (R388 to R393) -/

/-- Hyperparameters of a step (R392). -/
structure Hyper where
  b1 : Nat
  b2 : Nat
  eps : Nat
  lam : Nat
  nfHold : Bool
  decayVec : Bool
  eta : Nat
  deriving DecidableEq, Repr

/-- The values latched at the STEP_BEGIN of a step. -/
def hyperOf (r : StepRec) : Hyper :=
  let ctl := nth 0 r.hyper 4
  ⟨nth 0 r.hyper 0, nth 0 r.hyper 1, nth 0 r.hyper 2, nth 0 r.hyper 3, bit ctl 0, bit ctl 1, r.eta⟩

def one32 : Nat := 0x3F800000

/-- pow_int of R388 over the bits of `t` below bit `k`. -/
def powBits (b t : Nat) : Nat → Nat → Nat
  | 0, r => r
  | k + 1, r =>
    let r := f32mul r r
    powBits b t k (if bit t k then f32mul r b else r)
/-- pow_int of R388. -/
def powInt (b t : Nat) : Nat := powBits b t (Nat.log2 t + 1) one32

/-- The step-wide factors o1, o2, c1, c2 of R388 for count `t`. -/
structure Factors where
  o1 : Nat
  o2 : Nat
  c1 : Nat
  c2 : Nat
  deriving DecidableEq, Repr

def factors (h : Hyper) (t : Nat) : Factors :=
  ⟨f32sub one32 h.b1, f32sub one32 h.b2, f32sub one32 (powInt h.b1 t), f32sub one32 (powInt h.b2 t)⟩

/-- v̂ of an element: the old estimate `f` blended with the squared gradient. -/
def blend (h : Hyper) (k : Factors) (f q : Nat) : Nat := f32add (f32mul h.b2 f) (f32mul k.o2 q)

/-- New moment and new master weight of an element, from v̂. -/
def moved (h : Hyper) (k : Factors) (vh w m g : Nat) : Nat × Nat :=
  let m2 := f32add (f32mul h.b1 m) (f32mul k.o1 g)
  let den := f32add (f32sqrt (f32div vh k.c2)) h.eps
  let u := f32div (f32div m2 k.c1) den
  (m2, f32sub w (f32mul h.eta (f32add u (f32mul h.lam w))))

/-- What a pass leaves for one element: master, moment (BF16 code), v̂ when it enters the sums, whether its gradient
counts as non-finite. -/
structure Elem where
  w : Nat
  m : Nat
  vh : Option Nat
  nf : Bool
  deriving DecidableEq, Repr

/-- BF16 code of an FP32 code. -/
def toBf16 (c : Nat) : Nat := (convFloat 3 (ofFp32 c)).code

/-- One element under R388 and R391. -/
def stepElem (h : Hyper) (k : Factors) (f w m g : Nat) : Elem :=
  let nf := !f32finite g
  if nf && h.nfHold then ⟨w, m / 65536, none, true⟩
  else
    let vh := blend h k f (f32mul g g)
    let (m2, w2) := moved h k vh w m g
    ⟨w2, toBf16 m2, some vh, nf⟩

/-- Old estimate of a matrix element: R_i C_j / S, +0 when S is zero. -/
def factored (r c t : Nat) : Nat := if fvIsZero (ofFp32 t) then 0 else f32div (f32mul r c) t

/-! ### Versions written by a pass (R388, R395) -/

/-- Runs of version elements from `v` on, cut at rows of `cols`; `f` bounds the rows. -/
def versionRuns : Nat → Nat → Nat → List Fv → List (Nat × Nat × List Fv)
  | 0, _, _, _ => []
  | _, _, _, [] => []
  | f + 1, cols, v, l =>
    let n := cols - v % cols
    (v / cols, v % cols, l.take n) :: versionRuns f cols (v + n) (l.drop n)

/-- Store the bytes of a conversion. -/
def applyPut (p : Put) (s : State) : State := p.writes.foldl (fun s w => devWrite w.1 w.2 s) s

/-- Write masters into the version at `loc`, from version element `v` on, converted by round_to(VFMT, w). -/
def writeVersion (e : UEntry) (loc v : Nat) (ws : List Nat) (s : State) : State :=
  let cols := max e.cols 1
  let t : Tens := ⟨loc, e.rows, cols, e.vfmt, e.sq, e.vtexp⟩
  let runs := versionRuns (ws.length + 1) cols v (ws.map ofFp32)
  if e.vfmt = 0 ∨ 10 < e.vfmt then s
  else if e.sq && isMx e.vfmt then
    let bands := chunks 32 (runs.length / 32 + 1) (runs.map fun r => r.2.2)
    applyPut (Put.all ((upto bands.length).map fun b => t.bandPut (v / cols + 32 * b) (nth [] bands b))) s
  else applyPut (Put.all (runs.map fun r => t.runPut r.1 r.2.1 r.2.2)) s

/-- Where the pass of a region writes: its PENDING or LANDING slot. -/
def writeSlot (s : State) (r : Nat) : Option Nat :=
  ((s.region r).slots.find? fun v => v.state == .pending || v.state == .landing).map (·.loc)

/-- Store the new version elements of an entry, first owned element `a`. -/
def storeVersion (e : UEntry) (a : Nat) (ws : List Nat) (s : State) : State :=
  match writeSlot s e.vregion with
  | some loc => writeVersion e loc (a - e.vbase) ws s
  | none => s

/-! ### Passes over entries (R388, R390, R393) -/

/-- Stored words of `n` values of `w` bytes. -/
def wordBytes (w : Nat) (l : List Nat) : List Byte := l.flatMap (leBytes w)

/-- Count and log the non-finite gradients of an entry (R391): owned element indices `ks`. -/
def noteGradNf (e : UEntry) (n : Nat) (hold : Bool) (site : Nat) (ks : List Nat) (s : State) : State :=
  match ks with
  | [] => s
  | k :: _ =>
    let s := if hold then bump (oUpd 0x018) 0 32 ks.length s else s
    if s.upd.nfStep = some n then s
    else
      let was := fld s (oUpd 0x010) 3 1
      let s := setBit (oUpd 0x010) 3 { s with upd := { s.upd with nfStep := some n } }
      let ag := if site = 0 then agUd else (s.ctx e.ctx).die
      let s := logEv 0x18 stNonfinite ag { stamp := some (reduceStamp s n), arg := e.idx % 1024 + k % 2 ^ 32 * 2 ^ 32 } s
      raiseIf (was == 0 && fld s (oUpd 0x000) 2 1 == 1) 1 s

/-- Owned element indices whose gradient counted. -/
def nfIndices (es : List Elem) : List Nat := (upto es.length).filter fun i => (nth ⟨0, 0, none, false⟩ es i).nf

/-- Exact sums of v̂ by row or by column: `at_` names the sum of element `i`. -/
def exactSums (es : List Elem) (at_ : Nat → Nat) (n : Nat) : List Nat :=
  let sums := (upto es.length).foldl (fun acc i =>
    match (nth ⟨0, 0, none, false⟩ es i).vh with
    | some v => modNth (fun r => r.add (widen v)) acc (at_ i)
    | none => acc) (List.replicate n RVal.zero)
  sums.map RVal.finish

/-- A pass over an entry of KIND 0x0 or 0x1. -/
def passDense (e : UEntry) (n site : Nat) (h : Hyper) (s : State) : State :=
  let (a, b) := owned s e
  let cnt := b - a
  let k0 := (n + 1) % 2
  let k1 := n % 2
  let rows := ownedRows s e
  let (nr, nc) := statLayout e rows
  let t := statGet s e.idx k0 (nr + nc + 1) + 1
  let h := if e.kind = 1 && !h.decayVec then { h with lam := 0 } else h
  let k := factors h t
  let cols := max e.cols 1
  let row := fun i => (a + i - e.off) / cols - (a - e.off) / cols
  let col := fun i => (a + i - e.off) % cols
  let (o0, o1, o2, _) := planes s e k0
  let (p0, p1, p2, _) := planes s e k1
  let tot := statGet s e.idx k0 (nr + nc)
  let grad := fun i => match loadedIn s e.grp e.bucket with
    | some bk => memF32 s (landAddr s bk n (a + i))
    | none => 0
  let one := fun i =>
    let f := if e.kind = 1 then memF32 s (o2 + 4 * i)
      else factored (statGet s e.idx k0 (row i)) (statGet s e.idx k0 (nr + col i)) tot
    stepElem h k f (memF32 s (o0 + 4 * i)) (memBf16 s (o1 + 2 * i)) (grad i)
  let es := (upto cnt).map one
  let s1 := devWrite p0 (wordBytes 4 (es.map (·.w))) s
  let s1 := devWrite p1 (wordBytes 2 (es.map (·.m))) s1
  let s1 := if e.kind = 1 then
      let vs := (upto cnt).map fun i => match (nth ⟨0, 0, none, false⟩ es i).vh with
        | some v => v
        | none => memF32 s (o2 + 4 * i)
      devWrite p2 (wordBytes 4 vs) s1
    else s1
  let words := exactSums es row nr ++ exactSums es col nc ++ exactSums es (fun _ => 0) 1 ++ [t % 2 ^ 32]
  let s1 := freshUnits agUd (statWords e.idx k1 words.length)
    ((upto words.length).foldl (fun s w => statPut e.idx k1 w (nth 0 words w) s) s1)
  noteGradNf e n h.nfHold site (nfIndices es) (storeVersion e a (es.map (·.w)) s1)

/-- What a pass leaves for one embedding row: its elements, v_row and τ (R393). -/
def passRow (h : Hyper) (ws ms gs : List Nat) (v tau : Nat) : List Elem × Nat × Nat :=
  let keep := fun nf : Bool => (upto ws.length).map fun i =>
    Elem.mk (nth 0 ws i) (nth 0 ms i / 65536) none (nf && !f32finite (nth 0 gs i))
  let bad := gs.any fun g => !f32finite g
  let touched := bad || gs.any fun g => !fvIsZero (ofFp32 g)
  if !touched then (keep false, v, tau)
  else if bad && h.nfHold then (keep true, v, tau)
  else
    let t := tau + 1
    let k := factors h t
    let sum := (gs.foldl (fun acc g => RVal.add acc (widen (f32mul g g))) RVal.zero).finish
    let vr := blend h k v (f32div sum (toFp32 (fvInt gs.length)))
    let es := (upto ws.length).map fun i =>
      let g := nth 0 gs i
      let (m2, w2) := moved h k vr (nth 0 ws i) (nth 0 ms i) g
      Elem.mk w2 (toBf16 m2) none (!f32finite g)
    (es, vr, t % 2 ^ 32)

/-- A pass over an embedding entry, KIND 0x2 (R393). -/
def passEmbedding (e : UEntry) (n site : Nat) (h : Hyper) (s : State) : State :=
  let (a, _) := owned s e
  let rows := ownedRows s e
  let (o0, o1, o2, _) := planes s e ((n + 1) % 2)
  let (p0, p1, p2, _) := planes s e (n % 2)
  let grad := fun i => match loadedIn s e.grp e.bucket with
    | some bk => memF32 s (landAddr s bk n (a + i))
    | none => 0
  let one := fun r =>
    let idx := (upto e.cols).map fun j => r * e.cols + j
    let v := memF32 s (o2 + 8 * r)
    let tau := memNat s (o2 + 8 * r + 4) 4
    passRow h (idx.map fun i => memF32 s (o0 + 4 * i)) (idx.map fun i => memBf16 s (o1 + 2 * i)) (idx.map grad) v tau
  let out := (upto rows).map one
  let es := out.flatMap (·.1)
  let s1 := devWrite p0 (wordBytes 4 (es.map (·.w))) s
  let s1 := devWrite p1 (wordBytes 2 (es.map (·.m))) s1
  let s1 := devWrite p2 (out.flatMap fun r => leBytes 4 r.2.1 ++ leBytes 4 r.2.2) s1
  noteGradNf e n h.nfHold site (nfIndices es) (storeVersion e a (es.map (·.w)) s1)

/-- A pass over one entry; one whose bucket is no longer loaded has no owned element. -/
def passEntry (n site : Nat) (h : Hyper) (s : State) (e : UEntry) : State :=
  if (loadedIn s e.grp e.bucket).isNone then s
  else if e.kind = 2 then passEmbedding e n site h s
  else passDense e n site h s

/-! ### Running the update (R397, R398, R404) -/

/-- R56: the step of the window c + 1 to c + 2 whose low 32 bits are `v`, else c with its low bits replaced. -/
def resolve32 (s : State) (v : Nat) : Nat :=
  if (s.c + 1) % 2 ^ 32 = v then s.c + 1
  else if (s.c + 2) % 2 ^ 32 = v then s.c + 2
  else s.c / 2 ^ 32 * 2 ^ 32 + v

/-- Every group that a valid entry names has landed step `n` (R397 step 1). -/
def shardsLanded (s : State) (n : Nat) : Bool := (validEntries s).all fun e => groupLanded s e.grp n
/-- The gate lets the update of step `n` start (R404). -/
def gateOpen (s : State) (n : Nat) : Bool :=
  fld s (oUpd 0x000) 0 1 == 0 || decide (n ≤ resolve32 s (fld s (oUpd 0x060) 0 32))
/-- A SNAPSHOT pins state slot `k` of entry `i`, which it names (R405). -/
def entryPinned (s : State) (k i : Nat) : Bool :=
  s.upd.snaps.any fun p => p.slot == some k && decide (p.o.entry ≤ i) && decide (i < p.o.entry + p.o.nent)
/-- The pass of step `n` would write a pinned slot (R405). -/
def passPinned (s : State) (n : Nat) : Bool := (validEntries s).any fun e => entryPinned s (n % 2) e.idx
/-- Step c + 1 is held and its update has neither become ready nor failed, nor lost its landing (R377): a pass of it runs or
waits. -/
def updatePending (s : State) : Bool :=
  let n := s.c + 1
  (s.stepRec n).isSome && !(s.upd.ready && s.upd.readyStep == n) && s.upd.failed != some n
    && !((validEntries s).any fun e => groupClosed s e.grp n)
/-- UPD_STEP_STAT.BUSY. -/
def updBusy (s : State) : Bool := s.upd.pass.isSome || updatePending s
/-- A pass waits at step 2 of R397. -/
def passWaits (s : State) : Bool := s.upd.pass.isNone && updatePending s && shardsLanded s (s.c + 1)

/-- Regions that the pass writes, each once. -/
def writtenRegions (s : State) : List Nat :=
  (validEntries s).foldl (fun acc e => if acc.contains e.vregion then acc else acc ++ [e.vregion]) []

/-- The update datapath fails for step `n` (R398). -/
def datapathFault (n : Nat) (s : State) : State :=
  let auto := fld s (oUpd 0x004) 1 1 == 1
  let s := { s with upd := { s.upd with udFault := true } }
  let s := raise 1 (logEv 0x19 (if auto then stOk else stAbandoned) agUd { stamp := some (reduceStamp s n) } s)
  if auto then { s with upd := { s.upd with pass := some ⟨n, 1⟩, active := 1 } }
  else setBit (oUpd 0x010) 6 { s with upd := { s.upd with pass := none, failed := some n } }

/-- The pass of step `n` starts: the regions it writes turn PENDING or LANDING, ROLLBACK_OK clears. SRC of its stamp is 0x20
at either site (log 130). -/
def startPass (n : Nat) (s : State) : State :=
  let site := fld s (oUpd 0x004) 0 1
  let s := (writtenRegions s).foldl (fun s r => startPend r s) s
  let s := { s with upd := { s.upd with pass := some ⟨n, site⟩, active := site, rollbackOk := false } }
  let s := offerNow ⟨s.str.epoch, n, 0xFFFF, phUpdate⟩ 0x20 s
  if site = 0 && s.upd.udFault then datapathFault n s else s

/-- UPDATE_PASS_START: the conditions of R397 step 2, all at once; a missing version slot is reported (R235). -/
def passStart (s : State) : State :=
  let n := s.c + 1
  if !passWaits s || !gateOpen s n || passPinned s n || s.hif.quiesced || s.hif.quiescing || s.glb.dieFail then s
  else
    let full := (writtenRegions s).filter fun r => !canPend s r
    let none_ := full.filter fun r => (s.region r).overlap || (s.region r).owned && (s.region r).dm1 != 0
    if full.isEmpty then startPass n s else none_.foldl (fun s r => exhausted r s) s

def execUpdatePassStart (s : State) : Host.Outcome State Fault Refusal := runLive passStart s

/-- UPDATE_DATAPATH_FAULT: it ends a pass on the update die; outside one it fails the next. -/
def udFaults (s : State) : State :=
  match s.upd.pass with
  | some p => if p.site = 0 then datapathFault p.step s else { s with upd := { s.upd with udFault := true } }
  | none => { s with upd := { s.upd with udFault := true } }

/-! ### Commit (R399, R400) -/

/-- What a context keeps of steps up to `n` beyond their commit: nothing (R42). -/
def forgetCtxStep (n : Nat) (c : Ctx) : Ctx :=
  { c with injected := c.injected.filter (fun e => decide (n < e.1)), phaseCount := c.phaseCount.filter (fun e => decide (n < e.1)),
           windowsDone := c.windowsDone.filter (fun e => decide (n < e.1)),
           experts := c.experts.filter (fun b => decide (n < b.stamp.step)),
           batchSeen := c.batchSeen.filter (fun b => decide (n < b.2.stamp.step)),
           ringHeld := c.ringHeld.filter (fun b => decide (n < b.hdr.stamp.step)),
           ringSeen := c.ringSeen.filter (fun b => decide (n < b.stamp.step)),
           ringMerged := c.ringMerged.filter (fun b => decide (n < b.2.1.step)),
           ringSent := c.ringSent.filter (fun b => decide (n < b.2.1.step)),
           slots := c.slots.filter fun w => decide (n < w.stamp.step) || !w.bDone }

/-- The commit stamp of step `n`. -/
def commitStamp (s : State) (n : Nat) : Stamp := ⟨s.str.epoch, n, 0xFFFF, phCommit⟩

/-- UPD_COMMITTED_STEP becomes `n`: the PENDING versions turn LIVE and the step can be rolled back once. The commit offers its
stamp (R43, R51, log 130). -/
def commitStep (n : Nat) (s : State) : State :=
  let s := if s.str.valid then offerNow (commitStamp s n) 0x20 s else s
  let upd := { s.upd with committed := n, ready := false, rollbackOk := true }
  let str := { s.str with steps := s.str.steps.filter fun r => decide (n < r.step) }
  forgetStep n (commitVersions n { s with upd := upd, str := str, ctxs := s.ctxs.map (forgetCtxStep n) })

/-- Complete every STEP_COMMIT of `n` that waited. -/
def finishCommits (n : Nat) (s : State) : State :=
  match s.upd.commits.filter fun w => w.2 == n with
  | [] => s
  | ws => ws.foldl (fun s w => completeWith w.1 stOk (low64 (commitStamp s n)) s)
      (commitStep n { s with upd := { s.upd with commits := s.upd.commits.filter fun w => w.2 != n } })

/-- At the vector site the pass has work on compute die `d`: the die of the CTX of an entry it updates (R398, R406). -/
def passOn (s : State) (d : Nat) : Bool :=
  (validEntries s).any fun e => (loadedIn s e.grp e.bucket).isSome && (s.ctx e.ctx).die == d

/-- A running context of die `d` has X or B work: a phase in progress, or an eligible slot (R221). -/
def backWork (s : State) (d : Nat) : Bool :=
  (upto 16).any fun x => (s.ctx x).state == .running && (s.ctx x).die == d && ((bCandidate s x).isSome ||
    (s.ctx x).slots.any fun w => (w.xStarted && !w.xDone) || (w.bStarted && !w.bDone))

/-- A pass at the vector site does not end yet: a die of it is inside a tempo block (R507), or has X or B work, which comes first
(R398, R221, log 144). -/
def passHeld (s : State) (p : Pass) : Bool :=
  p.site == 1 && (upto 4).any fun d => passOn s d && (inTempoBlock s d || backWork s d)

/-- UPDATE_PASS_COMPLETE: the pass writes its slots and versions, READY rises (R397 step 4). It cannot end with a die missing
(R20). -/
def passComplete (s : State) : State :=
  match s.upd.pass with
  | none => s
  | some p =>
    match s.stepRec p.step with
    | none => s
    | some r =>
      if passHeld s p || s.glb.dieFail then s
      else
      let s := (validEntries s).foldl (passEntry p.step p.site (hyperOf r)) s
      let s := { s with upd := { s.upd with pass := none, ready := true, readyStep := p.step } }
      finishCommits p.step (raiseIf (fld s (oUpd 0x000) 1 1 == 1) 3 s)

/-- STEP_COMMIT (R399). -/
def stepCommit (h : HostHdr) (n : Nat) (s : State) : State :=
  if s.c = n then completeWith h stOk (low64 (commitStamp s n)) s
  else if n != s.c + 1 then complete h stFormat s
  else if s.upd.ready && s.upd.readyStep == n then
    completeWith h stOk (low64 (commitStamp s n)) (commitStep n s)
  else if updBusy s then { s with upd := { s.upd with commits := s.upd.commits ++ [(h, n)] } }
  else complete h stFormat s

/-- RESTORE_COMPLETE of entry `r`: its RESTORING version is rewritten from the master slot of the committed step and
returns to LIVE (R230, R401). A gathered copy is gathered again instead (R237). -/
def restoreComplete (r : Nat) (s : State) : State :=
  match (s.region r).slots.find? fun v => v.state == .restoring && !((s.region r).sharded && !(s.region r).owned) with
  | none => s
  | some v =>
    let mine := (validEntries s).filter fun e => e.vregion == r
    let s := mine.foldl (fun s e =>
      let (a, b) := owned s e
      let (p0, _, _, _) := planes s e (s.c % 2)
      writeVersion e v.loc (a - e.vbase) ((upto (b - a)).map fun i => memF32 s (p0 + 4 * i)) s) s
    restoreDone r s

/-! ### Register actions (R403, R406) -/

/-- Every context of the module is empty. -/
def allEmpty (s : State) : Bool := s.ctxs.all fun c => c.state == .empty

/-- A driver write of UPD_COMMITTED_STEP (R403). -/
def writeCommitted (n : Nat) (s : State) : State :=
  if !allEmpty s then s
  else
    let s := { s with upd := { s.upd with committed := n % 2 ^ 40, ready := false, rollbackOk := false, pass := none, nfStep := none } }
    s.upd.statRows.foldl (fun s e => zeroStats e.1 e.2 s) s

def execCommittedStepWrite (step : Nat) (s : State) : Host.Outcome State Fault Refusal := runLive (writeCommitted step) s

/-- The statistics word that UPD_STATS_SEL names, when the entry holds it. -/
def selectedStat (s : State) : Option (Nat × Nat × Nat) :=
  let i := fld s (oUpd 0x070) 0 10
  let w := fld s (oUpd 0x070) 11 21
  match tabFind s.upd.statRows i with
  | none => none
  | some rows =>
    let (nr, nc) := statLayout (uentry s i) rows
    if (uentry s i).kind ≠ 2 ∧ w < nr + nc + 2 then some (i, fld s (oUpd 0x070) 10 1, w) else none

/-- WORD advances after an access. -/
def nextStatWord (s : State) : State := setFld (oUpd 0x070) 11 21 (fld s (oUpd 0x070) 11 21 + 1) s

/-- The word a read of UPD_STATS_DATA gives; a word the entry does not hold reads 0. -/
def statsRead (s : State) : Nat :=
  match selectedStat s with
  | some (i, k, w) => statGet s i k w
  | none => 0

/-- A write of UPD_STATS_DATA: it has effect only while BUSY = 0. -/
def statsWrite (v : Nat) (s : State) : State :=
  match selectedStat s with
  | some (i, k, w) => if updBusy s then s else statPut i k w (v % 2 ^ 32) s
  | none => s

def execUpdStatsDataAccess (write : Option Word) (s : State) : Host.Outcome State Fault Refusal :=
  runLive (fun s => match write with
    | some v => nextStatWord (statsWrite v.toNat s)
    | none => nextStatWord (emit (.regData (oUpd 0x074) [BitVec.ofNat 32 (statsRead s)]) s)) s

/-! ### Far compression (R380 to R383) -/

/-- The entry that covers bucket element `k` of the pod group. -/
def entryFor (s : State) (bk : Bucket) (k : Nat) : Option UEntry :=
  (validEntries s).find? fun e => e.grp == bk.grp && e.bucket == bk.id && decide (e.off ≤ k) && decide (k < e.stop)

/-- Address of the residual of bucket element `k` in slot `slot` of its entry. -/
def residualAddr (s : State) (e : UEntry) (slot k : Nat) : Nat :=
  let (_, _, _, p) := planes s e slot
  p + 4 * (k - (owned s e).1)

/-- The residual that step `n` reads for bucket element `k`. -/
def residualOf (s : State) (bk : Bucket) (n k : Nat) : Nat :=
  match entryFor s bk k with
  | some e => if residualKept s e.idx ((n + 1) % 2) then memF32 s (residualAddr s e ((n + 1) % 2) k) else 0
  | none => 0

/-- Magnitude code of an FP32 code. -/
def magOf (c : Nat) : Nat := c % 2 ^ 31

/-- Indices that top-k keeps (R381). -/
def topkKept (vs : List Nat) (d : Nat) : List Nat :=
  let idx := upto vs.length
  let bad := idx.filter fun i => !f32finite (nth 0 vs i)
  let fin := sortBy (fun i => 2 ^ 31 - magOf (nth 0 vs i)) (idx.filter fun i => f32finite (nth 0 vs i))
  bad ++ fin.take (cdiv vs.length d - bad.length)

/-- One sign block: scale and the residuals (R381). `us` are the exact inputs. -/
def signBlock (us : List Fv) : Nat × List Nat :=
  let vs := us.map toFp32
  if vs.any fun v => !f32finite v then (nan32, us.map fun _ => 0)
  else
    let sum := fvSum (vs.map fun v => ofFp32 (magOf v))
    let sc := toFp32 (fvDiv sum (fvInt us.length))
    (sc, us.map fun u =>
      let v := toFp32 u
      let c := if bit v 31 then sc + 2 ^ 31 else sc
      toFp32 (fvSub u (ofFp32 c)))

/-- What far_compress gives: the records to send, their COUNT, each element's own contribution, the new residuals. -/
structure Compressed where
  recs : List Byte
  count : Nat
  own : List RVal
  res : List Nat
  deriving DecidableEq, Repr

/-- far_compress of R381 on one segment that starts at bucket element `first`. -/
def farCompress (topk : Bool) (d first : Nat) (us : List Fv) : Compressed :=
  let vs := us.map toFp32
  if topk then
    let kept := topkKept vs d
    let asc := (upto vs.length).filter fun i => kept.contains i
    let res := (upto vs.length).map fun i =>
      let v := nth 0 vs i
      if !kept.contains i then v
      else if f32finite v then toFp32 (fvSub (nth fvZero us i) (ofFp32 v))
      else 0
    ⟨asc.flatMap fun i => leBytes 4 (first + i) ++ leBytes 4 (nth 0 vs i), asc.length,
      (upto vs.length).map fun i => widen (if kept.contains i then nth 0 vs i else 0), res⟩
  else
    let blocks := chunks 32 (us.length / 32 + 1) us
    let outs := blocks.map signBlock
    let signs := blocks.map fun b => packCodes 1 (b.map fun u => b2n (bit (toFp32 u) 31))
    let own := (upto vs.length).map fun i =>
      let sc := (nth (0, []) outs (i / 32)).1
      widen (if bit (nth 0 vs i) 31 then sc % 2 ^ 31 + 2 ^ 31 else sc)
    ⟨(upto blocks.length).flatMap fun b => leBytes 4 (nth (0, []) outs b).1 ++ leBytes 4 (nth 0 signs b), blocks.length,
      own, outs.flatMap (·.2)⟩

/-- Store the residuals of a segment in slot n mod 2 (R383). -/
def storeResiduals (bk : Bucket) (n first : Nat) (res : List Nat) (s : State) : State :=
  (upto res.length).foldl (fun s i =>
    match entryFor s bk (first + i) with
    | none => s
    | some e =>
      let s := devWrite (residualAddr s e (n % 2) (first + i)) (leBytes 4 (nth 0 res i)) s
      { s with upd := { s.upd with resWritten := tabInsert s.upd.resWritten (2 * e.idx + n % 2) n } }) s

/-- Send the compressed segment to every other member of the far group. -/
def sendFar (bk : Bucket) (n first : Nat) (topk : Bool) (c : Compressed) (s : State) : State :=
  let g := farGroup s
  let me := grpMember s g
  ((upto (grpSize s g)).filter (· != me)).foldl (fun s o =>
    let h : PartialHdr := ⟨reduceStamp s n, bk.id, g, bk.prec, if topk then 2 else 3, me, o, 1, first, c.count, bk.elems, false⟩
    sendPartial (routeOut s g o) ((memberMod s g (routeNext s g o)).getD 0) h c.recs s) s

/-- Entries whose residual slot the far compression of a segment would write. -/
def farEntries (s : State) (bk : Bucket) (first cnt : Nat) : List UEntry :=
  (validEntries s).filter fun e => e.grp == bk.grp && e.bucket == bk.id && decide (e.off < first + cnt) && decide (first < e.stop)

/-- A residual slot that step `n` would write for a segment is pinned (R405). -/
def farPinned (s : State) (bk : Bucket) (n first : Nat) : Bool :=
  (farEntries s bk first (segCount bk.elems (segElems s bk.grp) first)).any fun e => entryPinned s (n % 2) e.idx

/-- UPD_STEP_STAT.SNAP_WAIT: a pass, or a far compression, waits on a pinned slot (R405). -/
def snapWait (s : State) : Bool :=
  (passWaits s && passPinned s (s.c + 1)) || s.red.segs.any fun q => q.landed && q.step == s.c + 1 && farOn s && q.grp == podGroup s
    && match bucketOf s (farGroup s) q.bucket with
      | some bk => farPinned s bk q.step q.first && (match segAt s (farGroup s) q.bucket q.step q.first with
        | some f => !f.localIn
        | none => true)
      | none => false

/-- FAR_COMPRESS of the segment of bucket `b` that starts at `first`, for step `n`: its pod sum has landed and it has
not been compressed yet. It writes state of the update of step c + 1, so that of step c + 2 waits for the commit, and one
of a pinned slot for the snapshot; its first write clears ROLLBACK_OK (R383, R400, R405, log 160). -/
def farStep (b first n : Nat) (s : State) : State :=
  let g := farGroup s
  match bucketOf s g b with
  | none => s
  | some bk =>
    if !isFar s g || groupClosed s g n || n != s.c + 1 || farPinned s bk n first || s.glb.dieFail then s
    else match segAt s bk.grp b n first with
      | none => s
      | some pod =>
        let cnt := segCount bk.elems (segElems s bk.grp) first
        let s := openSeg g b n first cnt s
        match segAt s g b n first with
        | none => s
        | some q =>
          if !pod.landed || q.localIn then s
          else
            let topk := fld s (oRed 0x420) 7 1 == 0
            let us := (upto cnt).map fun i =>
              fvAdd (ofFp32 (memF32 s (landAddr s bk n (first + i)))) (ofFp32 (residualOf s bk n (first + i)))
            let c := farCompress topk (farD s) first us
            let s := if (farEntries s bk first cnt).isEmpty then s else { s with upd := { s.upd with rollbackOk := false } }
            let s := sendFar bk n first topk c (storeResiduals bk n first c.res s)
            addInput g bk n first 0 c.own (fun q => { q with locals_ := cnt, localIn := true, ncontrib := q.ncontrib + 1 }) s

end Sys2Proof.Machine
end

