-- ==== Sys2Proof/Machine/Phases.lean ====
section
/-! DEFINITION. The start of phases (R157, R161, R175 to R177, R209 to R211, R219 to R223), offload and fetch-back, the
array checks (R98) and fixed-tempo origins (R269, R271). -/
namespace Sys2Proof.Machine

/-! ### Slots a FIRST context injects (R42, R211) -/

/-- Slots injected of a step. -/
def injectedOf (c : Ctx) (n : Nat) : Nat := match c.injected.find? (fun e => e.1 == n) with | some e => e.2 | none => 0

/-- The lowest accepted step of the window with fewer than its M slots injected. -/
def stepToInject (s : State) (x : Nat) : Option Nat :=
  [s.c + 1, s.c + 2].find? fun n => decide (injectedOf (s.ctx x) n < stepM s n)

/-- Raise the slot counter of a step. -/
def countInjected (x n : Nat) (s : State) : State :=
  modCtx x (fun c => { c with injected := (c.injected.filter fun e => e.1 != n) ++ [(n, injectedOf c n + 1)] }) s

/-- The entry that F of context `x` would pop and the stamp it would get. -/
def fCandidate (s : State) (x : Nat) : Option (QEntry × Stamp) :=
  let c := s.ctx x
  match popChoice c 0 with
  | none => none
  | some e =>
    if c.first then (stepToInject s x).map fun n => (e, ⟨s.str.epoch, n, injectedOf c n, phF⟩)
    else some (e, slotOf e.desc.stamp)

/-! ### Windows whose W is due (R157, R222) -/

/-- Complete windows of the accepted steps whose phase W has not completed. -/
def dueWindows (s : State) (x : Nat) : List (Nat × Nat) :=
  let c := s.ctx x
  if !c.hasW then [] else s.str.steps.flatMap fun r =>
    ((upto (windowCount r.m c.window)).map fun w => (r.step, w)).filter fun w =>
      windowWhole s c w.1 w.2 && !c.windowsDone.contains w

/-! ### X and B (R175, R220, R221) -/

/-- Phase X of a slot can start (R157 step 3, R176). -/
def xReady (c : Ctx) (w : SlotWork) : Bool :=
  c.needsX && w.fDone && !w.xStarted && (gradEntry c w.stamp).isSome && (w.input == .back || w.input == .fast && !c.offloads)

/-- Does a list of instructions use an engine? -/
def usesEngine (c : Ctx) (l : List Nat) (e : Nat) : Bool :=
  l.any fun i => match c.workAt i with | .tile _ w => w.eng == e | .vec _ _ => false

/-- Does the phase of a list run on the forward engine? One without a tile instruction counts as on the backward one. -/
def onForward (c : Ctx) (l : List Nat) : Bool := usesEngine c l 0

/-- Contexts of the interleave group of `x` (R210): they share the engines of one die. -/
def groupMates (s : State) (x : Nat) : List Nat :=
  let c := s.ctx x
  if c.sched ≠ 2 then [x] else (upto 16).filter fun y =>
    let d := s.ctx y
    d.state == .running && d.die == c.die && d.sched == 2 && d.group == c.group

/-! ### F (R161, R220 to R223, R226) -/

/-- Tokens of the slots of a window on a context. -/
def windowTokensNow (c : Ctx) (st : Stamp) : Nat :=
  sumNat ((c.slots.filter fun w => w.stamp.step == st.step && windowOf c.window w.stamp.slot == windowOf c.window st.slot).map
    (·.tokens))

/-- The tile instructions of phase W. -/
def Ctx.tilesW (c : Ctx) : List TileWords :=
  (c.listOf phW).filterMap fun p => match c.workAt p with | .tile _ w => some w | .vec _ _ => Option.none

/-- Largest token capacity that the window-view TMM_W of a context leave to a window (R161); one on an expert's region takes
assembled rows, not tokens (R193). -/
def windowTokens (s : State) (x : Nat) : Option Nat :=
  let c := s.ctx x
  let ks := (c.tilesW.filter fun w => !w.hold && !w.cont && !isExpertRegion s x (dRegion (c.desc w.tc))).map tileK
  match ks with
  | [] => none
  | k :: t => some (t.foldl min k)


/-- Most rows of the pair of a stored-pair descriptor for a slot of `tok` tokens: the tokens, or G × C rows of an expert (R158,
R193). -/
def pairTokens (s : State) (x d tok : Nat) : Nat :=
  let c := s.ctx x
  match (localExperts s x).find? fun e => (c.expertRegions e).contains (dRegion d) with
  | some e => c.nSources e.1 * c.capacity e.1 tok
  | none => tok

/-- Bytes that the pairs of one slot of `tok` tokens take at most (R158, R223). -/
def pairBytes (s : State) (x tok : Nat) : Nat :=
  let c := s.ctx x
  sumNat ((c.tilesW.flatMap fun w => [w.ta, w.tb]).eraseDups.map fun t => pairTokens s x (c.desc t) tok * pairRowBytes (c.desc t))

/-- Bytes that the stored pairs of a context take (R223). -/
def storedPairBytes (c : Ctx) : Nat :=
  let xs := (c.tilesW.map (·.ta)).eraseDups
  let dys := (c.tilesW.map (·.tb)).eraseDups
  let of_ := fun (l : List Nat) (p n : Nat) => sumNat ((l.filter fun t => dProduct (c.desc t) == p).map fun t => n * pairRowBytes (c.desc t))
  sumNat (c.pairs.map fun p => of_ xs p.product p.x.length + of_ dys p.product p.dy.length)

/-- The window's token capacity and the pair capacity leave room for a new slot, beside the pairs stored and those of the slots
in flight (R161, R223). -/
def pairRoom (s : State) (x : Nat) (st : Stamp) (tok : Nat) : Bool :=
  let c := s.ctx x
  let flying := sumNat ((c.slots.filter fun w => !w.bDone).map fun w => pairBytes s x w.tokens)
  (match windowTokens s x with
    | some k => decide (windowTokensNow c st + tok ≤ k)
    | none => true) &&
  decide (storedPairBytes c + flying + pairBytes s x tok ≤ c.pat.declAt 8 0 28 * 4096)

/-- F of a new slot of context `x` waits for room for its pairs. -/
def waitsForRoom (s : State) (x : Nat) : Bool :=
  match fCandidate s x with
  | some (e, st) => !pairRoom s x st (32 * e.desc.tok32)
  | none => false

/-! ### The place of W (R157, R161, R221 to R223) -/

/-- WPLACE in effect: while F waits for room, W runs as under 0x0 (R161, R223). -/
def wplaceNow (s : State) (x : Nat) : Nat := if waitsForRoom s x then 0 else (s.ctx x).wplace

/-- The active W has an instruction in progress or one that can start; a link that waits for its pair keeps nothing back, as B has to
store that pair (R162). -/
def wRuns (s : State) (x : Nat) : Bool :=
  let c := s.ctx x
  match c.wActive with
  | none => false
  | some (n, w) =>
    let ready := fun k => match (activeUnits s c).drop k with | u :: _ => unitReady s c n w u | [] => false
    (c.issued.any fun i => i.stamp.phase == phW && (i.started || ready i.pos)) || ready (nextUnit c)

/-- Under WPLACE 0x0 of context `x` a complete window goes first whose W has not started (R222). -/
def wAtOnce (s : State) (x : Nat) : Bool := wplaceNow s x == 0 && (dueWindows s x).any fun w => (s.ctx x).wActive != some w

/-- W keeps a phase of step `n` from starting: W of a complete window of an earlier step always; under WPLACE 0x0 a complete window
whose W has not started; and on the backward engine either of a mate, and a W that runs, but for WPLACE 0x2 (R221, R222). -/
def wBlocks (s : State) (x n : Nat) (backward : Bool) : Bool :=
  (dueWindows s x).any (fun w => decide (w.1 < n)) || wAtOnce s x
    || (backward && (x :: groupMates s x).any fun y => wAtOnce s y || (wplaceNow s y != 2 && wRuns s y))

/-- The phase X or B of a context that can start next: its key, whether it is X, and whether it runs on the forward engine
(R221). -/
def nextBack (s : State) (x : Nat) : Option (Nat × Bool × Bool) :=
  let c := s.ctx x
  match bCandidate s x with
  | none => none
  | some v =>
    let isX := c.needsX && !v.xDone
    let fwd := isX && onForward c c.listX
    if c.state != .running || preempting s x || (isX && !xReady c v) || wBlocks s x v.stamp.step (!fwd) then none
    else some (strideKey v.stamp, isX, fwd)


/-- A mate's X or B on the same engine comes first: a lower key, or the same key on a higher STAGE (R221). -/
def mateFirst (s : State) (x key : Nat) (fwd : Bool) : Bool :=
  (groupMates s x).any fun y => y != x && match nextBack s y with
    | some (k, _, f) => f == fwd && (decide (k < key) || k == key && decide ((s.ctx x).stage < (s.ctx y).stage))
    | none => false

/-- Some X or B of the group of `x` can start on the backward engine. -/
def backwardReady (s : State) (x : Nat) : Bool :=
  (x :: groupMates s x).any fun y => match nextBack s y with | some (_, _, fwd) => !fwd | none => false

/-- A phase of the group has started on the backward engine and has not completed: it is not interrupted (R221). -/
def backwardBusy (s : State) (x : Nat) : Bool :=
  (x :: groupMates s x).any fun y =>
    let c := s.ctx y
    c.slots.any fun w => (w.bStarted && !w.bDone) || (w.xStarted && !w.xDone && !onForward c c.listX)
      || (!w.fDone && usesEngine c (c.listOf phF) 1)

/-- May phase W of a window start (R157 step 7, R162, R221, R222)? A held chain starts with the first stored pair. W of an earlier
step goes first; an X or B that W of an earlier step keeps back is not eligible against it; and only WPLACE 0x2 interrupts a phase
that has started. -/
def wReady (s : State) (x n w : Nat) : Bool :=
  let c := s.ctx x
  let us := c.units (stepM s n) w
  let chainFirst := match us with
    | u :: _ => u.body && unitReady s c n w u
    | [] => false
  c.hasW && c.wActive.isNone && !c.windowsDone.contains (n, w) && (s.stepRec n).isSome &&
    decide (w < windowCount (stepM s n) c.window) && !(dueWindows s x).any (fun v => decide (v.1 < n)) &&
    (windowWhole s c n w || chainFirst) && (wplaceNow s x == 0 || windowWhole s c n w == false || !backwardReady s x) &&
    (wplaceNow s x == 2 || !backwardBusy s x)

/-- Phase W of some complete window of the group of `x` can start: F on its engine yields to it (R221). -/
def wFirst (s : State) (x : Nat) : Bool :=
  (x :: groupMates s x).any fun y => (s.ctx y).state == .running && !preempting s y &&
    (dueWindows s y).any fun w => wReady s y w.1 w.2

/-! ### Starting F -/

/-- Two slots of one step belong to one round (R220). -/
def sameRound (c : Ctx) (a b : Stamp) : Bool :=
  a.step == b.step && a.slot / max c.inflightMax 1 == b.slot / max c.inflightMax 1

/-- Conditions of R220 for the F of a new slot. -/
def fSched (c : Ctx) : Bool :=
  decide (c.inflight < c.inflightMax) && (c.sched != 0
    || !(c.slots.any fun w => w.bStarted && c.slots.any fun v => !v.bDone && sameRound c w.stamp v.stamp))

/-- F of context `x` can start with the entry and stamp given, apart from its place among the phases of its group. -/
def fReady (s : State) (x : Nat) (e : QEntry) (st : Stamp) : Bool :=
  let c := s.ctx x
  c.state == .running && !preempting s x && !(c.first && (s.hif.quiesced || s.hif.quiescing)) && fSched c && (!c.last || c.ownCredit.isSome) && pairRoom s x st (32 * e.desc.tok32) && !wBlocks s x st.step (usesEngine c (c.listOf phF) 1) && canBind s x st

/-- A phase of the group goes before F of `x` on an engine that F uses (R221). -/
def fYields (s : State) (x : Nat) (st : Stamp) : Bool :=
  let list := (s.ctx x).listOf phF
  (usesEngine (s.ctx x) list 1 && wFirst s x) || (groupMates s x).any fun y =>
    let d := s.ctx y
    (match nextBack s y with
      | some (_, _, fwd) => usesEngine (s.ctx x) list (if fwd then 0 else 1)
      | none => false) || (y != x && (match fCandidate s y with
      | some (e, t) => fReady s y e t && (decide (strideKey t < strideKey st) || strideKey t == strideKey st && decide (d.stage < (s.ctx x).stage))
      | none => false))

/-- Write the positions of a slot's tokens into TPOS (R200). -/
def writePositions (x : Nat) (st : Stamp) (s : State) : State :=
  let c := s.ctx x
  match c.pat.seqd with
  | none => s
  | some q =>
    let t := bits q 48 16
    if t = 0 then s
    else
      let a := atOf s x st
      let isX := st.phase == phX
      let r := storeFlat s a t 0 none ((upto a.sw.tokens).map fun k => fvInt (tokenPos s x k)) 0 []
      storeFor x st r.writes (addCounts x isX r.count (beginUse x t isX r.T s))

/-- The record of a slot whose F starts from an entry; on a LAST context it takes a credit of the own gradient queue. -/
def newSlot (c : Ctx) (st : Stamp) (d : QDesc) : SlotWork :=
  { SlotWork.none with stamp := slotOf st, tokens := 32 * d.tok32, aBuf := some d.buf, aTexp := d.texp,
                       gBuf := if c.last then c.ownCredit else none }

/-- Phase F starts: the entry is popped, the slot takes its stamp, the regions bind (R211, R219, R226, R51). -/
def startF (x : Nat) (s : State) : State :=
  match fCandidate s x with
  | none => s
  | some (e, st) =>
    if !fReady s x e st || fYields s x st then s
    else
      let s := if (s.ctx x).first then countInjected x st.step s else s
      let s := popEntry x 0 e s
      let s := modCtx x (fun c => { c with slots := c.slots ++ [newSlot c st e.desc] }) s
      let s := offerNow { st with phase := phF } (0x10 + x) (bindAll x st s)
      pumpWork x (endPhase x { st with phase := phF } (progress x (writePositions x { st with phase := phF } s)))

/-- PHASE_X_START (R157 step 3, R177, R221). -/
def startX (x : Nat) (st : Stamp) (s : State) : State :=
  let t := { slotOf st with phase := phX }
  let next := match bCandidate s x with | some v => v.stamp == slotOf st | none => false
  match nextBack s x with
  | some (key, true, fwd) =>
    if !next || mateFirst s x key fwd then s
    else pumpWork x (endPhase x t (writePositions x t (offerNow t (0x10 + x) (modSlot x st (fun w => { w with xStarted := true }) s))))
  | _ => s

/-- PHASE_B_START (R219 to R221). -/
def startB (x : Nat) (s : State) : State :=
  match bCandidate s x, nextBack s x with
  | some w, some (key, false, fwd) =>
    let t := { w.stamp with phase := phB }
    if mateFirst s x key fwd then s
    else match gradEntry (s.ctx x) w.stamp with
      | none => s
      | some e =>
        let s := popEntry x 1 e s
        let s := modSlot x w.stamp (fun v => { v with bStarted := true, gBuf := some e.desc.buf, gTexp := e.desc.texp }) s
        pumpWork x (endPhase x t (progress x (offerNow t (0x10 + x) s)))
  | _, _ => s


/-- PHASE_W_START. -/
def startW (x n w : Nat) (s : State) : State :=
  let c := s.ctx x
  if c.state != .running || preempting s x || !wReady s x n w then s
  else
    let t : Stamp := ⟨s.str.epoch, n, (windowSlots c.window (stepM s n) w).2, phW⟩
    let s := modCtx x (fun c => { c with wActive := some (n, w), wDone := [] }) s
    finishW x (offerNow t (0x10 + x) s)

def execPhaseFStart (x : Nat) (s : State) : Host.Outcome State Fault Refusal := runLive (startF x) s
def execPhaseXStart (x : Nat) (st : Stamp) (s : State) : Host.Outcome State Fault Refusal := runLive (startX x st) s
def execPhaseBStart (x : Nat) (s : State) : Host.Outcome State Fault Refusal := runLive (startB x) s
def execPhaseWStart (x step window : Nat) (s : State) : Host.Outcome State Fault Refusal := runLive (startW x step window) s

/-! ### Offload (R175, R176, R217) -/

/-- The copy of a slot's block input to the slow tier completes: its activation buffer is free again. -/
def offloadDone (x : Nat) (st : Stamp) (s : State) : State :=
  let w := slotRec s x st
  match w.aBuf with
  | some b =>
    if w.input ≠ .offloading then s
    else
      let u := (s.ctx x).aq
      let data := memRead s (bufAddr u b) u.bufBytes
      let bad := (upto (cdiv u.bufBytes 64)).filter fun k => poisoned s (bufAddr u b + 64 * k)
      pumpAll <| freeBuf x 0 b (modSlot x st (fun w => { w with input := .slow, aBuf := none, inBytes := data, inBad := bad }) s)
  | none => s

/-- The fetch-back of a slot starts (R176); a context that does not run starts none (R242). -/
def fetchBack (x : Nat) (st : Stamp) (s : State) : State :=
  let c := s.ctx x
  let w := slotRec s x st
  let ahead := c.slots.any fun v => v.stamp.step == st.step && v.stamp.slot + c.lookahead == st.slot && v.bStarted
  if c.state == .running && w.input == .slow && (ahead || (gradEntry c st).isSome) then modSlot x st (fun w => { w with input := .fetching }) s else s

/-- The fetch-back completes. -/
def fetchDone (x : Nat) (st : Stamp) (s : State) : State :=
  if (slotRec s x st).input = .fetching then modSlot x st (fun w => { w with input := .back }) s else s

def execOffloadComplete (x : Nat) (st : Stamp) (s : State) : Host.Outcome State Fault Refusal := runLive (offloadDone x st) s
def execOffloadFetchBack (x : Nat) (st : Stamp) (s : State) : Host.Outcome State Fault Refusal := runLive (fetchBack x st) s
def execFetchBackComplete (x : Nat) (st : Stamp) (s : State) : Host.Outcome State Fault Refusal := runLive (fetchDone x st) s

/-! ### Array checks (R98, R263, R271) -/

/-- The highest logical index of the active arrays of an engine, with its physical array. -/
def topActive (c : Cmp) (e : Nat) : Option Nat :=
  (c.inState e .active).find? fun p => decide ((c.arr p).logical + 1 = c.active e)

/-- Take physical array `p` out of use with a cause and move a spare, or the highest logical index, into its place. -/
def remapArray (p cause : Nat) (c : Cmp) : Cmp :=
  let e := physEngine p
  let l := (c.arr p).logical
  let fail : List Arr → List Arr := fun a => modNth (fun _ => ⟨.failed, 31, cause⟩) a p
  match (c.inState e .spare).head? with
  | some q => { c with arrays := modNth (fun _ => ⟨.active, l, 0⟩) (fail c.arrays) q }
  | none =>
    match topActive c e with
    | some q => if q = p then { c with arrays := fail c.arrays }
        else { c with arrays := modNth (fun _ => ⟨.active, l, 0⟩) (fail c.arrays) q }
    | none => { c with arrays := fail c.arrays }

/-- An instruction in progress on an array: abandoned there, and executed again (R98). -/
def hitBy (code : Nat) (i : Issued) : Bool := i.started && i.arrays.contains code

/-- The open chain of a context uses an array: a link of it has run or runs there. -/
def chainHit (code : Nat) (c : Ctx) : Bool :=
  (match c.chain with | some h => h.arrays.contains code | none => false) || c.issued.any fun i => i.work.inChain && hitBy code i

/-- Instructions and chains of a context that run again, a chain counted once. -/
def reexecs (code : Nat) (c : Ctx) : Nat :=
  (c.issued.filter fun i => !i.work.inChain && hitBy code i).length + b2n (chainHit code c)

/-- Contexts of die `d` that execute something again. -/
def usersOf (s : State) (d code : Nat) : List Nat :=
  (upto 16).filter fun x => (s.ctx x).die == d && decide (0 < reexecs code (s.ctx x))

/-- Change the arrays that the issued instructions and the chain of context `x` hold; `f` tells a link of the chain apart. -/
def mapArrays (x : Nat) (f : Option Issued → List Nat → List Nat) (s : State) : State :=
  modCtx x (fun c => { c with
    issued := c.issued.map fun i => { i with arrays := f (if i.work.inChain then none else some i) i.arrays },
    chain := c.chain.map fun h => { h with arrays := f none h.arrays } }) s

/-- No spare was left: array `top` now carries the logical index of the failed one, and what ran there runs again on the arrays
then available (R98 steps 3 and 4). -/
def moveArrays (d code top : Nat) (s : State) : State :=
  ((upto 16).filter fun x => (s.ctx x).die == d).foldl (fun s x =>
    let c := s.ctx x
    let chain := chainHit code c
    let others := chainArrays s d
    let again := fun (eng n : Nat) => ((allottedArrays s x eng).filter fun a => !others.contains a).take n
    let links := ((allottedArrays s x (code / 32)).filter fun a => !(others.filter fun b => !((c.linkArrays.getD []).contains b)).contains a)
    mapArrays x (fun i l => match i with
      | some i => if hitBy code i then again (code / 32) l.length else l.map fun a => if a = top then code else a
      | none => if chain then links.take l.length else l.map fun a => if a = top then code else a) s) s

/-- What a lost array makes late in fixed-tempo mode: the rest of the block of what runs again, and every block where the engine has
fewer arrays (R271, log 145). -/
def markLate (x : Nat) (fewer : Bool) (s : State) : State :=
  if !(s.ctx x).tempo then s
  else modCtx x (fun c => { c with
    tempoFew := c.tempoFew || fewer, tempos := c.tempos.map fun b => { b with hit := true } }) s

/-- The passes of context `x` that run again load the registers of the arrays they now run on: those of the instructions named, and the
accumulators of its open chain (R66, R98 step 4). -/
def reloadArrays (x : Nat) (hit : List Issued) (chain : Bool) (s : State) : State :=
  let c := s.ctx x
  let s := (c.issued.filter fun i => hit.any fun j => j.idx == i.idx && j.pos == i.pos && j.stamp == i.stamp).foldl
    (fun s i => loadArrays s (atOf s x i.stamp) i) s
  match c.chain, chain with
  | some h, true => match h.links.getLast? with
    | some (idx, st) => match c.workAt idx with
      | .tile _ w => leaveAcc c.die true (accCells s (atOf s x st) w h.acc) h.arrays s
      | .vec _ _ => s
    | none => s
  | _, _ => s

/-- ARRAY_CHECK_FAIL on an active array: remap, execute again from unchanged inputs, record, stop below REQ. -/
def arrayFails (d p cause : Nat) (s : State) : State :=
  let a := (s.cmp d).arr p
  if a.state ≠ .active then s
  else
    let e := physEngine p
    let code := e * 32 + a.logical
    let users := usersOf s d code
    let again := sumNat ((s.ctxs.filter fun c => c.die == d).map (reexecs code))
    let spare := !((s.cmp d).inState e .spare).isEmpty
    let top := e * 32 + ((s.cmp d).active e - 1)
    let hits := users.map fun x => (x, (s.ctx x).issued.filter (hitBy code), chainHit code (s.ctx x))
    let s := modCmp d (fun c => (remapArray p cause c).setPes p fun _ _ _ => (0, 0)) s
    let s := if spare then s else moveArrays d code top s
    let s := hits.foldl (fun s h => reloadArrays h.1 h.2.1 h.2.2 s) s
    let s := bump (oCmp d 4) 28 4 again (setBit (oCmp d 4) 24 s)
    let s := raise 1 (logEv 0x02 stOk d { ctx := users.headD 0x1F, arg := p % 64 + cause % 256 * 256 } s)
    let s := if spare then users.foldl (fun s x => markLate x false s) s
      else ((upto 16).filter fun x => (s.ctx x).die == d && (s.ctx x).state != .empty).foldl (fun s x => markLate x true s) s
    stopBelow d 16 s

/-- SPARE_CHECK_FAIL: the spare is lost, nothing is executed again. -/
def spareFails (d p cause : Nat) (s : State) : State :=
  if ((s.cmp d).arr p).state ≠ .spare then s
  else
    let s := modCmp d (fun c => { c with arrays := modNth (fun _ => ⟨.failed, 31, cause⟩) c.arrays p }) s
    raise 1 (logEv 0x02 stOk d { arg := p % 64 + cause % 256 * 256 } (setBit (oCmp d 4) 24 s))

def execSpareCheckFail (d phys cause : Nat) (s : State) : Host.Outcome State Fault Refusal := runLive (spareFails d phys cause) s

/-! ### Tempo blocks (R269) -/

/-- The stamp for which instruction `idx` is the next to issue. -/
def tempoStamp (s : State) (x idx : Nat) : Option Stamp :=
  let c := s.ctx x
  let slots := c.slots.flatMap fun w => [phF, phX, phB].map fun ph => { w.stamp with phase := ph }
  let windows := match c.wActive with | some (n, _) => [(⟨s.str.epoch, n, 0, phW⟩ : Stamp)] | none => []
  (slots ++ windows).find? fun st => (issuePos s x st idx).isSome

/-- What an instruction reads is there: the entry or version that holds it, or the pairs of its window (R269). -/
def dataThere (s : State) (a : At) (w : Work) : Bool :=
  w.reads.all fun t =>
    let k := dKind ((s.ctx a.x).desc t)
    t == 0 || (k != 0 && k != 2) || (placeOf s a t).isSome

/-- The conditions of R269 for the block that instruction `idx` opens: what its instructions read is present, expert rows, combined
router output and ring blocks among it (M15 of R510), and nothing issued still writes what the first one reads or writes. -/
def originMet (s : State) (x idx : Nat) (st : Stamp) : Bool :=
  let c := s.ctx x
  let w := c.workAt idx
  let block := (c.phaseList st.phase).filter fun p => tempoBlock c p == idx && !isFlagOp (nth 0 c.pat.prog p)
  let pairs := st.phase != phW || match c.wActive with
    | some (n, k) => (activeUnits s c).all fun u => !block.contains u.idx || unitReady s c n k u
    | none => false
  (block.all fun p => dataThere s (atOf s x st) (c.workAt p) && inputsThere s x (c.workAt p) st && combinedThere c (c.workAt p) st) && pairs
    && c.issued.all fun i => !(i.work.writes.any (w.reads ++ w.writes).contains)

/-- A pass at the vector site runs vector instructions on die `d`. -/
def vectorPass (s : State) (d : Nat) : Bool :=
  match s.upd.pass with
  | some p => p.site == 1 && passOn s d
  | none => false

/-- TEMPO_BLOCK_ORIGIN at an array cycle. It waits for an update instruction in progress (R507, log 144). -/
def tempoStart (x idx cycle : Nat) (s : State) : State :=
  let c := s.ctx x
  let pass := vectorPass s c.die
  match tempoStamp s x idx with
  | none => s
  | some st =>
    if !(c.tempo && c.state == .running && bit (nth 0 c.pat.tempo idx) 0 && (c.tempoOf idx st).isNone && originMet s x idx st) then s
    else
      let waits := pass && Config.updateBusy s.free
      let s := if pass then spend s else s
      if waits then s else modCtx x (fun c => { c with tempos := c.tempos ++ [⟨idx, st, cycle, idx, false⟩] }) s

def execTempoBlockOrigin (x idx cycle : Nat) (s : State) : Host.Outcome State Fault Refusal :=
  runLive (tempoStart x idx cycle) s

end Sys2Proof.Machine
end

