-- ==== Sys2Proof/Machine/Instructions.lean ====
section
/-! DEFINITION. The tile, flag and vector instructions of a context's sequencer, one meaning for each (R70, R139). A row that
names an instruction is its issue; its result becomes visible at INSTRUCTION_COMPLETE (R85). -/
namespace Sys2Proof.Machine

/-- An X or B of context `y` is eligible for an array of an engine: one that can start there, or one that has started and whose next
instruction is a tile instruction there (R222). -/
def backTakes (s : State) (y eng : Nat) : Bool :=
  let c := s.ctx y
  let next := fun (w : SlotWork) ph => match (c.phaseList ph).drop (c.taken w ph) with
    | i :: _ => isTile (nth 0 c.pat.prog i) && usesEngine c [i] eng
    | [] => false
  (match nextBack s y with | some (_, _, fwd) => (if fwd then 0 else 1) == eng | none => false)
    || c.slots.any fun w => (w.bStarted && !w.bDone && next w phB) || (w.xStarted && !w.xDone && next w phX)

/-- Under WPLACE 0x2 an eligible X or B goes before the next TMM_W, except on the arrays of an open chain, and except
for a window of an earlier step (R222). -/
def wHeldBack (s : State) (x : Nat) (w : TileWords) : Bool :=
  let c := s.ctx x
  wplaceNow s x == 2 && (x :: groupMates s x).any (fun y => backTakes s y w.eng) && !(w.cont && c.chain.isSome)

/-- Issue of a TMM_W. -/
def issueW (x : Nat) (st : Stamp) (idx : Nat) (w : TileWords) (s : State) : State :=
  if wHeldBack s x w then s else issue x st idx (.tile 3 w) s

def execTmmF (x : Nat) (st : Stamp) (idx : Nat) (w : TileWords) (s : State) : Host.Outcome State Fault Refusal :=
  runLive (issue x st idx (.tile 1 w)) s
def execTmmB (x : Nat) (st : Stamp) (idx : Nat) (w : TileWords) (s : State) : Host.Outcome State Fault Refusal :=
  runLive (issue x st idx (.tile 2 w)) s
def execTmmW (x : Nat) (st : Stamp) (idx : Nat) (w : TileWords) (s : State) : Host.Outcome State Fault Refusal :=
  runLive (issueW x st idx w) s

/-- The place of a flag instruction, when it is the next of its phase and the context may issue (R289). -/
def flagPos (s : State) (x : Nat) (st : Stamp) (idx : Nat) : Option Nat :=
  if !mayIssue s x || !tempoOpen (s.ctx x) idx st then none else issuePos s x st idx

/-- FSET and FCLR of context `x` (R289): a local one takes effect only after every earlier instruction of the context has
completed; a remote one completes as its record leaves. -/
def seqOp (x : Nat) (st : Stamp) (idx : Nat) (w : FlagWords) (value : Bool) (s : State) : State :=
  match flagPos s x st idx with
  | none => s
  | some pos =>
    if isRemote s w then
      match destOf s w.dest with
      | none => retireFlag x st pos (tempoIssued x idx st s)
      | some _ =>
        if !remoteMay s w then s
        else sendRemoteOp w (if value then 1 else 2) (.flagOp x idx pos st)
          (modCtx x (fun c => { c with remoteOps := c.remoteOps ++ [(idx, pos, st)] }) (tempoIssued x idx st s))
    else if !allDone s x then s
    else settleWaits (retireFlag x st pos (opFlag w.fctx w.vflag value (tempoIssued x idx st s)).1)

/-- FWAIT of context `x`: it waits for its flag and retires when the wait completes with OK (R289, R290). -/
def issueWait (x : Nat) (st : Stamp) (idx : Nat) (w : FlagWords) (s : State) : State :=
  match flagPos s x st idx with
  | none => s
  | some pos => settleWaits (seqWait x st idx pos w (tempoIssued x idx st s))

def execFset (x : Nat) (st : Stamp) (idx : Nat) (w : FlagWords) (s : State) : Host.Outcome State Fault Refusal :=
  runLive (seqOp x st idx w true) s
def execFclr (x : Nat) (st : Stamp) (idx : Nat) (w : FlagWords) (s : State) : Host.Outcome State Fault Refusal :=
  runLive (seqOp x st idx w false) s
def execFwait (x : Nat) (st : Stamp) (idx : Nat) (w : FlagWords) (s : State) : Host.Outcome State Fault Refusal :=
  runLive (issueWait x st idx w) s

def execVadd (x : Nat) (st : Stamp) (idx : Nat) (w : VecWords) (s : State) : Host.Outcome State Fault Refusal :=
  runLive (issue x st idx (.vec 0x80 w)) s
def execVsub (x : Nat) (st : Stamp) (idx : Nat) (w : VecWords) (s : State) : Host.Outcome State Fault Refusal :=
  runLive (issue x st idx (.vec 0x81 w)) s
def execVmul (x : Nat) (st : Stamp) (idx : Nat) (w : VecWords) (s : State) : Host.Outcome State Fault Refusal :=
  runLive (issue x st idx (.vec 0x82 w)) s
def execVfma (x : Nat) (st : Stamp) (idx : Nat) (w : VecWords) (s : State) : Host.Outcome State Fault Refusal :=
  runLive (issue x st idx (.vec 0x83 w)) s
def execVdiv (x : Nat) (st : Stamp) (idx : Nat) (w : VecWords) (s : State) : Host.Outcome State Fault Refusal :=
  runLive (issue x st idx (.vec 0x84 w)) s
def execVsqrt (x : Nat) (st : Stamp) (idx : Nat) (w : VecWords) (s : State) : Host.Outcome State Fault Refusal :=
  runLive (issue x st idx (.vec 0x85 w)) s
def execVmin (x : Nat) (st : Stamp) (idx : Nat) (w : VecWords) (s : State) : Host.Outcome State Fault Refusal :=
  runLive (issue x st idx (.vec 0x86 w)) s
def execVmax (x : Nat) (st : Stamp) (idx : Nat) (w : VecWords) (s : State) : Host.Outcome State Fault Refusal :=
  runLive (issue x st idx (.vec 0x87 w)) s
def execVcvt (x : Nat) (st : Stamp) (idx : Nat) (w : VecWords) (s : State) : Host.Outcome State Fault Refusal :=
  runLive (issue x st idx (.vec 0x88 w)) s
def execVfunc (x : Nat) (st : Stamp) (idx : Nat) (w : VecWords) (s : State) : Host.Outcome State Fault Refusal :=
  runLive (issue x st idx (.vec 0x89 w)) s
def execVsum (x : Nat) (st : Stamp) (idx : Nat) (w : VecWords) (s : State) : Host.Outcome State Fault Refusal :=
  runLive (issue x st idx (.vec 0x90 w)) s
def execVmaxr (x : Nat) (st : Stamp) (idx : Nat) (w : VecWords) (s : State) : Host.Outcome State Fault Refusal :=
  runLive (issue x st idx (.vec 0x91 w)) s
def execVlnorm (x : Nat) (st : Stamp) (idx : Nat) (w : VecWords) (s : State) : Host.Outcome State Fault Refusal :=
  runLive (issue x st idx (.vec 0x92 w)) s
def execVrnorm (x : Nat) (st : Stamp) (idx : Nat) (w : VecWords) (s : State) : Host.Outcome State Fault Refusal :=
  runLive (issue x st idx (.vec 0x93 w)) s
def execVsmx (x : Nat) (st : Stamp) (idx : Nat) (w : VecWords) (s : State) : Host.Outcome State Fault Refusal :=
  runLive (issue x st idx (.vec 0x94 w)) s
def execVsmxm (x : Nat) (st : Stamp) (idx : Nat) (w : VecWords) (s : State) : Host.Outcome State Fault Refusal :=
  runLive (issue x st idx (.vec 0x95 w)) s
def execVtopk (x : Nat) (st : Stamp) (idx : Nat) (w : VecWords) (s : State) : Host.Outcome State Fault Refusal :=
  runLive (issue x st idx (.vec 0xA0 w)) s
def execVcount (x : Nat) (st : Stamp) (idx : Nat) (w : VecWords) (s : State) : Host.Outcome State Fault Refusal :=
  runLive (issue x st idx (.vec 0xA1 w)) s
def execVscan (x : Nat) (st : Stamp) (idx : Nat) (w : VecWords) (s : State) : Host.Outcome State Fault Refusal :=
  runLive (issue x st idx (.vec 0xA2 w)) s
def execVgather (x : Nat) (st : Stamp) (idx : Nat) (w : VecWords) (s : State) : Host.Outcome State Fault Refusal :=
  runLive (issue x st idx (.vec 0xA3 w)) s
def execVscatter (x : Nat) (st : Stamp) (idx : Nat) (w : VecWords) (s : State) : Host.Outcome State Fault Refusal :=
  runLive (issue x st idx (.vec 0xA4 w)) s
def execVialu (x : Nat) (st : Stamp) (idx : Nat) (w : VecWords) (s : State) : Host.Outcome State Fault Refusal :=
  runLive (issue x st idx (.vec 0xA8 w)) s
def execVrand (x : Nat) (st : Stamp) (idx : Nat) (w : VecWords) (s : State) : Host.Outcome State Fault Refusal :=
  runLive (issue x st idx (.vec 0xB0 w)) s
def execVdrop (x : Nat) (st : Stamp) (idx : Nat) (w : VecWords) (s : State) : Host.Outcome State Fault Refusal :=
  runLive (issue x st idx (.vec 0xB1 w)) s

end Sys2Proof.Machine
end

