-- ==== Sys2Proof/Machine/Image.lean ====
section
/-! DEFINITION. The Pattern image (R245 to R252): its sections, the Pattern it holds, and the checks of its content under
the reason codes 0x01 to 0x0E of R257. A check gives the index of the first failing item, 0xFFFF when none applies. -/
namespace Sys2Proof.Machine

/-! ### Results of checks -/

/-- The first element that is bad. -/
def firstOf {α : Type} (l : List α) (bad : α → Bool) : Option Nat := findIdxN bad l 0
/-- A check without an item. -/
def whole (bad : Bool) : Option Nat := if bad then some 0xFFFF else none
/-- The first of some checks that fails. -/
def firstFail {α : Type} : List (α × Option Nat) → Option (α × Nat)
  | [] => none
  | (c, some i) :: _ => some (c, i)
  | (_, none) :: t => firstFail t
/-- The first failing item of two checks of one code. -/
def orElseN (a b : Option Nat) : Option Nat := match a with | some i => some i | none => b

/-! ### Header and sections (R245, R248) -/

/-- A section-table entry. -/
structure Sect where
  ty : Nat
  resv : Nat
  off : Nat
  bytes : Nat
  count : Nat
  deriving DecidableEq, Repr

def imgLength (b : List Byte) : Nat := leAt b 8 4
def imgModes (b : List Byte) : Nat := leAt b 12 4
def imgSects (b : List Byte) : List Sect :=
  (upto (leAt b 20 4)).map fun i =>
    let o := 128 + 16 * i
    ⟨leAt b o 1, leAt b (o + 1) 3, leAt b (o + 4) 4, leAt b (o + 8) 4, leAt b (o + 12) 4⟩

/-- Reason 0x01 on the header: MAGIC, LENGTH, reserved bits. -/
def headerBad (b : List Byte) : Bool :=
  leAt b 0 4 != 0x4E545031 || decide (imgLength b < 320) || decide (2 ^ 28 < imgLength b) || imgLength b % 64 != 0
    || imgModes b / 64 != 0 || leAt b 24 4 / 4 != 0 || leAt b 28 36 != 0

/-- The Pattern signing keys enrolled by the configuration image (R246, R467). -/
def patternKey (s : State) (i : Nat) : Option (List Byte) := s.boot.image.bind fun m => m.keys[i]?

/-- Reason 0x02: the signature (R246). -/
def signatureBad (s : State) (b : List Byte) : Bool :=
  let n := imgLength b - 96
  let sig := b.drop n
  match patternKey s (leAt b 24 4 % 4) with
  | none => true
  | some k => !ecdsaVerify k sig (b.take n)

/-- Capability bits of the module (R527). -/
def capBits : Nat := 0x1FFF

/-- Reason 0x10 (R247): format 1.0. -/
def versionBad (b : List Byte) : Bool :=
  leAt b 6 2 != 1 || decide (0 < leAt b 4 2) || (leAt b 16 4 &&& (2 ^ 32 - 1 - capBits)) != 0

/-- Element size of a section type; 0 for a router section, whose elements differ. -/
def sectSize (ty : Nat) : Nat :=
  match ty with
  | 1 => 16 | 2 => 4 | 3 => 32 | 4 => 4 | 5 => 32 | 6 => 4 | 7 => 12 | 9 => 8 | 10 => 8 | _ => 0

def sectOf (l : List Sect) (ty : Nat) : Option Sect := l.find? fun e => e.ty == ty
/-- The elements of a section of fixed element size. -/
def elemsOf (b : List Byte) (l : List Sect) (ty : Nat) : List Nat :=
  match sectOf l ty with
  | some e => (upto e.count).map fun i => leAt b (e.off + i * sectSize ty) (sectSize ty)
  | none => []

/-- Cut the words of a router section into routers of four words and E map words. -/
def cutRouters : Nat → List Nat → List (List Nat)
  | 0, _ => []
  | _, [] => []
  | f + 1, ws =>
    let n := 4 + bits (ws.headD 0) 0 10 + 1
    ws.take n :: cutRouters f (ws.drop n)

/-- The routers of an image. -/
def routersOf (b : List Byte) (l : List Sect) : List (List Nat) :=
  match sectOf l 8 with
  | some e => cutRouters e.count ((upto (e.bytes / 4)).map fun i => leAt b (e.off + 4 * i) 4)
  | none => []

/-- The Pattern in an image. -/
def patternOf (b : List Byte) : Pattern :=
  let l := imgSects b
  ⟨elemsOf b l 1, elemsOf b l 2, elemsOf b l 3, elemsOf b l 4, elemsOf b l 5, elemsOf b l 6, (elemsOf b l 7).headD 0,
    routersOf b l, (elemsOf b l 9).head?, elemsOf b l 10, imgModes b, leAt b 64 64, digestNat (b.take (imgLength b - 96))⟩

/-- How often a section type occurs, as R248 asks. -/
def sectCountOk (modes : Nat) (l : List Sect) (ty : Nat) : Bool :=
  let n := (l.filter fun e => e.ty == ty).length
  match ty with
  | 1 => n == 1
  | 2 => n == b2n (bit modes 0)
  | 3 => n == 1
  | 7 => n == 1
  | 8 => n == b2n (bit modes 2)
  | 9 => n == b2n (bit modes 3)
  | _ => decide (n ≤ 1)

/-- The bytes of a section agree with its count. -/
def sectBytesOk (b : List Byte) (l : List Sect) (e : Sect) : Bool :=
  if e.ty = 8 then e.bytes == 4 * sumNat ((routersOf b l).map (·.length)) && e.count == (routersOf b l).length
    && (routersOf b l).all fun r => r.length == 5 + bits (r.headD 0) 0 10
  else e.bytes == e.count * sectSize e.ty && (e.ty != 4 || decide (e.count ≤ 256))
    && ((e.ty != 7 && e.ty != 9) || e.count == 1)

/-- Reason 0x03 on the section table. -/
def sectionsBad (b : List Byte) : Bool :=
  let l := imgSects b
  let n := leAt b 20 4
  let clash := (upto l.length).any fun i => (upto l.length).any fun j =>
    let e := nth ⟨0, 0, 0, 0, 0⟩ l i
    let f := nth ⟨0, 0, 0, 0, 0⟩ l j
    i != j && decide (e.off < f.off + f.bytes) && decide (f.off < e.off + e.bytes)
  decide (n < 3) || decide (64 < n) || clash ||
    !(l.all fun e => decide (1 ≤ e.ty) && decide (e.ty ≤ 10) && e.resv == 0
      && decide (128 + 16 * n ≤ e.off) && decide (e.off + e.bytes ≤ imgLength b - 96) && sectBytesOk b l e)
    || !((upto 11).drop 1).all (sectCountOk (imgModes b) l)
    || (bit (imgModes b) 0 && (elemsOf b l 2).length != (elemsOf b l 1).length)

/-- R280 on the flag-map section: DIE 0x7 stands for the die of the context. -/
def flagMapBad (es : List Nat) : Bool :=
  !runOrdered 0 es || es.any fun e => bits e 0 6 != 0 || bits e 24 8 != 0 || bits e 36 4 != 0 || entDie e == 6

/-! ### Instructions (R80, R84, R149, R162, R288) -/

/-- Formats a tile operand may name. -/
def tileFmtOk (f : Nat) : Bool := decide (1 ≤ f) && decide (f ≤ 10)
/-- A slot names an element of the descriptor table. -/
def slotOk (c : Ctx) (t : Nat) : Bool := t != 0 && decide (t ≤ c.pat.descs.length)

/-- A weight descriptor names metadata that matches SPARSE (R548). -/
def metaOk (c : Ctx) (sparse d : Nat) : Bool :=
  let m := c.desc (dMeta d)
  slotOk c (dMeta d) && dKind m == 0 && dFmt m == 0xB && !dCensus m && dPsMode m == 0 && dRegion m == dRegion d
    && dRows m == dRows d && dCols m == dCols d && dRows d % 32 == 0 && dCols d % 32 == 0
    && (!bit sparse 0 || bit (dPlanes m) 0) && (!bit sparse 1 || bit (dPlanes m) 1)

/-- Sparsity of an instruction has its metadata: on B, or for a TMM_W on the region of TC (R548). -/
def sparseOk (c : Ctx) (op : Nat) (w : TileWords) : Bool :=
  if w.sparse = 0 then true
  else if op ≠ 3 then metaOk c w.sparse (c.desc w.tb)
  else
    let r := dRegion (c.desc w.tc)
    let ws := c.pat.descs.filter fun d => dKind d == 0 && dRegion d == r && !(dFmt d == 0xB && dPlanes d != 0)
    let place := fun d => (dOffset (c.desc (dMeta d)), dSpace (c.desc (dMeta d)))
    let first := place (ws.headD 0)
    r != 0xFFFF && ws.any (metaOk c w.sparse) && ws.all fun d => slotOk c (dMeta d) && place d == first

/-- MX operands that R73 wants square-scaled. -/
def squareOk (c : Ctx) (op : Nat) (w : TileWords) : Bool :=
  let sq := fun f t => !isMx f || dSq (c.desc t)
  (op != 2 && op != 3 || sq w.fmtB w.tb) && (op != 3 || sq w.fmtA w.ta)

/-- R80 on one tile instruction. -/
def tileBad (c : Ctx) (v : Nat) : Bool :=
  let op := progOp v
  let w := tileOf v
  !tileFmtOk w.fmtA || !tileFmtOk w.fmtB || !tileFmtOk w.fmtC || decide (3 < w.sparse)
    || !slotOk c w.ta || !slotOk c w.tb || !slotOk c w.tc || decide (5 < w.mlog) || decide (5 < w.nlog) || w.kb == 0
    || (op != 1 && w.eng == 0) || (op != 3 && w.hold) || (op != 3 && w.cont && w.fmtC != 1)
    || (op == 3 && w.fmtC != 1 && w.fmtC != 3) || !sparseOk c op w || !squareOk c op w

/-- R288 on one flag instruction of context `x`. -/
def flagInstrBad (s : State) (x : Nat) (c : Ctx) (v : Nat) : Bool :=
  let w := flagOf v
  let op := progOp v
  let own := w.fctx == x
  bits v 12 20 != 0 || bits v 62 2 != 0 || bits v 72 8 != 0 || bits v 96 32 != 0
    || (w.consume && (op != 0x12 || !w.val)) || (w.fence && (!w.remote || op == 0x12 || w.vcmask % 2 ^ 15 == 0))
    || (w.remote && (destOf s w.dest).isNone)
    || (!w.remote && !own && !(decide (16 ≤ w.fctx) && decide (w.fctx < 32)) && decide (w.fctx < 40))
    || (!w.remote && own && (lookup c.pat.flagMap w.vflag).isNone)

/-- The TMM_Ws that hand a tile to their buckets. -/
def Ctx.finals (c : Ctx) : List TileWords :=
  (c.listOf phW).filterMap fun p => match c.workAt p with
    | .tile _ w => if w.hold then Option.none else some w
    | .vec _ _ => Option.none

/-- Rows of a tile in its bucket: under 2:4 half of C's (R165). -/
def bucketRows (w : TileWords) : Nat := if tileTwo4 w then tileM w / 2 else tileM w

/-- First bucket element of row `i` of a tile. -/
def Ctx.rowStart (c : Ctx) (w : TileWords) (i : Nat) : Nat := dBOffset (c.desc w.tc) + i * dStride (c.desc w.tc)

/-- The first elements of the rows of every finished tile of a bucket. -/
def Ctx.rowStarts (c : Ctx) (g b : Nat) : List Nat :=
  (c.finals.filter fun w => dGrp (c.desc w.tc) == g && dBucket (c.desc w.tc) == b).flatMap fun w =>
    (upto (bucketRows w)).map (c.rowStart w)

/-- Elements of row `i` of a tile. Under a block mask, which positions are kept stands in memory: the row reaches to the next
row of the bucket, as a bucket covered exactly once asks; the last row is as long as the one before it (R165, R166, log 52). -/
def Ctx.rowLen (c : Ctx) (w : TileWords) (i : Nat) : Nat :=
  if !tileMask w then tileN w
  else
    let starts := c.rowStarts (dGrp (c.desc w.tc)) (dBucket (c.desc w.tc))
    let len := fun k => (starts.filter fun a => decide (c.rowStart w k < a)).foldl
      (fun m a => min m (a - c.rowStart w k)) (tileN w)
    if i + 1 = bucketRows w then len (i - 1) else len i

/-- Output cells of a tile (R89); under a block mask those of the elements its bucket is sure to give it (log 52). -/
def Ctx.cellsOf (c : Ctx) (w : TileWords) : Nat :=
  if tileMask w then
    let starts := c.rowStarts (dGrp (c.desc w.tc)) (dBucket (c.desc w.tc))
    let sure := fun i => if (starts.filter (· == c.rowStart w i)).length ≤ 1 then c.rowLen w i else 0
    cdiv (sumNat ((upto (bucketRows w)).map sure)) 1024
  else cdiv (tileM w / 32 * (tileN w / 32)) (if tileTwo4 w then 2 else 1)

/-- The chain rules of R83, R84 and R162 along the W list; `open_` holds the first instruction of the open chain and how
many instructions it has; a plain window-view TMM_W may stand between two links. Gives the place of the first instruction that
breaks them. -/
def chainBad (c : Ctx) (limit : TileWords → Nat) : Option (TileWords × Nat) → List Nat → Option Nat
  | some _, [] => some 0xFFFF
  | none, [] => none
  | open_, p :: t =>
    match c.workAt p with
    | .vec _ _ => chainBad c limit open_ t
    | .tile _ w =>
      if open_.isSome && !w.hold && !w.cont then chainBad c limit open_ t
      else
      let same := fun (h : TileWords) => h.mlog == w.mlog && h.nlog == w.nlog && h.fmtC == w.fmtC && h.tc == w.tc
      let fits := decide (c.cellsOf w ≤ 16 * limit w)
      let n := c.window
      match open_ with
      | none =>
        if !w.hold && !w.cont then chainBad c limit none t
        else if !w.hold || !fits || w.cont != (n == 0) then some p
        else chainBad c limit (some (w, 1)) t
      | some (h, k) =>
        if !w.cont || !same h || !fits then some p
        else if n = 0 then (if w.hold then some p else chainBad c limit none t)
        else if w.hold then (if k + 1 < n then chainBad c limit (some (h, k + 1)) t else some p)
        else if k + 1 = n then chainBad c limit none t
        else some p

/-- Reason 0x04. -/
def tilesBad (s : State) (x : Nat) (c : Ctx) : Option Nat :=
  let one := fun v =>
    if isTile v then tileBad c v else if isFlagOp v then flagInstrBad s x c v else !isVec v
  let limit := fun (w : TileWords) => if w.arrays = 0 then c.need 1 else min w.arrays (c.need 1)
  orElseN (firstOf c.pat.prog one) (chainBad c limit none (c.listOf phW))

/-- Operations of R139. -/
def vopKnown (v : Nat) : Bool :=
  [0x80, 0x81, 0x82, 0x83, 0x84, 0x85, 0x86, 0x87, 0x88, 0x89, 0x90, 0x91, 0x92, 0x93, 0x94, 0x95, 0xA0, 0xA1, 0xA2, 0xA3,
    0xA4, 0xA8, 0xB0, 0xB1].contains v
/-- SUB is one its operation knows. -/
def subOk (vop sub : Nat) : Bool :=
  match vop with
  | 0x89 => decide (sub ≤ 15)
  | 0xA8 => decide (sub ≤ 10)
  | 0xB0 => decide (sub ≤ 3)
  | _ => true
/-- Operations on INT32 only. -/
def intOnly (vop : Nat) : Bool := vop == 0xA1 || vop == 0xA2 || vop == 0xA8
/-- Operations in floating point. VCVT converts either way, VGATHER and VSCATTER move rows, VRAND draws. -/
def floatOnly (vop : Nat) : Bool := !intOnly vop && vop != 0x88 && vop != 0xA3 && vop != 0xA4 && vop != 0xB0
def vecFmtOk (f : Nat) : Bool := decide (1 ≤ f) && decide (f ≤ 11)

/-- Elements of a row of A: ROWLEN, and the two statistics more under VSMXM (R143). -/
def rowOfA (vop : Nat) (w : VecWords) : Nat := if vop = 0x95 then w.rowlen + 2 else w.rowlen

/-- R149 on one vector instruction. -/
def vecBad (c : Ctx) (v : Nat) : Bool :=
  let op := progOp v
  let w := vecOf v
  let a := readsA op
  let b := readsB op || readsD op
  let d := writesD op w.td
  let count := dRows (c.desc w.ta) * dCols (c.desc w.ta)
  !vopKnown op || !subOk op w.sub || (a && !vecFmtOk w.fmtA) || !vecFmtOk w.fmtC
    || ((b || d) && decide (11 < w.fmtB)) || (b && w.fmtB == 0)
    || w.rowlen == 0 || (a && count % w.rowlen != 0)
    || (floatOnly op && ((a && w.fmtA == 11) || ((b || d && op == 0x94) && w.fmtB == 11) || w.fmtC == 11))
    || (intOnly op && (w.fmtA != 11 || (b && w.fmtB != 11) || w.fmtC != 11))
    || ((op == 0xA3 || op == 0xA4) && w.fmtA != 11)
    || (op == 0xA0 && (w.sub == 0 || decide (8 < w.sub) || decide (w.rowlen < w.sub) || decide (1024 < w.rowlen)))
    || (op == 0xA1 && decide (65536 < w.rowlen))
    || (a && !slotOk c w.ta) || (readsB op && !slotOk c w.tb) || !slotOk c w.tc
    || ((readsD op || op == 0xA0) && !slotOk c w.td) || (d && !slotOk c w.td)

/-- Reason 0x05. -/
def vecsBad (c : Ctx) : Option Nat := firstOf c.pat.prog fun v => isVec v && vecBad c v

/-! ### Descriptors and regions (R122, R166, R171, R174, R175, R234, R249, R250, R387) -/

def rSharded (r : Nat) : Bool := bit r 38
def rGrp (r : Nat) : Nat := bits r 39 3
def rDm1 (r : Nat) : Nat := bits r 32 3
def rPins (r : Nat) : Nat := bits r 35 3
def rOffset (r : Nat) : Nat := bits r 64 40
def rSpace (r : Nat) : Nat := bits r 104 2
def rVbytes (r : Nat) : Nat := bits r 128 28
/-- Region `i` of a context's Pattern. -/
def Ctx.reg (c : Ctx) (i : Nat) : Nat := nth 0 c.pat.regions i

/-- Declared units of 4 KiB of a space: fast tier, version store, slow tier, operand buffer. -/
def Ctx.declared (c : Ctx) (space : Nat) : Nat :=
  match space with
  | 0 => c.pat.declAt 3 0 27
  | 1 => c.pat.declAt 2 0 19
  | 2 => c.pat.declAt 4 0 28
  | _ => c.pat.declAt 1 0 15

/-- Reason 0x06 on one descriptor. -/
def descBad (c : Ctx) (d : Nat) : Bool :=
  let f := dFmt d
  let k := dKind d
  f == 0 || decide (11 < f) || dPsMode d == 3 || (dSq d && !isMx f) || (dPsMode d == 2 && !isMx f)
    || (f == 10 && dPsMode d != 1) || (dPsMode d == 2 && c.tempo) || (!dCensus d && dPsMode d == 2)
    || decide (3 < k) || (dRegion d != 0xFFFF && decide (c.pat.regions.length ≤ dRegion d))
    || (k == 3 && (dRegion d == 0xFFFF || dMatrix d == 3))
    || (k == 0 && dRegion d == 0xFFFF && decide (c.declared (dSpace d) * 4096 ≤ dOffset d))

/-- Two counted descriptors share a census slot under different tensor IDs. -/
def cslotClash (ds : List Nat) : Option Nat :=
  findIdxN (fun i => dCensus (nth 0 ds i) && (ds.take i).any fun d =>
    dCensus d && dCslot d == dCslot (nth 0 ds i) && dTid d != dTid (nth 0 ds i)) (upto ds.length) 0

/-- Reason 0x06. -/
def descsBad (c : Ctx) : Option Nat :=
  orElseN (firstOf c.pat.descs (descBad c)) (orElseN (cslotClash c.pat.descs)
    (firstOf c.pat.regions fun r => decide (1 < rSpace r) || decide (c.declared (rSpace r) * 4096 < rOffset r)))

/-- Slots an instruction names. -/
def Work.named : Work → List Nat
  | .tile _ w => [w.ta, w.tb, w.tc]
  | .vec _ w => [w.ta, w.tb, w.tc, w.td].filter (· != 0)

/-- Buckets of a Pattern: group and ID. -/
def Ctx.buckets (c : Ctx) : List (Nat × Nat) :=
  ((c.finals.map fun w => c.desc w.tc).map fun d => (dGrp d, dBucket d)).eraseDups

/-- Of rows that begin at one element, one is not empty: masked rows but the last give way. -/
def settleRuns : List (Nat × Nat × Bool) → List (Nat × Nat)
  | [] => []
  | (a, n, _) :: [] => [(a, n)]
  | (a, n, m) :: r :: t => (a, if m && r.1 == a then 0 else n) :: settleRuns (r :: t)

/-- The runs of bucket elements that the finished tiles cover, sorted: start and length. -/
def Ctx.runsOf (c : Ctx) (g b : Nat) : List (Nat × Nat) :=
  let ws := c.finals.filter fun w => dGrp (c.desc w.tc) == g && dBucket (c.desc w.tc) == b
  settleRuns (sortBy (fun r => 2 * r.1 + b2n (!r.2.2))
    (ws.flatMap fun w => (upto (bucketRows w)).map fun i => (c.rowStart w i, c.rowLen w i, tileMask w)))

/-- Runs that follow one another from `e` without gap or overlap. -/
def runsCover : Nat → List (Nat × Nat) → Bool
  | _, [] => true
  | e, (a, n) :: t => a == e && runsCover (a + n) t

/-- Elements of a bucket (R350): one more than the highest element covered. -/
def Ctx.bucketElems (c : Ctx) (g b : Nat) : Nat := maxNat ((c.runsOf g b).map fun r => r.1 + r.2)

/-- PREC of a bucket. -/
def Ctx.bucketPrec (c : Ctx) (g b : Nat) : Nat :=
  match c.finals.find? fun w => dGrp (c.desc w.tc) == g && dBucket (c.desc w.tc) == b with
  | some w => dPrec (c.desc w.tc)
  | .none => 0

/-- Reason 0x07 (R166). -/
def bucketsBad (c : Ctx) : Option Nat :=
  let bound := fun t => dKind (c.desc t) == 1
  let instr := firstOf c.pat.prog fun v =>
    if isTile v then
      let w := tileOf v
      if progOp v = 3 then !bound w.tc || (dPrec (c.desc w.tc) == 0) != (w.fmtC == 3)
      else bound w.ta || bound w.tb || bound w.tc
    else isVec v && (workOf v).named.any bound
  let desc := firstOf c.pat.descs fun d => dKind d == 1 && (decide (5 < dGrp d)
    || (dRegion d != 0xFFFF && rMask (c.reg (dRegion d)) == 1)
    || c.pat.descs.any fun e => dKind e == 1 && dGrp e == dGrp d && dBucket e == dBucket d && dPrec e != dPrec d)
  let cover := whole (c.buckets.any fun b => !runsCover 0 (c.runsOf b.1 b.2))
  orElseN instr (orElseN desc cover)

/-- A pair that no TMM_W may read (R174). -/
def pairBad (c : Ctx) (t : Nat) : Bool :=
  let d := c.desc t
  let m := rMask (c.reg (dRegion d))
  dKind d == 3 && (m == 1 || (m == 2 && dMatrix d == 0))

/-- Groups of the buckets of region `i`. -/
def Ctx.regionGroups (c : Ctx) (i : Nat) : List Nat :=
  (c.pat.descs.filter fun d => dKind d == 1 && dRegion d == i).map dGrp

/-- Reason 0x08 on region `i`. -/
def regionBad (s : State) (c : Ctx) (i : Nat) : Bool :=
  let r := c.reg i
  let m := rMask r
  m == 3 || (m == 2 && decide (3 < bits r 2 2)) || (m == 0 && c.pat.descs.any fun d => dKind d == 0 && dRegion d == i && dFmt d == 10)
    || (if c.overlap then rDm1 r == 0 else rDm1 r != 0) || (rSharded r && decide (5 < rGrp r))
    || (m != 1 && !rSharded r && (c.regionGroups i).any fun g => decide (1 < grpSize s g))

/-- Reason 0x08. -/
def trainBad (s : State) (c : Ctx) : Option Nat :=
  let instr := firstOf c.pat.prog fun v => progOp v == 3 && (pairBad c (tileOf v).ta || pairBad c (tileOf v).tb)
  let desc := firstOf c.pat.descs fun d => dKind d == 3 && dMatrix d != 0 && rMask (c.reg (dRegion d)) != 2
  let pol := whole (c.pat.policies.any fun w => bits w 0 2 == 3 || w / 64 != 0)
  orElseN instr (orElseN desc (orElseN pol (firstOf (upto c.pat.regions.length) (regionBad s c))))

/-! ### Routers, sequence, schedule, modes (R182, R199, R210, R258) -/

/-- Reason 0x09 on router `r`. -/
def routerBad (c : Ctx) (r : Nat) : Bool :=
  let e := c.nExperts r
  let cf := bits (c.routerWord r 0) 16 16
  let exps := (upto e).map (c.expertAt r)
  decide (e < c.nRanks r) || (decide (0 < cf) && decide (cf < 0x100)) || decide (0x1000 < cf) || bits (c.routerWord r 1) 20 4 == 0
    || decide (1024 < c.loadBase r + e)
    || (upto r).any (fun q => decide (c.loadBase q < c.loadBase r + e) && decide (c.loadBase r < c.loadBase q + c.nExperts q))
    || exps.any (fun m => decide (c.nSources r ≤ m.1)) || exps.eraseDups.length != exps.length

def routersBad (c : Ctx) : Option Nat := firstOf (upto c.pat.routers.length) (routerBad c)

/-- Reason 0x0A. -/
def seqBad (c : Ctx) : Option Nat :=
  match c.pat.seqd with
  | none => none
  | some q =>
    let len := bits q 0 25
    let n := bits q 32 8 + 1
    whole (len == 0 || decide (16777216 < len) || len % ((if bit q 40 then 64 else 32) * n) != 0 || decide (1048576 < len / n))

/-- Contexts of the interleave group that a Pattern would join. -/
def mates (s : State) (x : Nat) (c : Ctx) : List Ctx :=
  (upto 16).filterMap fun y =>
    let d := s.ctx y
    if y != x && d.state != .empty && c.sched == 2 && d.sched == 2 && d.group == c.group then some d else none

/-- Reason 0x0B. -/
def schedBad (s : State) (x : Nat) (c : Ctx) : Option Nat :=
  let rec? := stageRec s 4 x
  let is := fun i v => ctxRec s x i == some v
  whole (c.sched == 3 || c.wplace == 3 || c.first != (c.stage == 0) || c.inflightMax == 0
    || (mates s x c).any (fun d => d.wplace != c.wplace || d.overlap != c.overlap)
    || rec?.isNone || (is 3 0xFF && !c.last) || (is 2 0xFF && !c.first) || (is 4 0xFF && c.first))

/-- Reason 0x0C. -/
def modesBad (c : Ctx) : Option Nat :=
  let m := c.pat.modes
  whole ((bit m 4 && c.buckets.isEmpty) || bit m 5 != c.overlap || (!bit m 1 && c.pat.descs.any dDemote) || (bit m 0 && bit m 1))

/-! ### Declaration (R190, R251, R253, R267, R280, R549) -/

/-- Bits of the declaration words that are not reserved. -/
def declMask : Nat :=
  leNat ([0x03FFFF07, 0x7FFF, 0x7FFFF, 0x7FFFFFF, 0xFFFFFFF, 0xFFFFF, 0x3FFFFF, 0x1FF01FF, 0xFFFFFFF, 0xFFFF, 0xFFFFFFF,
    0xFFFFFFF, 3, 0, 0, 0].flatMap (leBytes 4))

def Ctx.queueDepth (c : Ctx) (q : Nat) : Nat := (if q = 0 then bits c.pat.sched 32 9 else bits c.pat.sched 41 9) + 1
def Ctx.queueBufs (c : Ctx) (q : Nat) : Nat := c.queueDepth q + c.pat.declAt 7 (16 * q) 9
/-- Buffer size of a queue, in 4 KiB units. -/
def Ctx.bufUnits (c : Ctx) (q : Nat) : Nat := c.pat.declAt (10 + q) 0 28
/-- Space of a queue's data region. -/
def Ctx.queueSpace (c : Ctx) (q : Nat) : Nat := c.pat.declAt 12 q 1
/-- Units of the data region of a queue. -/
def Ctx.queueUnits (c : Ctx) (q : Nat) : Nat := c.queueBufs q * c.bufUnits q
/-- Start of the data region of a queue in its space, in units. -/
def Ctx.queueStart (c : Ctx) (q : Nat) : Nat := if q = 1 ∧ c.queueSpace 0 = c.queueSpace 1 then c.queueUnits 0 else 0

/-- Bytes of one module's shard of region `i`, 64-byte aligned (log 21), in 4 KiB units. -/
def shardUnits (s : State) (r : Nat) : Nat :=
  let n := (members s (rGrp r)).length
  if n = 0 then rVbytes r else cdiv (roundUp (cdiv (rVbytes r * 4096) n) 64) 4096

/-- Units that the versions of a region take, those of its own shard included. -/
def regionUnits (s : State) (r : Nat) : Nat :=
  (rDm1 r + 1) * rVbytes r + (if rSharded r then (rDm1 r + 1) * shardUnits s r else 0)

/-- Units of the receive partitions of a Pattern (R190). -/
def partitionUnits (c : Ctx) : Nat :=
  sumNat ((upto c.pat.routers.length).map fun r =>
    let d := c.desc (c.tTok r)
    cdiv (2 * c.nSources r * bits (c.routerWord r 1) 20 4 * c.capacity r (dRows d) * rowSpan (dFmt d) (dCols d)) 4096)

/-- Units of the stored pairs of a full window: for each pair tensor the K rows of the window-view TMM_W that reads it, which KB
gives (R161, R193, log 53). -/
def pairUnits (c : Ctx) : Nat :=
  let ws := c.finals.filter fun w => !w.cont
  let ts := (ws.flatMap fun w => [w.ta, w.tb]).eraseDups
  let rows := fun t => maxNat ((ws.filter fun w => w.ta == t || w.tb == t).map tileK)
  cdiv (sumNat (ts.map fun t => rows t * pairRowBytes (c.desc t))) 4096

/-- Bytes that the block inputs of the slots in flight take in the slow tier (R175). -/
def offloadBytes (c : Ctx) : Nat := if c.offloads then c.inflightMax * c.bufUnits 0 * 4096 else 0

/-- Bytes of the ring buffers of a context: for each layer two blocks of K and V in F, and two of K, V, dK and dV in B (log 53). -/
def ringBytes (c : Ctx) : Nat :=
  let size := fun l (k : Nat) => sumNat (((c.ringSlots l 0).take k).map fun t => roundUp (tensorBytes c (c.desc t)) 64)
  sumNat ((upto c.ringLayers).map fun l => 2 * size l 2 + 2 * size l 4)

/-- Bytes of the master and moment slots of this module's shards of the buckets (R388, R389, log 53). -/
def optimiserBytes (s : State) (c : Ctx) : Nat :=
  sumNat (c.buckets.map fun b => 12 * cdiv (c.bucketElems b.1 b.2) (max 1 (grpSize s b.1)))

/-- Bytes of a space that the content needs (R253): the end of every queue region, region and placed tensor, and no less than the
sum of the region versions, queue data regions, stored pairs, receive partitions, ring buffers, offload copies and optimiser state
that lie in it (log 53). -/
def needOf (s : State) (c : Ctx) (space : Nat) : Nat :=
  let queues := (upto 2).map fun q => if c.queueSpace q = space then (c.queueStart q + c.queueUnits q) * 4096 else 0
  let regions := c.pat.regions.map fun r => if rSpace r = space then rOffset r + regionUnits s r * 4096 else 0
  let tensors := c.pat.descs.map fun d =>
    if dKind d = 0 ∧ dRegion d = 0xFFFF ∧ dSpace d = space then dOffset d + tensorBytes c d else 0
  let sum := sumNat ((upto 2).map fun q => if c.queueSpace q = space then c.queueUnits q * 4096 else 0)
    + sumNat (c.pat.regions.map fun r => if rSpace r = space then regionUnits s r * 4096 else 0)
    + (if space = 0 then (max (c.pat.declAt 8 0 28) (pairUnits c) + partitionUnits c) * 4096 + ringBytes c else 0)
    + (if space = 2 then offloadBytes c + optimiserBytes s c else 0)
  max sum (maxNat (queues ++ regions ++ tensors))

/-- The first tile instruction that names an engine of which the declaration requires no array. -/
def engineShort (c : Ctx) : Option Nat := firstOf c.pat.prog fun v => isTile v && c.need (tileOf v).eng == 0

/-- Reason 0x0D. -/
def declBad (s : State) (c : Ctx) : Option Nat :=
  let p := c.pat
  let pages := sumNat (p.flagMap.map entPages)
  let range := whole ((p.decl &&& declMask) != p.decl % 2 ^ 512 || decide (4 < p.declAt 0 0 3)
    || decide (12 < c.need 0) || decide (12 < c.want 0) || decide (24 < c.need 1) || decide (24 < c.want 1)
    || decide (16384 < p.declAt 1 0 15) || decide (c.want 0 < c.need 0) || decide (c.want 1 < c.need 1))
  orElseN range (orElseN (engineShort c) (whole ((c.tempo && (c.need 0 != c.want 0 || c.need 1 != c.want 1))
    || decide (p.declAt 9 0 16 < p.prog.length) || decide (p.declAt 5 0 20 < 64 * pages) || decide (p.declAt 8 0 28 < pairUnits c)
    || c.buckets.any (fun b => !bit (p.declAt 6 16 6) b.1) || c.bufUnits 0 == 0 || c.bufUnits 1 == 0
    || (upto 3).any fun sp => decide (c.declared sp * 4096 < needOf s c sp))))

/-! ### Tempo table (R87, R95, R137, R269, R270) -/

/-- Cost figure C of a vector operation (R139, R146). -/
def vecCost (vop sub : Nat) : Nat :=
  match vop with
  | 0x84 => 4 | 0x85 => 4 | 0x92 => 6 | 0x93 => 4 | 0x94 => 6 | 0x95 => 8 | 0xA0 => 4 | 0xA1 => 2 | 0xA2 => 2
  | 0xB0 => 3 | 0xB1 => 4
  | 0x89 => nth 1 [3, 2, 4, 4, 3, 3, 5, 5, 6, 8, 7, 6, 6, 6, 6, 8] sub
  | _ => 1

/-- Array cycles of a vector instruction (R137, R30): rows are dealt round-robin to its units (R136); an index of VGATHER or VSCATTER
stands for a whole row, and no UNITS means all four units (log 166). One stall cycle falls after each 255 issuing ones of the
instruction; the 32 start-up cycles take no part (log 148). -/
def vecCycles (c : Ctx) (vop : Nat) (w : VecWords) : Nat :=
  let d := c.desc (if readsA vop then w.ta else w.tc)
  let len := max (rowOfA vop w) 1
  let units := if w.units = 0 then 4 else ((upto 4).filter (bit w.units)).length
  let whole := vop == 0xA3 || vop == 0xA4
  let e := if whole then cdiv (dRows d * dCols d) units * max w.rowlen 1 else cdiv (dRows d * dCols d / len) units * len
  let n := cdiv (vecCost vop w.sub * e) 2048
  32 + n + n / 255

/-- The fold of a tile instruction at the declared arrays; a block mask costs what the same product costs without it (R95). -/
def tempoFold (c : Ctx) (op : Nat) (w : TileWords) : Fold :=
  let a := c.need w.eng
  fold op (tileM w) (tileN w) (tileK w) w.fmtA w.fmtB (tileTwo4 w) false (if w.arrays = 0 then a else min w.arrays a)
    (cdiv (tileM w / 32 * (tileN w / 32)) (if tileTwo4 w then 2 else 1)) fun _ _ => 0

/-- A pass that takes one quadrant (R86). -/
def quadrant (op : Nat) (w : TileWords) : Bool :=
  let p := (packing w.fmtA w.fmtB).1
  let lanes := if tileTwo4 w && op == 1 then 8 * p else 4 * p
  op != 3 && decide (w.kb ≤ lanes / 2)

/-- Array cycles of a tile instruction (R87). Its arrays are idle before it: an offset no earlier than the end of an occupancy, fill
and drain included, lies behind the cycle in which the last input row entered (R77, R270). -/
def tileCycles (c : Ctx) (op : Nat) (w : TileWords) : Nat :=
  let f := tempoFold c op w
  let l := if w.fmtB = 1 then 256 else 128
  if op = 3 then f.passes * max f.stream 128 + 384
  else l + (f.passes - 1) * max f.stream l + f.stream + (if quadrant op w then 128 else 256)

/-- A space that an instruction of a tempo block may use (R269); stored pairs are taken as staged (log 55). -/
def tempoSpaceOk (c : Ctx) (t : Nat) : Bool :=
  let d := c.desc t
  match dKind d with
  | 0 => if dRegion d ≠ 0xFFFF then rSpace (c.reg (dRegion d)) == 1 else dSpace d == 1 || dSpace d == 3
  | 2 => c.queueSpace (dQueue d) == 1
  | _ => true

/-- An instruction of the current block: its offset, its end, its engine (2 = none), the quadrants it takes, whether they are whole
arrays, and whether a chain keeps them. -/
structure Placed where
  idx : Nat
  off : Nat
  stop : Nat
  eng : Nat
  quads : Nat
  whole : Bool
  kept : Bool
  deriving DecidableEq, Repr

/-- Quadrants that a tile instruction takes: those of its one pass, or whole arrays; a link that continues a chain takes none beside
those its chain keeps (R83, R86). -/
def quadsOf (c : Ctx) (op : Nat) (w : TileWords) : Nat :=
  let f := tempoFold c op w
  if quadrant op w then min (cdiv (cdiv (tileN w) (if tileTwo4 w && op == 2 then 64 else 32)) 2) (4 * f.used) else 4 * f.used

/-- The arrays that instruction `w` of the block needs at offset `off` are taken by earlier ones (R270): the allotment less what
they hold leaves too few whole arrays, or too few quadrants. -/
def arraysTaken (c : Ctx) (l : List Placed) (op : Nat) (w : TileWords) (off : Nat) : Bool :=
  let busy := l.filter fun p => p.eng == w.eng && (p.kept || decide (off < p.stop))
  let wholes := sumNat ((busy.filter (·.whole)).map fun p => p.quads / 4)
  let quads := sumNat ((busy.filter fun p => !p.whole).map (·.quads))
  let free := c.need w.eng - wholes
  if op = 3 ∧ w.cont then false
  else if quadrant op w then decide (4 * free < quads + quadsOf c op w)
  else decide (4 * (free - cdiv quads 4) < quadsOf c op w)

/-- Does instruction `i` at offset `off` break R270 against the earlier ones of its block? -/
def placeBad (c : Ctx) (l : List Placed) (i off : Nat) : Bool :=
  let w := c.workAt i
  let mine := w.reads ++ w.writes
  let late := l.any fun p => decide (off ≤ p.off) || ((c.workAt p.idx).writes.any mine.contains && decide (off < p.stop))
  let taken := match w with | .tile op t => arraysTaken c l op t off | .vec _ _ => false
  !(mine.all (tempoSpaceOk c)) || late || taken

/-- Place instruction `i`. -/
def placeOne (c : Ctx) (i off : Nat) : Placed :=
  match c.workAt i with
  | .vec vop w => ⟨i, off, off + vecCycles c vop w, 2, 0, false, false⟩
  | .tile op w => ⟨i, off, off + tileCycles c op w, w.eng, quadsOf c op w, !quadrant op w, op == 3 && w.hold⟩

/-- The block with instruction `i` in it: a link that continues a chain takes over the arrays that the one before it kept. -/
def placeNext (c : Ctx) (l : List Placed) (i off : Nat) : List Placed :=
  let l := match c.workAt i with
    | .tile 3 w => if w.cont then l.map fun p => { p with kept := false } else l
    | _ => l
  l ++ [placeOne c i off]

/-- Walk the program; `l` holds the current block, flag instructions among its offsets. -/
def tempoWalk (c : Ctx) : List Placed → List Nat → Option Nat
  | _, [] => none
  | l, i :: t =>
    let v := nth 0 c.pat.tempo i
    let origin := bit v 0
    let off := v / 2
    let l := if origin then [] else l
    if isFlagOp (nth 0 c.pat.prog i) then
      if (origin && off != 0) || l.any (fun p => decide (off ≤ p.off)) then some i
      else tempoWalk c (l ++ [⟨i, off, off, 2, 0, false, false⟩]) t
    else if (origin && off != 0) || placeBad c l i off then some i
    else tempoWalk c (placeNext c l i off) t

/-- Reason 0x0E. -/
def tempoBad (c : Ctx) : Option Nat :=
  if !c.tempo then none
  else if !bit (nth 0 c.pat.tempo 0) 0 then some 0
  else tempoWalk c [] (upto c.pat.prog.length)

/-! ### All content checks, in the order of R257 -/

/-- The context a Pattern would make. -/
def draft (p : Pattern) : Ctx := { Ctx.none with pat := p }

/-- Codes 0x03 to 0x0E: the first that fails and its item. -/
def contentFail (s : State) (x : Nat) (b : List Byte) : Option (Nat × Nat) :=
  if sectionsBad b then some (3, 0xFFFF)
  else
    let c := draft (patternOf b)
    firstFail [(3, whole (flagMapBad c.pat.flagMap)), (4, tilesBad s x c), (5, vecsBad c), (6, descsBad c), (7, bucketsBad c),
      (8, trainBad s c), (9, routersBad c), (10, seqBad c), (11, schedBad s x c), (12, modesBad c), (13, declBad s c),
      (14, tempoBad c)]

end Sys2Proof.Machine
end

