-- ==== Sys2Proof/Machine/Admission.lean ====
section
/-! DEFINITION. Admission (R254 to R260): the resource checks of reasons 0x20 to 0x2E, the choice of a die, the
allocations of an accepted load, and PATTERN_LOAD. -/
namespace Sys2Proof.Machine

/-! ### Resources of a compute die -/

/-- Contexts that are not empty. -/
def loadedCtxs (s : State) : List Nat := (upto 16).filter fun y => (s.ctx y).state != .empty
/-- Those on die `d`. -/
def onDie (s : State) (d : Nat) : List Nat := (loadedCtxs s).filter fun y => (s.ctx y).die == d

/-- The lowest start of `n` places in a row that `free` allows below `top`. -/
def firstRun (top n : Nat) (free : Nat → Bool) : Option Nat :=
  (upto (top + 1 - n)).find? fun a => (upto n).all fun i => free (a + i)

/-- Operand-buffer units in use on die `d`, as (start, length). -/
def opRuns (s : State) (d : Nat) : List (Nat × Nat) := (onDie s d).map fun y => ((s.ctx y).opBase, (s.ctx y).declared 3)

/-- The lowest start for `n` operand-buffer units: 0 or the end of a run in use (log 56). -/
def opPlace (s : State) (d n : Nat) : Option Nat :=
  let runs := opRuns s d
  let ok := fun a => decide (a + n ≤ 16384) && !runs.any fun r => decide (a < r.1 + r.2) && decide (r.1 < a + n)
  (sortBy id (0 :: runs.map fun r => r.1 + r.2)).find? ok

/-- The longest run of operand-buffer units free on die `d`. -/
def opLargest (s : State) (d : Nat) : Nat :=
  let runs := opRuns s d
  maxNat ((0 :: runs.map fun r => r.1 + r.2).map fun a =>
    if runs.any fun r => decide (r.1 ≤ a) && decide (a < r.1 + r.2) then 0
    else ((runs.filter fun r => decide (a ≤ r.1) && r.2 != 0).map (·.1)).foldl min 16384 - a)

/-- A failed resource check: reason, amount missing. Room of the operand buffer that is free in pieces only counts by its longest
piece (log 56). -/
def dieFail (s : State) (c : Ctx) (d : Nat) : Option (Nat × Nat) :=
  let others := onDie s d
  let used := fun (f : Ctx → Nat) => sumNat (others.map fun y => f (s.ctx y))
  let short := fun (have_ need : Nat) => need - have_
  let prog := c.pat.declAt 9 0 16
  let progFree := 65536 - used fun c => c.pat.declAt 9 0 16
  let beyond := fun e => used (fun c => c.need e) + c.need e - (s.cmp d).active e
  let opFree := 16384 - used fun c => c.declared 3
  if progFree < prog then some (0x21, short progFree prog)
  else if beyond 0 ≠ 0 then some (0x22, beyond 0)
  else if beyond 1 ≠ 0 then some (0x23, beyond 1)
  else if opFree < c.declared 3 then some (0x24, short opFree (c.declared 3))
  else if (opPlace s d (c.declared 3)).isNone then some (0x24, c.declared 3 - opLargest s d)
  else if (fld s (oCmp d 0x300) 0 1 == 1) != c.tempo then some (0x25, 0)
  else none

/-- The die of a load, or the failure to report (R260). -/
def pickDie (s : State) (c : Ctx) : Nat × Option (Nat × Nat) :=
  let want := c.pat.declAt 0 0 3
  if want < 4 then (want, dieFail s c want)
  else
    let all := (upto 4).map fun d => (d, dieFail s c d)
    match all.find? fun r => r.2.isNone with
    | some r => r
    | none =>
      let code := fun (r : Nat × Option (Nat × Nat)) => match r.2 with | some f => f.1 | none => 0
      let worst := maxNat (all.map code)
      (all.find? fun r => code r == worst).getD (0, none)

/-! ### Ranges (R259) -/

/-- Base and units of a space's range of a context. -/
def rangeOf (c : Ctx) (space : Nat) : Nat × Nat :=
  (if space = 0 then c.fastBase else if space = 1 then c.vsBase else c.slowBase, c.declared space)

/-- A range is refused. -/
def rangeBad (s : State) (x : Nat) (c : Ctx) (space : Nat) : Bool :=
  let (base, n) := rangeOf c space
  let stop := base + n * 4096
  let (lo, hi) := if space = 0 then (0, fastTop) else if space = 1 then (vsLo, vsTop) else (slowLo, slowTop)
  let meets := fun (a b : Nat) => decide (base < b) && decide (a < stop)
  let spill := fld s (oRed 0x410) 0 20 * 2 ^ 20
  n != 0 && (base % 4096 != 0 || decide (base < lo) || decide (hi < stop)
    || (loadedCtxs s).any (fun y => y != x && (let r := rangeOf (s.ctx y) space; r.2 != 0 && meets r.1 (r.1 + r.2 * 4096)))
    || (fld s (oRed 0x410) 20 8 != 0 && meets spill (spill + fld s (oRed 0x410) 20 8 * 2 ^ 30)))

/-! ### Flags (R280) -/

/-- Die code of a section entry on a context of die `d`. -/
def entryDie (e d : Nat) : Nat := if entDie e = 7 then d else entDie e
/-- Put a die and a page into an entry. -/
def placeFlagEntry (e die page : Nat) : Nat := putBits (putBits e 32 3 die) 40 12 page

/-- Give each entry the lowest free run of pages of its die; `taken` are page keys in use (log 57). -/
def placePages (d : Nat) : List Nat → List Nat → Option (List Nat)
  | _, [] => some []
  | taken, e :: t =>
    let die := entryDie e d
    match firstRun (diePages die) (entPages e) fun p => !taken.contains (pageKey die p) with
    | none => none
    | some p =>
      match placePages d (taken ++ (upto (entPages e)).map fun i => pageKey die (p + i)) t with
      | some r => some (placeFlagEntry e die p :: r)
      | none => none

/-- The entries of a context's map as placed, and their first map-store entry. -/
def placeFlags (s : State) (d : Nat) (es : List Nat) : Option (Nat × List Nat) :=
  match firstRun 4096 es.length fun i => (tabFind s.flg.storeOwner i).isNone,
      placePages d (s.flg.pageOwner.map (·.1)) es with
  | some f, some l => some (f, l)
  | _, _ => none

/-- What a flag-map section lacks when it cannot be placed: 64 flags for each page that a named die lacks, else the missing map-store
entries, else one page or one entry where the free ones do not lie together (R256, R280, log 174). -/
def flagShort (s : State) (d : Nat) (es : List Nat) : Nat :=
  let need := fun die => sumNat ((es.filter fun e => entryDie e d == die).map entPages)
  let free := fun die => (upto (diePages die)).filter fun p => (tabFind s.flg.pageOwner (pageKey die p)).isNone
  match (upto 6).find? fun die => decide ((free die).length < need die) with
  | some die => 64 * (need die - (free die).length)
  | none =>
    let store := 4096 - s.flg.storeOwner.length
    if store < es.length then es.length - store
    else if (placePages d (s.flg.pageOwner.map (·.1)) es).isNone then 64
    else 1

/-- Free physical flags of the module. -/
def freeFlags (s : State) : Nat := 64 * (sumNat ((upto 6).map diePages) - s.flg.pageOwner.length)

/-! ### Region table (R236, R244) -/

/-- Give each region named the lowest free run of `n` entries: its index and its entry. -/
def placeRuns (n : Nat) (used : List Nat) : List Nat → Option (List (Nat × Nat))
  | [] => some []
  | i :: t => match firstRun 1024 n fun k => !used.contains k with
    | none => none
    | some a => (placeRuns n (used ++ (upto n).map (a + ·)) t).map ((i, a) :: ·)

/-- The entry of each region, the first of two consecutive ones when it is sharded (R236). The pairs are placed first, so that a single
entry takes no place that a pair needs (log 173). -/
def placeRegions (used : List Nat) (rs : List Nat) : Option (List Nat) :=
  let of_ := fun p => (upto rs.length).filter fun i => rSharded (nth 0 rs i) == p
  match placeRuns 2 used (of_ true) with
  | none => none
  | some ps =>
    (placeRuns 1 (used ++ ps.flatMap fun e => [e.2, e.2 + 1]) (of_ false)).map fun qs =>
      (upto rs.length).map fun i => match (ps ++ qs).find? (·.1 == i) with | some e => e.2 | none => 0

/-- The entry of region `i`: the gathered or only copies, or the owned shard's. -/
def newRegion (s : State) (x : Nat) (c : Ctx) (i : Nat) (owned : Bool) : Region :=
  let r := c.reg i
  let n := rDm1 r + 1
  let base := (rangeOf c (rSpace r)).1 + rOffset r + (if owned then n * rVbytes r * 4096 else 0)
  let size := if owned then shardUnits s r * 4096 else rVbytes r * 4096
  { ctx := x, localIdx := i, overlap := c.overlap, sharded := rSharded r, frozen := rMask r == 1, owned := owned,
    dm1 := rDm1 r, pins := rPins r, grp := rGrp r, seqHold := bit c.pat.modes 3 && c.overlap, waitSlot := false, landed := [],
    slots := (upto n).map fun v => ⟨if v = 0 then s.c % 4096 else 0, if v = 0 then .live else .free, 0, 0, false, base + v * size⟩ }

/-! ### Ports and groups (R257: 0x2C, 0x2D) -/

/-- Ports that the stage map names for a context: those of its neighbours and of its groups. -/
def ctxPorts (s : State) (x : Nat) : List Nat :=
  let dests := [2, 3, 4].filterMap fun i => match ctxRec s x i with
    | some d => (destOf s d).map (·.1)
    | none => none
  let mem := (members s (8 + x) ++ members s (0x18 + x)).map (·.2.2)
  ((dests ++ mem).filter fun p => decide (p ≤ 15)).eraseDups

/-- The first VC of VCMASK that some port of the context has not enabled. -/
def vcFail (s : State) (x : Nat) (c : Ctx) : Option Nat :=
  (upto 15).find? fun v => bit (c.pat.declAt 6 0 16) v && (ctxPorts s x).any fun p => fld s (oLnk p (0x100 + 4 * v)) 12 1 == 0

/-- The first group that fails reason 0x2D. -/
def groupFail (s : State) (c : Ctx) : Option Nat :=
  let mask := c.pat.declAt 6 16 6
  let new := fun g => (c.buckets.filter fun b => b.1 == g).length
  let held := fun g => (s.red.buckets.filter fun b => b.grp == g).length
  let off := (upto 6).find? fun g => bit mask g && fld s (oGrp g 0) 0 1 == 0
  let full := (upto 6).find? fun g => decide (256 < new g + held g)
  let reused := (upto 6).find? fun g => c.buckets.any fun b => b.1 == g && s.red.buckets.any fun k => k.grp == g && k.id == b.2
  let far := if bit c.pat.modes 4 && !farOn s then some (podGroup s) else none
  orElseN off (orElseN full (orElseN reused far))

/-- Versions that an overlap-mode region must have (R234, R505). -/
def depthNeed (c : Ctx) (r : Nat) : Nat := (if bit c.pat.modes 3 then 3 else 2) + rPins r
/-- The first overlap-mode region that is not deep enough. -/
def depthFail (c : Ctx) : Option Nat :=
  firstOf c.pat.regions fun r => c.overlap && decide (rDm1 r + 1 < depthNeed c r)

/-! ### The load (R255, R256) -/

/-- What admission finds: status, reason, die, item and amount missing. -/
structure Verdict_ where
  status : Nat
  reason : Nat
  die : Nat
  item : Nat
  short : Nat
  deriving DecidableEq, Repr

/-- Reasons 0x26 to 0x2E; the item and the amount missing. -/
def moduleFail (s : State) (x : Nat) (c : Ctx) (d : Nat) : Option (Nat × Nat × Nat) :=
  let depth := c.queueDepth 0 + c.queueDepth 1
  let depthFree := 8192 - sumNat ((loadedCtxs s).map fun y => (s.ctx y).queueDepth 0 + (s.ctx y).queueDepth 1)
  let entries := sumNat (c.pat.regions.map fun r => if rSharded r then 2 else 1)
  let flags := c.pat.declAt 5 0 20
  let withItem := fun (code : Nat) (o : Option Nat) => o.map fun i => (code, i, 0)
  if rangeBad s x c 1 then some (0x26, 0xFFFF, 0)
  else if rangeBad s x c 0 then some (0x27, 0xFFFF, 0)
  else if rangeBad s x c 2 then some (0x28, 0xFFFF, 0)
  else if freeFlags s < flags then some (0x29, 0xFFFF, flags - freeFlags s)
  else if (placeFlags s d c.pat.flagMap).isNone then some (0x29, 0xFFFF, flagShort s d c.pat.flagMap)
  else if depthFree < depth then some (0x2A, 0xFFFF, depth - depthFree)
  else if (placeRegions (s.regions.map (·.1)) c.pat.regions).isNone then some (0x2B, 0xFFFF, s.regions.length + entries - 1024)
  else match withItem 0x2C (vcFail s x c) with
    | some f => some f
    | none => match withItem 0x2D (groupFail s c) with
      | some f => some f
      | none => (depthFail c).map fun i => (0x2E, i, depthNeed c (c.reg i) - (rDm1 (c.reg i) + 1))

/-- The checks of R257 in their order, on the image bytes. An image with a poisoned unit is malformed (R512, log 156). -/
def vet (s : State) (x image vsBase fastBase slowBase : Nat) : Verdict_ :=
  let head := memRead s image 64
  let bytes := memRead s image (imgLength head)
  let d0 := leAt (memRead s (image + 64) 4) 0 1 % 8
  if image % 64 ≠ 0 ∨ fastTop < image + 320 ∨ headerBad head ∨ fastTop < image + imgLength head
      ∨ anyPoison s image (imgLength head) then ⟨stFormat, 0x01, d0, 0xFFFF, 0⟩
  else if signatureBad s bytes then ⟨stFormat, 0x02, d0, 0xFFFF, 0⟩
  else if versionBad bytes then ⟨stVersion, 0x10, d0, 0xFFFF, 0⟩
  else match contentFail s x bytes with
    | some (code, item) => ⟨stFormat, code, d0, item, 0⟩
    | none =>
      let c := { draft (patternOf bytes) with vsBase := vsBase, fastBase := fastBase, slowBase := slowBase }
      if (s.ctx x).state ≠ .empty then ⟨stResources, 0x20, d0, 0xFFFF, 0⟩
      else match pickDie s c with
        | (d, some (code, short)) => ⟨stResources, code, d, 0xFFFF, short⟩
        | (d, none) => match moduleFail s x c d with
          | some (code, item, short) => ⟨stResources, code, d, item, short⟩
          | none => ⟨stOk, 0, d, 0xFFFF, 0⟩

/-- The load result word (R256). -/
def loadResult (x : Nat) (v : Verdict_) : Nat :=
  v.reason % 256 + x % 16 * 2 ^ 8 + v.die % 8 * 2 ^ 12 + v.item % 2 ^ 16 * 2 ^ 16 + min v.short 0xFFFFFFFF * 2 ^ 32

/-- A queue of a loaded context (R216, R549). -/
def newQueue (c : Ctx) (q : Nat) : Queue :=
  ⟨c.queueDepth q, c.queueBufs q, c.bufUnits q * 4096, (rangeOf c (c.queueSpace q)).1 + c.queueStart q * 4096, [], [],
    upto (c.queueBufs q), []⟩

/-- The bucket-table entries of a Pattern (R350, R379). -/
def newBuckets (s : State) (x : Nat) (c : Ctx) : List Bucket :=
  c.buckets.map fun b => ⟨b.1, b.2, c.bucketPrec b.1 b.2, c.bucketElems b.1 b.2, x, bit c.pat.modes 4 && b.1 == podGroup s⟩

/-- Put placed map entries into the map store and give context `x` its run. -/
def installFlags (x first : Nat) (es : List Nat) (s : State) : State :=
  let store := (upto es.length).foldl (fun t i => tabSet storeDefault t (first + i) (nth 0 es i)) s.flg.store
  let s := claimRun x first es { s with flg := { s.flg with store := store } }
  modMap x (fun m => { m with first := first, nent := es.length, valid := true, poison := false, cfgErr := false }) s

/-- Every effect of an accepted load (R225, R255, R280, R350, R383). -/
def install (x : Nat) (c : Ctx) (d : Nat) (s : State) : State :=
  let idx := (placeRegions (s.regions.map (·.1)) c.pat.regions).getD []
  let regs := (upto c.pat.regions.length).flatMap fun i =>
    let at_ := nth 0 idx i
    if rSharded (c.reg i) then [(at_, newRegion s x c i false), (at_ + 1, newRegion s x c i true)] else [(at_, newRegion s x c i false)]
  let c := { c with
    state := .loaded, die := d, regionBase := idx, aq := newQueue c 0, gq := newQueue c 1,
    opBase := (opPlace s d (c.declared 3)).getD 0 }
  let bs := newBuckets s x c
  let s := match placeFlags s d c.pat.flagMap with
    | some (f, es) => installFlags x f es s
    | none => s
  let s := { s with regions := regs.foldl (fun t e => tabInsert t e.1 e.2) s.regions,
                    red := { s.red with buckets := s.red.buckets ++ bs } }
  startGathers (forgetCtxResiduals x
    (modCtx x (fun o => { c with upCredits := o.upCredits, downCredits := o.downCredits }) s))

/-- PATTERN_LOAD; its admission is delayed while an image-write session is open (R477). -/
def patternLoad (h : HostHdr) (x image vsBase fastBase slowBase : Nat) (s : State) : State :=
  if s.boot.session.isSome then
    { s with boot := { s.boot with delayedLoads := s.boot.delayedLoads ++ [.patternLoad h x image vsBase fastBase slowBase] } }
  else
  let v := vet s x image vsBase fastBase slowBase
  if v.status ≠ stOk then completeWith h v.status (loadResult x v) s
  else
    let bytes := memRead s image (imgLength (memRead s image 64))
    let c := { draft (patternOf bytes) with vsBase := vsBase, fastBase := fastBase, slowBase := slowBase }
    completeWith h stOk (loadResult x v) (install x c v.die s)

end Sys2Proof.Machine
end

