-- ==== Sys2Proof/Machine/FlagCommands.lean ====
section
/-! DEFINITION. The meanings of the flag commands: host commands, the FLG registers' actions,
and the records of peers (R283 to R306). -/
namespace Sys2Proof.Machine

/-! ### Host commands (R291, R427) -/

/-- FLAG_SET and FLAG_CLEAR: the operation, then its completion. -/
def hostFlag (h : HostHdr) (c v : Nat) (value : Bool) (s : State) : State :=
  let r := opFlag c v value s
  complete h r.2 (settleWaits r.1)

def execFlagSet (h : HostHdr) (vflag fctx : Nat) (s : State) : Host.Outcome State Fault Refusal :=
  runLive (hostFlag h fctx vflag true) s
def execFlagClear (h : HostHdr) (vflag fctx : Nat) (s : State) : Host.Outcome State Fault Refusal :=
  runLive (hostFlag h fctx vflag false) s

/-- FLAG_WAIT (R291): CONSUME is allowed only with value 1 (R283). -/
def hostWait (h : HostHdr) (v c : Nat) (val consume : Bool) (timeoutUs : Nat) (s : State) : State :=
  if consume && !val then complete h stFormat s
  else match findFlag s c v with
    | .poisoned => complete h stOwnerLost s
    | .unmapped => complete h stFormat (miss c s)
    | .at k _ =>
      if hostWaits s ≥ 1024 then complete h stResources s
      else settleWaits (holdWait ⟨.host h timeoutUs, c, v, k, val, consume⟩ s)

def execFlagWait (h : HostHdr) (vflag fctx : Nat) (val consume : Bool) (timeoutUs : Nat) (s : State) :
    Host.Outcome State Fault Refusal := runLive (hostWait h vflag fctx val consume timeoutUs) s

/-- Is `w` a host wait of tag `t`? -/
def hostTag (t : Nat) (w : Wait) : Bool := match w.who with | .host h _ => h.tag == t | _ => false

/-- End one held wait with a status. -/
def endWait (w : Wait) (status : Nat) (s : State) : State :=
  finishWait w.who status { s with flg := { s.flg with waits := dropFirst (fun u => u == w) s.flg.waits } }

/-- FLAG_WAIT with CANCEL: the oldest held wait of the tag ends ABANDONED, and the cancel completes (R427). -/
def hostCancel (h : HostHdr) (ctag : Nat) (s : State) : State :=
  match s.flg.waits.find? (hostTag ctag) with
  | some w => complete h stOk (endWait w stAbandoned s)
  | none => complete h stFormat s

def execFlagWaitCancel (h : HostHdr) (ctag : Nat) (s : State) : Host.Outcome State Fault Refusal :=
  runLive (hostCancel h ctag) s

/-- A host wait whose nonzero timeout has elapsed (R291). -/
def hostTimeout (h : HostHdr) (s : State) : State :=
  match s.flg.waits.find? (fun w => match w.who with | .host g t => g == h && t != 0 | _ => false) with
  | some w => endWait w stTimeout s
  | none => s

def execHostFlagWaitTimeout (h : HostHdr) (s : State) : Host.Outcome State Fault Refusal := runLive (hostTimeout h) s

/-! ### FLG registers (R281, R282, R304, R306) -/

/-- VALID = 1 written to a context the driver maps, while VALID = 0; OWNER of an auxiliary context is stored first. -/
def writeValid (c owner : Nat) (s : State) : State :=
  if !driverMap c || (s.map c).valid then s
  else validateMap c (if 40 ≤ c then modMap c (fun m => { m with owner := owner % 32 }) s else s)

def execFlagMapValidate (fctx owner : Nat) (s : State) : Host.Outcome State Fault Refusal :=
  runLive (writeValid fctx owner) s

/-- VALID = 0 written to a context the driver maps, while VALID = 1. -/
def writeInvalid (c : Nat) (s : State) : State := if driverMap c && (s.map c).valid then invalidateMap c s else s

def execFlagMapInvalidate (fctx : Nat) (s : State) : Host.Outcome State Fault Refusal := runLive (writeInvalid fctx) s

def execOwnerlostClear (fctx : Nat) (s : State) : Host.Outcome State Fault Refusal := runLive (endPoison fctx) s

/-- FLG_DIRECT_OP selects the flag it names for FLG_DIRECT_Q (R306). -/
def selectFlag (c v : Nat) (s : State) : State := { s with flg := { s.flg with sel := (v % 2 ^ 24, c % 64) } }

def execDirectQuery (vflag fctx : Nat) (s : State) : Host.Outcome State Fault Refusal := runLive (selectFlag fctx vflag) s
def execDirectSet (vflag fctx : Nat) (s : State) : Host.Outcome State Fault Refusal :=
  runLive (fun s => settleWaits (opFlag fctx vflag true (selectFlag fctx vflag s)).1) s
def execDirectClear (vflag fctx : Nat) (s : State) : Host.Outcome State Fault Refusal :=
  runLive (fun s => settleWaits (opFlag fctx vflag false (selectFlag fctx vflag s)).1) s

/-- OP 0x3: the overrun counter returns to 0 (R293); an ID that does not translate is a misuse (R292). -/
def clearOverrun (c v : Nat) (s : State) : State :=
  match findFlag s c v with
  | .at k _ => setFlag k { flagAt s k with ovr := 0 } s
  | _ => miss c s

def execDirectClearOverrun (vflag fctx : Nat) (s : State) : Host.Outcome State Fault Refusal :=
  runLive (fun s => clearOverrun fctx vflag (selectFlag fctx vflag s)) s

/-! ### Records of peers (R295 to R301, R342) -/

/-- A record with no token is dropped; a dropped wait is answered with REFUSED_RESOURCES (R342). -/
def tokenTake (p : Nat) (s : State) : State × Bool :=
  let q := s.port p
  let rate := fld s (oLnk p 0x30) 8 8
  let have_ := min 256000 (q.tokens + rate * ((s.glb.time + 2 ^ 64 - q.tokenAt) % 2 ^ 64))
  let ok := rate == 0 || decide (1000 ≤ have_)
  (modPort p (fun q => { q with tokens := if ok && rate != 0 then have_ - 1000 else have_, tokenAt := s.glb.time }) s, ok)

/-- A record of module `m` that names no exported flag (R299): counted, logged; a wait is answered PRIVILEGE. -/
def dropRecord (p m : Nat) (r : FlagRec) (s : State) : State :=
  let s := logEv 0x0E stPrivilege agHub { port := p, arg := r.vflag % 2 ^ 24 + r.fctx % 64 * 2 ^ 24 } (miss r.fctx s)
  let s := if r.op = 3 ∨ r.op = 4 then sendRecTo p m (wakeRec stPrivilege r.wtag) s else s
  dropItem p errFlag s

/-- A set or clear of a peer applies (R299, R303). -/
def peerOp (p m : Nat) (r : FlagRec) (s : State) : State :=
  match findFlag s r.fctx r.vflag with
  | .poisoned => miss r.fctx s
  | .unmapped => dropRecord p m r s
  | .at k ex => if ex then settleWaits (actFlag r.fctx r.vflag k (r.op == 1) s) else dropRecord p m r s

/-- A wait of module `m` (R299, R300, R303). -/
def peerWait (p m : Nat) (r : FlagRec) (s : State) : State :=
  match findFlag s r.fctx r.vflag with
  | .poisoned => sendRecTo p m (wakeRec stOwnerLost r.wtag) s
  | .unmapped => dropRecord p m r s
  | .at k ex =>
    if !ex then dropRecord p m r s
    else if (s.port p).remoteWaits ≥ 256 then sendRecTo p m (wakeRec stResources r.wtag) s
    else
      settleWaits (holdWait ⟨.remote p m r.wtag, r.fctx, r.vflag, k, r.op == 3, r.op == 3 && r.consume⟩
        (modPort p (fun q => { q with remoteWaits := q.remoteWaits + 1 }) s))

/-- Remove a held wait of module `m` without a wake (R300). -/
def peerCancel (p m wtag : Nat) (s : State) : State :=
  match s.flg.waits.find? (fun w => w.who == .remote p m wtag) with
  | some w => modPort p (fun q => { q with remoteWaits := q.remoteWaits - 1 })
      { s with flg := { s.flg with waits := dropFirst (fun u => u == w) s.flg.waits } }
  | none => s

/-- A wake of module `m` completes this module's wait of that tag there (R300). -/
def peerWake (p m : Nat) (r : FlagRec) (s : State) : State :=
  match s.flg.farWaits.find? (fun f => f.port == p && f.mod == m && f.wtag == r.wtag) with
  | some f => settleWaits (endSeqWait f.ctx r.status
      { s with flg := { s.flg with farWaits := dropFirst (fun g => g == f) s.flg.farWaits } })
  | none => s

/-- Capability bits the sender of a record must hold (R335, R336). -/
def recordCaps (p : Nat) (r : FlagRec) (s : State) : Bool :=
  let c := (s.port p).ncap
  (if r.fence then bit c 5 else true) && (if 3 ≤ r.op ∧ r.op ≤ 6 then bit c 6 else true)

/-- A flag record of module `m` applies (R294 to R300). A reserved OP drops it. -/
def applyRecord (p m : Nat) (r : FlagRec) (s : State) : State :=
  if r.op = 1 ∨ r.op = 2 then peerOp p m r s
  else if r.op = 3 ∨ r.op = 4 then peerWait p m r s
  else if r.op = 5 then peerCancel p m r.wtag s
  else if r.op = 6 then peerWake p m r s
  else dropItem p errFlag (logEv 0x0E stPrivilege agHub { port := p, arg := r.vflag % 2 ^ 24 + r.fctx % 64 * 2 ^ 24 } s)

/-- A stand-alone flag record of module `m` arrives on VC15 of port `p`: it applies, or waits for its markers, or behind a record
that does (R297, R298). -/
def recordIn (p m : Nat) (r : FlagRec) (s : State) : State :=
  if !(s.port p).carrying then s
  else if !recordCaps p r s then protoError p s
  else
    let t := tokenTake p s
    let s := t.1
    if !t.2 then
      dropItem p errRate (if r.op = 3 ∨ r.op = 4 then sendRecTo p m (wakeRec stResources r.wtag) s else s)
    else if r.fence && (r.op == 1 || r.op == 2) || !(s.port p).pendingRecs.isEmpty then
      modPort p (fun q => { q with
        pendingRecs := q.pendingRecs ++ [(m, { r with fence := r.fence && (r.op == 1 || r.op == 2) })] }) s
    else applyRecord p m r s

/-- A row of a record names no module that sent it: it is the partner of the port (log 176). -/
def recordFrom (p : Nat) (r : FlagRec) (s : State) : State := recordIn p (s.port p).peerMod r s

/-- The receiver keeps the SEQ of the last marker of each VC (R297), with the transfers of the VC before it that are
not committed yet. -/
def markerIn (p vc seq : Nat) (s : State) : State :=
  if !(s.port p).carrying then s
  else if vc > 14 ∨ !bit (s.port p).ncap 5 then protoError p s
  else
    let open_ := ((s.port p).inWrite.filter fun w => w.1 == vc).length
    modPort p (fun q => { q with fences := q.fences.filter (fun f => f.1 != vc) ++ [(vc, seq % 2 ^ 16, open_)] }) s


/-- Records received behind a fenced one apply, in sending order, up to the next fenced one (R298); `k` bounds how many. -/
def applyQueued : Nat → Nat → State → State
  | 0, _, s => s
  | k + 1, p, s =>
    match (s.port p).pendingRecs with
    | [] => s
    | (m, r) :: rest =>
      if r.fence then s else applyQueued k p (applyRecord p m r (modPort p (fun q => { q with pendingRecs := rest }) s))

/-- Records that no fenced one holds back any more apply: those left, from `s` to `t`, where a port that entered DOWN has discarded
the fenced record before them (R298, R301). -/
def applyLeft (s t : State) : State :=
  (upto 16).foldl (fun u p => if (t.port p).pendingRecs = (s.port p).pendingRecs then u
    else applyQueued (u.port p).pendingRecs.length p u) t

/-- A fenced record that waits applies once its condition holds, the first received first (R297, R298); the records received
behind it follow. -/
def fencedApply (p : Nat) (r : FlagRec) (s : State) : State :=
  let q := s.port p
  match q.pendingRecs with
  | [] => s
  | (m, u) :: rest =>
    if u == r && r.fence && fenceMet q r then
      let s := applyRecord p m r (modPort p (fun q => { q with pendingRecs := rest }) s)
      applyQueued (s.port p).pendingRecs.length p s
    else s

end Sys2Proof.Machine
end

