-- ==== Sys2Proof/Machine/Transfers.lean ====
section
/-! DEFINITION. Transfers that arrive over a stage link (R295, R297, R321, R330 to R333): window writes and their commit,
queue entries, gathers, and the dispatch of a whole transfer by its TKIND. -/
namespace Sys2Proof.Machine

/-! ### Window writes (R331 to R333) -/

/-- A transfer for another module (R321). -/
def misdirected (p srcmod w tkind : Nat) (s : State) : State :=
  dropItem p errDest (logEv 0x0C stPrivilege agHub
    { port := p, arg := srcmod % 2 ^ 16 + w % 64 * 2 ^ 16 + tkind % 16 * 2 ^ 24 } s)

/-- The header table is kept (R330). -/
def xferOk (vc : Nat) (h : XferHdr) : Bool :=
  let vcs := match h.tkind with
    | 0 => [14] | 1 => [0, 1, 2, 3] | 2 => [4, 5] | 3 => [6] | 4 => [7] | 5 => [8, 9, 10, 11, 12, 13] | 6 => [0, 1, 2, 3]
    | 7 => upto 15 | _ => []
  let own := h.tkind == 1 || h.tkind == 6
  !h.resv && vcs.contains vc && h.bytes % 64 == 0 && (h.tkind == 1 || h.offset % 64 == 0) && h.tdesc == (h.tkind == 1 || h.tkind == 4)
    && (h.tkind != 7 || h.bytes == 0) && (h.tkind == 7 || h.seq == 0)
    && (h.tkind != 6 || decide (2 * h.count ≤ h.bytes)) && (own || h.ctx == 0 && h.q == 0 && h.count == 0)

/-- A transfer that its window or the header table refuses (R331). Of a queue entry R218 and R49 hold as well: QUEUE, the count and
the vector of a discard, and the credit; the entry of the log and the count of the port are those of R331 (log 178). -/
def refuseXfer (p srcmod : Nat) (h : XferHdr) (s : State) : State :=
  let s := refuseWindow p srcmod h.win h.tkind s
  if h.tkind = 1 then
    raiseIf (fld s oStrCfg 0 1 == 1) 1 (bump oStrCfg 16 16 1 (setBit (oLnk p 0x200) errQueue (returnCredit h.ctx h.q h.count s)))
  else s

/-- WINDOW_WRITE: the checks of the FIRST flit, then the bytes. -/
def windowWrite (p vc srcmod dstmod : Nat) (h : XferHdr) (data : List Byte) (s : State) : State :=
  if !(s.port p).carrying then s
  else if dstmod ≠ modId s then misdirected p srcmod h.win h.tkind s
  else if h.tkind ≠ 0 ∨ !xferOk vc h ∨ !windowOk s p h.win 0 vc srcmod h.offset h.bytes then refuseXfer p srcmod h s
  else
    let a := windowAddr s p h.win h.offset
    let d := data.take h.bytes
    let s := if inOneRange a d.length then devWrite a d s else s
    modPort p (fun q => { q with inWrite := q.inWrite ++ [(vc, h.win, true)] }) s

/-- A tail flag record of module `m` applies: a set or a clear (R295, R299). It draws on the token bucket of the port (R342). -/
def tailRecord (p m : Nat) (r : FlagRec) (s : State) : State :=
  let t := tokenTake p s
  if !t.2 then dropItem p errRate t.1
  else if r.op = 1 ∨ r.op = 2 then peerOp p m r t.1
  else dropItem p errFlag (logEv 0x0E stPrivilege agHub { port := p, arg := r.vflag % 2 ^ 24 + r.fctx % 64 * 2 ^ 24 } t.1)

/-- The tail record of an arrival, which applies unless the arrival is discarded (R331, R333). -/
def tailOf (p m : Nat) (taken : Bool) (r : Option FlagRec) (s : State) : State :=
  match r with
  | some r => if taken && (s.port p).carrying then tailRecord p m r s else s
  | none => s

/-- The oldest transfer of a VC whose bytes are all committed (R333); the fences after it wait for one less (R297). -/
def transferCommit (p vc : Nat) (desc : Option QDesc) (rec : Option FlagRec) (s : State) : State :=
  match (s.port p).inWrite.find? fun w => w.1 == vc with
  | none => s
  | some w =>
    let s := modPort p (fun q => { q with
      inWrite := dropFirst (fun v => v.1 == vc) q.inWrite,
      fences := q.fences.map fun f => if f.1 = vc then (f.1, f.2.1, f.2.2 - 1) else f }) s
    if !w.2.2 then s
    else
      let taken := match desc with
        | some d => entryTaken s d.ctx d.q d.buf d
        | none => true
      let s := match desc with
        | some d => entryArrives (.link p (s.port p).peerMod) d.ctx d.q d.buf d [] s
        | none => s
      match rec with
      | some r => if taken then tailRecord p (s.port p).peerMod r s else s
      | none => s

/-! ### Queue entries (R214, R218) -/

def queueEntry (p srcmod hbuf hctx hq : Nat) (d : QDesc) (data : List Byte) (s : State) : State :=
  if (s.port p).carrying then entryArrives (.link p srcmod) hctx hq hbuf d data s else s


/-! ### Gathers (R237 to R240) -/

/-- What becomes of a gather message: a reserved KIND is discarded as a reserved phase is, else R47 decides (log 60). -/
def gatherClass (s : State) (h : GatherHdr) : Verdict :=
  if 2 < h.kind then .discard 1 else gatherVerdict s h.stamp

/-- A gather message that is accepted or held. -/
def gatherKept (s : State) (h : GatherHdr) : Bool := match gatherClass s h with | .discard _ => false | _ => true

/-- A gather message arrives: it is discarded, held as the command that brings it again, or acts and offers its stamp. -/
def gatherComes (p : Nat) (h : GatherHdr) (cmd : Instr) (act : State → State) (s : State) : State :=
  if !(s.port p).carrying then s
  else match gatherClass s h with
    | .discard row => discardLog 0x01 stAbandoned { stamp := some h.stamp, port := p, arg := row } s
    | .hold => { s with heldArr := s.heldArr ++ [(0, cmd)] }
    | .accept => act (offerNow h.stamp p s)

/-- A gather request at the owner. -/
def gatherAsked (p srcmod : Nat) (h : GatherHdr) (s : State) : State :=
  gatherComes p h (.gatherRequest p srcmod h) (serveGather p srcmod h) s

def execGatherRequest (p srcmod : Nat) (hdr : GatherHdr) (s : State) : Host.Outcome State Fault Refusal :=
  runLive (gatherAsked p srcmod hdr) s

/-- The entry whose gathered copy of `h.gen` is under way and whose owner entry and member a response names. -/
def gatherEntry (s : State) (srcmod : Nat) (h : GatherHdr) : Option (Nat × Nat) :=
  s.regions.findSome? fun e =>
    if e.2.sharded && !e.2.owned && gatherRegion s e.2.ctx e.2.localIdx == h.region
        && e.2.slots.any (fun v => (v.state == .pending || v.state == .restoring) && v.gen == h.gen) then
      (memberOf s e.2.grp srcmod).map fun m => (e.1, m)
    else none

/-- A response lands a shard in the gathered slot, or tells that the generation is absent. -/
def landShard (srcmod : Nat) (h : GatherHdr) (data : List Byte) (s : State) : State :=
  match gatherEntry s srcmod h with
  | none => s
  | some (r, m) =>
    let e := s.region r
    let x := e.ctx
    if h.kind = 2 then
      let s := setBit (oAnt 4) 1 (stopCtx x stExhausted s)
      raise (ctxVec x) (logEv 0x07 stExhausted agHub { ctx := x } s)
    else if h.kind = 1 then
      match e.slots.find? fun v => (v.state == .pending || v.state == .restoring) && v.gen == h.gen && !e.landed.isEmpty with
      | none => s
      | some v =>
        let room := versionBytes s x e.localIdx
        let s := if h.offset + data.length ≤ room then devWrite (v.loc + h.offset) data s else s
        let s := modRegion r (fun e => { e with landed := if e.landed.contains m then e.landed else e.landed ++ [m] }) s
        progress x (pumpAllExperts (finishGather r h.gen s))
    else s

/-- A gather response arrives. -/
def gatherAnswered (p srcmod : Nat) (h : GatherHdr) (data : List Byte) (s : State) : State :=
  gatherComes p h (.gatherResponse p srcmod h data) (landShard srcmod h data) s

/-- The receive window that a response of KIND 0x1 goes to: the first of the port that admits it (R238, R331, log 127). -/
def gatherWindow (s : State) (p srcmod : Nat) (h : GatherHdr) (data : List Byte) : Option Nat :=
  (upto 64).find? fun w => windowOk s p w 4 7 srcmod h.offset data.length && inOneRange (windowAddr s p w h.offset) data.length

/-- GATHER_RESPONSE: the data of an accepted response lands in the receive window at OFFSET (R238), then in the gathered
slot. -/
def gatherResponds (p srcmod : Nat) (h : GatherHdr) (data : List Byte) (s : State) : State :=
  let land := (s.port p).carrying && decide (gatherClass s h = .accept) && h.kind == 1
  match gatherWindow s p srcmod h data with
  | some w => gatherAnswered p srcmod h data (if land then devWrite (windowAddr s p w h.offset) data s else s)
  | none => gatherAnswered p srcmod h data s

/-! ### A whole transfer by its TKIND (R330) -/

/-- The context that a batch is for: the header names none, so the first whose checks it passes (log 61). -/
def batchContext (s : State) (srcmod : Nat) (b : BatchHdr) (words : List Nat) : Nat :=
  ((upto 16).find? fun x => !batchBad s x srcmod b words).getD 0
/-- The context that a ring block is for, likewise (log 61). -/
def ringContext (s : State) (r : RingHdr) : Nat := ((upto 16).find? fun x => !ringBad s x r).getD 0

/-- Data of the transfer goes to memory: reduction partials go to the adders (R363). -/
def landsData (h : XferHdr) : Bool := [0, 2, 3].contains h.tkind || (h.tkind == 4 && h.bytes != 0)

/-- The transfer uses a receive window (R330): window writes, batches, ring blocks, gather responses (a request has no
data) and reduction partials. -/
def windowed (h : XferHdr) : Bool := [0, 2, 3, 5].contains h.tkind || (h.tkind == 4 && h.bytes != 0)

/-- Body bytes a header announces. -/
def bodyBytes (h : XferHdr) : Nat := 32 + h.bytes + (if h.tdesc then 32 else 0) + (if h.tflag then 16 else 0)

/-- The checks of R321 and R331 at the FIRST flit: is the transfer taken? -/
def admitXfer (p vc srcmod dst : Nat) (h : XferHdr) (s : State) : State × Bool :=
  if dst ≠ modId s then (misdirected p srcmod h.win h.tkind s, false)
  else if !xferOk vc h then (refuseXfer p srcmod h s, false)
  else if windowed h && !windowOk s p h.win h.tkind vc srcmod h.offset h.bytes then (refuseXfer p srcmod h s, false)
  else (s, true)

/-- A batch or ring block that its checks and R47 let in, at once or held. -/
def stampKept (s : State) (t : Stamp) : Bool := match verdict s t with | .discard _ => false | _ => true

/-- The flits of a transfer whose header has come stay in the receive buffer: R47 holds the arrival, or its receive partition has no
room (R48, R190, R197, R327). A gather message shows its stamp with its last flit only. -/
def staysInBuffer (s : State) (p : Nat) (body : List Byte) : Bool :=
  let data := body.drop 32
  match (xferOf body).tkind with
  | 2 => match verdict s (batchHdrOf data).stamp with
    | .hold => true
    | .accept => batchWaits s p body
    | .discard _ => false
  | 3 => verdict s (ringHdrOf data).stamp == .hold
  | 5 => verdict s (partialOfBytes data).stamp == .hold
  | _ => false

/-- Take the content of a transfer that was admitted and has arrived whole: data, then tail items, which a discarded arrival
does not apply (R49, R331, R333). `refused` tells that R218 refused the header of a queue entry at its FIRST flit. -/
def takeTransfer (p vc srcmod : Nat) (refused : Bool) (body : List Byte) (s : State) : State :=
  let h := xferOf body
  let data := (body.drop 32).take h.bytes
  let tail := body.drop (32 + h.bytes)
  let rec_ := if h.tflag then some (recOf (if h.tdesc then tail.drop 32 else tail)) else none
  match h.tkind with
  | 1 =>
    let d := descOf tail
    if refused then refuseEntry (.link p srcmod) h.ctx h.q h.count d s
    else tailOf p srcmod (entryTaken s h.ctx h.q h.count d) rec_ (queueEntry p srcmod h.count h.ctx h.q d data s)
  | 2 =>
    let b := batchHdrOf data
    let words := (upto b.count).map fun i => leAt data (32 + 4 * i) 4
    let x := batchContext s srcmod b words
    let rows := (data.drop (roundUp (32 + 4 * b.count) 64)).take (b.count * b.rowbytes)
    tailOf p srcmod (!batchBad s x srcmod b words && stampKept s b.stamp) rec_ (batchArrives (some p) x srcmod b words rows s)
  | 3 =>
    let r := ringHdrOf data
    let x := ringContext s r
    tailOf p srcmod (!ringBad s x r && stampKept s r.stamp) rec_ (ringArrives p x srcmod r (data.drop 64) s)
  | 4 =>
    let g := gatherOf tail
    tailOf p srcmod (gatherKept s g) rec_ (if g.kind = 0 then gatherAsked p srcmod g s else gatherAnswered p srcmod g data s)
  | 5 =>
    let r := partialOfBytes data
    let recs := data.drop 64
    tailOf p srcmod (partialKept s srcmod r recs) rec_ (partialTaken (.reductionPartialArrival p vc srcmod r recs) p srcmod r recs s)
  | 6 => tailOf p srcmod true rec_ (takeCredits p srcmod h.ctx h.q ((upto h.count).map fun i => leAt data (2 * i) 2) s)
  | 7 => tailOf p srcmod true rec_ (markerIn p vc h.seq s)
  | _ => tailOf p srcmod true rec_ s

/-- A window is disabled: transfers into it end, whatever has come of them stays (R332). -/
def killWindow (p w : Nat) (s : State) : State :=
  modPort p (fun q => { q with
    inWrite := q.inWrite.map (fun v => if v.2.1 = w then (v.1, w, false) else v),
    rxPart := q.rxPart.map fun r =>
      let h := xferOf r.body
      if windowed h && h.win == w then { r with alive := false } else r }) s

end Sys2Proof.Machine
end

