-- ==== Sys2Proof/Machine/Stride.lean ====
section
/-! DEFINITION. STEP_BEGIN and STEP_ABANDON (R40 to R54, R152, R180, R207, R229, R243, R392, R401) and the event slots of
the STR block (R55 to R59, R65). -/
namespace Sys2Proof.Machine

/-! ### Waiting (R241) -/

/-- A context is waiting: it runs and holds a slot in flight or an accepted step it has not completed. -/
def isWaiting (s : State) (x : Nat) : Bool :=
  let c := s.ctx x
  c.state == .running && (decide (0 < c.inflight) || s.str.steps.any fun r =>
    decide ((match c.phaseCount.find? (fun e => e.1 == r.step && e.2.1 == phB) with | some e => e.2.2 | none => 0) < r.m))

/-- The waits that changed since `was`: one that begins is measured from now, one that ends has given no warning (R241). -/
def noteWaits (was s : State) : State :=
  (upto 16).foldl (fun s x =>
    if isWaiting s x && !isWaiting was x then progress x s
    else if isWaiting s x then s else modCtx x (fun c => { c with warned := false }) s) s

/-! ### Work of a step or an epoch -/

/-- Drop what context `x` holds of the stamps `p` selects; `q` selects the steps of what names no stamp. Queue entries
are not touched. -/
def dropStamps (p : Stamp → Bool) (q : Nat → Bool) (x : Nat) (s : State) : State :=
  let c := s.ctx x
  let gone := c.slots.filter fun w => p w.stamp
  let goneP := c.pairs.filter fun w => p w.stamp
  let broken : Option Chain → Option Chain := fun h => match h with
    | some k => if k.links.any (fun l => p l.2) then none else some k
    | none => none
  let s := modCtx x (fun c => { c with
    slots := c.slots.filter (fun w => !p w.stamp), pairs := c.pairs.filter (fun w => !p w.stamp),
    issued := c.issued.filter (fun i => !p i.stamp), chain := broken c.chain,
    outgoing := c.outgoing.filter (fun o => !p o.desc.stamp), remoteOps := c.remoteOps.filter (fun r => !p r.2.2),
    batches := c.batches.filter (fun b => !p b.hdr.stamp), experts := c.experts.filter (fun b => !p b.stamp),
    combines := c.combines.filter (fun b => !p b.hdr.stamp), batchSeen := c.batchSeen.filter (fun b => !p b.2.stamp),
    ringHeld := c.ringHeld.filter (fun b => !p b.hdr.stamp), ringSeen := c.ringSeen.filter (fun b => !p b.stamp),
    ringMerged := c.ringMerged.filter (fun b => !p b.2.1), ringSent := c.ringSent.filter (fun b => !p b.2.1),
    tempos := c.tempos.filter (fun b => !p b.stamp),
    injected := c.injected.filter (fun e => !q e.1), phaseCount := c.phaseCount.filter (fun e => !q e.1),
    windowsDone := c.windowsDone.filter (fun e => !q e.1),
    wActive := (match c.wActive with | some (n, w) => if q n then none else some (n, w) | none => none),
    wDone := (match c.wActive with | some (n, _) => if q n then [] else c.wDone | none => c.wDone) }) s
  let s := (gone.filterMap (·.aBuf)).foldl (fun s b => freeBuf x 0 b s) s
  (((gone.filter (·.bStarted)).filterMap (·.gBuf)) ++ (goneP.filterMap (·.gBuf))).eraseDups.foldl (fun s b => freeGrad x b s) s

/-- The command is a stalled batch whose stamp `p` selects. -/
def stalledWith (p : Stamp → Bool) (i : Instr) : Bool := match i with | .moeBatchArrival _ _ _ h _ _ => p h.stamp | _ => false

/-- Every context drops those stamps, and their bindings are released. -/
def dropEverywhere (p : Stamp → Bool) (q : Nat → Bool) (s : State) : State :=
  let s := (upto 16).foldl (fun s x => dropStamps p q x s) (dropStalled (stalledWith p) s)
  releaseOpen (fun p r => staysInBuffer s p r.body) (releaseWhere (fun b => p b.stamp) s)

/-- PORT of a log entry for a queue entry: its port, or the die interface (R529). -/
def entryPort (d : QDesc) : Nat := if d.src < 16 then d.src else if d.src = 0x20 then 0x12 else 0x1F

/-- The port of the member with module ID `m` of a KIND. -/
def portOfMod (s : State) (kind m : Nat) : Nat :=
  match (members s kind).find? fun k => k.2.1 == m with
  | some k => if k.2.2 ≤ 15 then k.2.2 else 0x1F
  | none => 0x1F

/-- Stamps and ports of the batches and ring blocks that context `x` has accepted and not consumed, and that `p` selects
(R207). -/
def unconsumed (p : Stamp → Bool) (x : Nat) (s : State) : List (Stamp × Nat) :=
  let c := s.ctx x
  let prev := match (members s (seqKind x)).find? (fun k => k.1 + 1 == ownMember s (seqKind x)
      || k.1 + 1 == seqSize c && ownMember s (seqKind x) == 0) with | some k => portOfMod s (seqKind x) k.2.1 | none => 0x1F
  (((c.batches ++ c.combines).filter fun b => p b.hdr.stamp).map fun b => (b.hdr.stamp, portOfMod s (expertKind x) b.sender))
    ++ ((c.ringHeld.filter fun b => p b.hdr.stamp && !c.ringMerged.contains (b.hdr.layer, b.hdr.stamp, b.hdr.origin, b.hdr.hop)).map
      fun b => (b.hdr.stamp, prev))

/-- Stamps and ports of the stalled batches that `p` selects. -/
def stalledStamps (p : Stamp → Bool) (s : State) : List (Stamp × Nat) :=
  s.stalled.filterMap fun q => match q.2 with
    | .moeBatchArrival port _ _ h _ _ => if p h.stamp then some (h.stamp, port.getD 0x1F) else none
    | _ => none

/-- Queue entries that `p` selects, with their context and queue, in the order of context, queue and arrival. -/
def entriesWith (s : State) (p : QEntry → Bool) : List (Nat × Nat × QEntry) :=
  (upto 16).flatMap fun x => (upto 2).flatMap fun q => (((s.ctx x).queue q).entries.filter p).map fun e => (x, q, e)

/-! ### The condition and the firing of an event slot (R55 to R59, R65) -/

/-- Context `x` has completed `phase` for all M slots of step `n`; a committed step has (log 59). -/
def phaseDone (s : State) (x phase n : Nat) : Bool :=
  let had := match (s.ctx x).phaseCount.find? (fun e => e.1 == n && e.2.1 == phase) with | some e => e.2.2 | none => 0
  [phF, phX, phB, phW].contains phase && (decide (n ≤ s.c) && (s.ctx x).state != .empty || match s.stepRec n with
    | some r => decide (r.m ≤ had)
    | none => false)

/-- Generation `g` of table entry `r` has no reference and a newer one is LIVE. -/
def versionFree (s : State) (r g : Nat) : Bool :=
  match s.region? r with
  | none => false
  | some e =>
    let ref := match e.slots.find? (fun v => v.gen == g && v.state != .free && v.state != .pending) with
      | some v => v.ref
      | none => 0
    ref == 0 && e.slots.any fun v => v.state == .live && genNewer v.gen g

/-- The condition of slot `k` (R65), against stamps of the current epoch (R59). A reserved PHASE ranks after every other; a step
completes F, X, B and W alone; a group without a bucket has landed (log 157). -/
def eventTrue (s : State) (k : Nat) : Bool :=
  let f := fun lo n => fld s (oEvt k 0) lo n
  let n := nth 0 s.str.evtStep k
  let arg := fld s (oEvt k 8) 0 16
  match f 0 4 with
  | 1 => s.str.valid && s.str.now.epoch == s.str.epoch
      && decide (strideKey ⟨s.str.epoch, n, arg, f 4 4⟩ ≤ strideKey s.str.now)
  | 2 => phaseDone s (f 8 4) (f 4 4) n
  | 3 => versionFree s (fld s (oEvt k 8) 16 16) (arg % 4096)
  | 4 => decide (n ≤ s.c) || groupLanded s (arg % 8) n
  | 5 => decide (n ≤ s.c)
  | _ => false

/-- The actions of slot `k`, which is disarmed and shows FIRED (R55). -/
def fireNow (k : Nat) (s : State) : State :=
  let irq := fld s (oEvt k 0) 12 1 == 1
  let flag := fld s (oEvt k 0) 13 1 == 1
  let s := setBit (oEvt k 0) 17 (setFld (oEvt k 0) 16 1 0 s)
  let s := raiseIf irq 3 s
  if flag then settleWaits (opFlag (fld s (oEvt k 0xC) 24 6) (fld s (oEvt k 0xC) 0 24) true s).1 else s

/-- STR_EVT_FIRE: an armed slot whose condition holds fires (log 128). -/
def fireEvent (k : Nat) (s : State) : State :=
  if k < 16 ∧ fld s (oEvt k 0) 16 1 = 1 ∧ eventTrue s k then fireNow k s else s

/-! ### STEP_ABANDON (R401) -/

/-- The update of step `n` stops. -/
def stopUpdate (n : Nat) (s : State) : State :=
  let was := fun o => o == some n
  { s with upd := { s.upd with
      nfStep := if was s.upd.nfStep then none else s.upd.nfStep,
      pass := if was (s.upd.pass.map (·.step)) then none else s.upd.pass,
      ready := s.upd.ready && s.upd.readyStep != n, failed := if was s.upd.failed then none else s.upd.failed } }

/-- Event slots armed for one of the steps `ns` that wait: armed, resolved to it, in ascending order. -/
def armedFor (s : State) (ns : List Nat) : List Nat :=
  (upto 16).filter fun k => fld s (oEvt k 0) 16 1 == 1 && ns.contains (nth 0 s.str.evtStep k)

/-- Event slots armed for the abandoned steps end, in ascending order (R57, R58): one whose condition is true before the
abandonment (`due`) or through it fires, any other is aborted. -/
def endEvents (ns due : List Nat) (s : State) : State :=
  (armedFor s ns).foldl (fun s k =>
    if due.contains k || eventTrue s k then fireNow k s else setBit (oEvt k 0) 18 (setFld (oEvt k 0) 16 1 0 s)) s

/-- The effect `f` of an abandonment of steps `ns`, with the end of their event slots. -/
def withEvents (ns : List Nat) (f : State → State) (s : State) : State :=
  endEvents ns ((armedFor s ns).filter (eventTrue s)) (f s)

/-- An uncommitted step is discarded whole. -/
def discardStep (n : Nat) (s : State) : State :=
  let mine := fun t : Stamp => t.step == n && t.epoch == s.str.epoch
  let es := entriesWith s fun e => e.desc.kind != 2 && mine e.desc.stamp
  let s := es.foldl (fun s e => dropEntry e.1 e.2.1 e.2.2 s) s
  let s := dropEverywhere mine (fun m => m == n) s
  let s := if n = s.c + 1 then serveHeld (abandonVersions s) else s
  let s := forgetResiduals n (stopUpdate n (closeEverywhere n s))
  { s with str := { s.str with steps := s.str.steps.filter fun r => r.step != n } }

/-- STEP_ABANDON of an uncommitted step. -/
def abandonStep (n : Nat) (s : State) : State := withEvents [n] (discardStep n) s

/-- The committed step is taken back, with both steps after it (R230, R400). -/
def takeBack (s : State) : State :=
  let c := s.c
  let s := discardStep (c + 1) (discardStep (c + 2) s)
  let nf := if s.upd.nfStep = some c then none else s.upd.nfStep
  let upd := { s.upd with committed := c - 1, rollbackOk := false, ready := false, nfStep := nf }
  let s := startGathers (retireAll { s with upd := upd, regions := s.regions.map fun e => (e.1, rollbackRegion c e.2) })
  endPoisoned c (forgetResiduals c s)

/-- STEP_ABANDON of the committed step. -/
def rollBack (s : State) : State := withEvents [s.c, s.c + 1, s.c + 2] takeBack s

def stepAbandon (h : HostHdr) (n : Nat) (s : State) : State :=
  if n = s.c + 1 ∨ n = s.c + 2 then noteWaits s (complete h stOk (abandonStep n s))
  else if n = s.c ∧ s.upd.rollbackOk then noteWaits s (complete h stOk (rollBack s))
  else complete h stFormat s

/-! ### STEP_BEGIN (R44, R45, R50 to R52) -/

/-- η is NaN, an infinity or negative; a negative zero is not negative. -/
def badEta (e : Nat) : Bool := !f32finite e || (bit e 31 && decide (e % 2 ^ 31 ≠ 0))

/-- What the module latches at an accepted STEP_BEGIN (R152, R392). -/
def latchStep (e n m eta : Nat) (s : State) : StepRec :=
  ⟨e, n, m, eta, [regGet s (oUpd 0x020), regGet s (oUpd 0x024), regGet s (oUpd 0x028), regGet s (oUpd 0x02C), regGet s (oUpd 0x030)],
    (upto 4).map fun d => regGet s (oCmp d 0x400) + 2 ^ 32 * regGet s (oCmp d 0x404)⟩

/-- The epoch changes to `e`: entries, batches and ring blocks of the old epoch are discarded under R49, its work and bindings go (R50, R207,
R229), its reduction closes (R377). While VALID = 0 there is no old epoch. -/
def changeEpoch (e : Nat) (s : State) : State :=
  let old := s.str.epoch
  let mine := fun t : Stamp => t.epoch == old
  let s :=
    if !s.str.valid then s
    else
      let es := entriesWith s fun q => q.desc.kind != 2 && mine q.desc.stamp
      let s := es.foldl (fun s q => discardLog 0x01 stAbandoned
        { stamp := some q.2.2.desc.stamp, port := entryPort q.2.2.desc, arg := 3 }
        (dropEntry q.1 q.2.1 q.2.2 s)) s
      let s := ((upto 16).flatMap (fun x => unconsumed mine x s) ++ stalledStamps mine s).foldl (fun s b =>
        discardLog 0x01 stAbandoned { stamp := some b.1, port := b.2, arg := 3 } s) s
      endSlotWaits (closeEpoch (dropEverywhere mine (fun _ => true) s))
  { s with str := { s.str with epoch := e, valid := true, steps := [] }, upd := { s.upd with nfStep := none },
           ctxs := s.ctxs.map fun c => { c with aq := { c.aq with seen := [] }, gq := { c.gq with seen := [] } } }

/-- A held arrival becomes eligible: its epoch is the new one and its step lies in the window (R48). -/
def becomesEligible (s : State) (t : Stamp) : Bool :=
  t.epoch == s.str.epoch && decide (s.c < t.step) && decide (t.step ≤ s.c + 2)

/-- A held gather message becomes eligible: its epoch is the new one; its step is no later than the window, which it need not
reach (log 60). -/
def gatherEligible (s : State) (h : GatherHdr) : Bool :=
  h.stamp.epoch == s.str.epoch && decide (h.stamp.step ≤ s.c + 2)

/-- Resolve one held queue entry; the stamp and source it offers, if any, join `acc`. -/
def resolveEntry (acc : State × List (Nat × Stamp)) (e : Nat × Nat × QEntry) : State × List (Nat × Stamp) :=
  let (s, offers) := acc
  let (x, q, en) := e
  let d := en.desc
  let port := entryPort d
  if !becomesEligible s d.stamp then
    (discardLog 0x01 stAbandoned { stamp := some d.stamp, port := port, arg := (classify s d.stamp).row } (dropEntry x q en s), offers)
  else if ((s.ctx x).queue q).seen.contains d.stamp then
    let mod := if d.src < 16 then (s.port d.src).peerMod else 0
    let s := discardLog 0x0B stFormat ⟨some d.stamp, port, x, mod⟩ (dropEntry x q en s)
    (if d.src < 16 then dropItem d.src errQueue s else s, offers)
  else
    (modQueue x q (fun u => { u with
      entries := u.entries.map (fun f => if f = en then { f with held := false } else f), seen := u.seen ++ [d.stamp] }) s,
      offers ++ [(d.src, d.stamp)])

/-- SRC of STR_NOW for an entry's source code (R65). -/
def srcCode (src : Nat) : Nat := if src < 0x20 then src else 0xFF

/-- Does a held arrival other than a queue entry act once it is eligible? With its SRC and its stamp. -/
def arrivalOffer (s : State) (i : Instr) : Option (Nat × Stamp) :=
  let on := fun (src : Nat) (t : Stamp) (ok : Bool) => if becomesEligible s t && ok then some (src, t) else none
  match i with
  | .moeBatchArrival port x m h idxs _ => on (port.getD (0x10 + x)) h.stamp (!batchBad s x m h idxs)
  | .ringBlockArrival p x _ h _ => on p h.stamp (!ringBad s x h)
  | .reductionPartialArrival p _ m h data => on p h.stamp (partialFit s m h data).isSome
  | .gatherRequest p _ h => if gatherEligible s h then some (p, h.stamp) else none
  | .gatherResponse p _ h _ => if gatherEligible s h then some (p, h.stamp) else none
  | _ => none

/-- Resolve one held batch, ring block, gather message or partial: take it, or discard it; what it offers joins `acc`. Its flits
leave the receive buffer, but for those of a batch that finds its partition full. -/
def resolveArrival (acc : State × List (Nat × Stamp)) (h : Nat × Instr) : State × List (Nat × Stamp) :=
  let (s, offers) := acc
  let i := h.2
  let drop := fun (t : Stamp) (port : Nat) (s : State) =>
    discardLog 0x01 stAbandoned { stamp := some t, port := port, arg := (classify s t).row } s
  let s' := match i with
    | .moeBatchArrival port x m h idxs rows =>
      if becomesEligible s h.stamp then batchArrives port x m h idxs rows s else drop h.stamp (port.getD 0x1F) s
    | .ringBlockArrival p x m h data =>
      if becomesEligible s h.stamp then ringArrives p x m h data s else drop h.stamp p s
    | .gatherRequest p m h => if gatherEligible s h then serveGather p m h (offerNow h.stamp p s) else drop h.stamp p s
    | .gatherResponse p m h data => if gatherEligible s h then landShard m h data (offerNow h.stamp p s) else drop h.stamp p s
    | .reductionPartialArrival p vc m h data =>
      if becomesEligible s h.stamp then partialTaken (.reductionPartialArrival p vc m h data) p m h data s else drop h.stamp p s
    | _ => s
  let s' := match arrivedBy i with | some r => keepFlits r.1 r.2 h.1 s s' | none => s'
  (s', offers ++ (arrivalOffer s i).toList)

/-- Resolve every held entry and arrival (R48). Each that becomes eligible offers its stamp; SRC names the lowest code of
those that offered the most advanced one (R51, R54). -/
def resolveHeld (s : State) : State :=
  let was := s.str.now
  let s := releaseOpen (fun p r => staysInBuffer s p r.body) s
  let r := (entriesWith s (·.held)).foldl resolveEntry (s, [])
  let s := r.2.foldl (fun s o => offerNow o.2 (srcCode o.1) s) r.1
  let q := s.heldArr.foldl resolveArrival ({ s with heldArr := [] }, r.2.map fun o => (srcCode o.1, o.2))
  if q.1.str.now = was then q.1
  else match sortBy (·.1) (q.2.filter fun o => o.2 == q.1.str.now) with
    | o :: _ => { q.1 with str := { q.1.str with src := o.1 } }
    | [] => q.1

/-- The first three conditions of R44. -/
def beginBad (n m eta : Nat) : Bool := n == 0xFFFFFFFFFF || m == 0 || badEta eta

/-- The module holds an accepted STEP_BEGIN of this epoch and step. -/
def holdsBegin (s : State) (e n : Nat) : Bool := s.str.steps.any fun r => r.epoch == e && r.step == n

/-- The last two conditions of R44. -/
def beginOut (s : State) (e n : Nat) : Bool :=
  !(n == s.c + 1 || n == s.c + 2) || (n == s.c + 2 && !holdsBegin s e (s.c + 1))

/-- Accept a STEP_BEGIN. A group whose owned shards are all empty has landed from the start of the step (R352). -/
def acceptBegin (e n m eta : Nat) (s : State) : State :=
  let fresh := !s.str.valid || e != s.str.epoch
  let first : Stamp := ⟨e, n, 0, phF⟩
  let s := if fresh then changeEpoch e s else s
  let s := { s with str := { s.str with steps := s.str.steps.filter (fun r => r.step != n) ++ [latchStep e n m eta s] },
                    ctxs := s.ctxs.map fun c => { c with injected := c.injected.filter fun i => i.1 != n } }
  let s := (upto 6).foldl (fun s g => noteLanded g n s) s
  resolveHeld (if fresh then setNow first s else offerNow first 0xFF s)

def stepBegin (h : HostHdr) (e n m eta : Nat) (s : State) : State :=
  let done := low64 ⟨e, n, 0, phF⟩
  if beginBad n m eta then completeWith h stFormat done s
  else if s.str.valid && holdsBegin s e n then completeWith h stOk done s
  else if beginOut s e n then completeWith h stFormat done s
  else noteWaits s (completeWith h stOk done (acceptBegin e n m eta s))

/-! ### The order of the step commands (R429) -/

/-- The effect of a step command. -/
def stepNow (i : Instr) (s : State) : State :=
  match i with
  | .stepBegin h e n m eta => stepBegin h e n m eta s
  | .stepCommit h n => pumpAllExperts (stepCommit h n s)
  | .stepAbandon h n => stepAbandon h n s
  | _ => s

/-- A STEP_ABANDON that abandons the step of a STEP_COMMIT that waits; the wait ends with it (R399, R401). -/
def endsCommit (s : State) (i : Instr) : Bool :=
  match i with
  | .stepAbandon _ n => (s.upd.commits.any fun w => w.2 == n) || n == s.c && s.upd.rollbackOk
  | _ => false

/-- A STEP_ABANDON ends the wait of the STEP_COMMITs before it, and the step commands between them take effect in their turn
(R399, R429). -/
def endCommitWait (s : State) : State :=
  let dropped := fun s : State => abandonCommits (s.c + 1) s
  dropped (s.upd.stepWait.foldl (fun s i => stepNow i (dropped s)) { s with upd := { s.upd with stepWait := [] } })

/-- A step command takes effect after those accepted before it: it waits behind a STEP_COMMIT that waits, unless it ends
that wait (R399, R429, log 153). -/
def takeStep (s : State) (i : Instr) : State :=
  if s.upd.commits.isEmpty then stepNow i s
  else if endsCommit s i then stepNow i (endCommitWait s)
  else { s with upd := { s.upd with stepWait := s.upd.stepWait ++ [i] } }

/-- The step commands that wait take their turn. -/
def drainSteps (s : State) : State :=
  if s.upd.stepWait.isEmpty || !s.upd.commits.isEmpty then s
  else s.upd.stepWait.foldl takeStep { s with upd := { s.upd with stepWait := [] } }

/-! ### Event slots (R55 to R59, R65) -/

/-- The step a 32-bit operand names at arming (R56). -/
def resolveStep (c v : Nat) : Nat :=
  if (c + 1) % 2 ^ 32 = v % 2 ^ 32 then c + 1
  else if (c + 2) % 2 ^ 32 = v % 2 ^ 32 then c + 2
  else c / 2 ^ 32 * 2 ^ 32 + v % 2 ^ 32

/-- Arming has an effect: the KIND is neither off nor reserved, and the GRP of SHARD_LANDED is not reserved. -/
def armable (s : State) (k : Nat) : Bool :=
  let kind := fld s (oEvt k 0) 0 4
  decide (1 ≤ kind) && decide (kind ≤ 5) && !(kind == 4 && decide (5 < fld s (oEvt k 8) 0 3))

/-- A software write of STR_EVT_CTL of slot `k` under the byte mask `en` (R55). Where arming has no effect the other fields take
the value written (log 158). -/
def writeEvtCtl (k en v : Nat) (s : State) : State :=
  let off := oEvt k 0
  let old := tabGet resetWord s.regs off
  if fld s off 16 1 = 1 then regPut off (writeFields s.locked off (en &&& 0x70000) v old).toNat s
  else
    let s := regPut off (writeFields s.locked off en v old).toNat s
    if fld s off 16 1 = 0 then s
    else if !armable s k then setFld off 16 1 0 s
    else { s with str := { s.str with evtStep := modNth (fun _ => resolveStep s.c (regGet s (oEvt k 4))) s.str.evtStep k } }

/-- A software write of another word of an event slot: no effect while EN = 1. -/
def writeEvtWord (k w en v : Nat) (s : State) : State :=
  if fld s (oEvt k 0) 16 1 = 1 then s
  else regPut (oEvt k w) (writeFields s.locked (oEvt k w) en v (tabGet resetWord s.regs (oEvt k w))).toNat s

def execStrEvtArm (k : Nat) (ctl : Word) (s : State) : Host.Outcome State Fault Refusal :=
  runLive (fun s => if k < 16 then writeEvtCtl k 0xFFFFFFFF (ctl.toNat ||| 0x10000) s else s) s
def execStrEvtDisarm (k : Nat) (ctl : Word) (s : State) : Host.Outcome State Fault Refusal :=
  runLive (fun s => if k < 16 then writeEvtCtl k 0xFFFFFFFF (ctl.toNat - (ctl.toNat &&& 0x10000)) s else s) s

def execStrEvtFire (k : Nat) (s : State) : Host.Outcome State Fault Refusal := runLive (fireEvent k) s

end Sys2Proof.Machine
end

