-- ==== Sys2Proof/Machine/Context.lean ====
section
/-! DEFINITION. The commands on contexts (R180, R216, R241 to R243, R264 to R266, R302 to R305), QUIESCE and RESUME_ALL
(R427), the urgent page's forms of them (R434), the order of context and step commands (R429), the wait timers, and the
events that let waiting commands end. -/
namespace Sys2Proof.Machine

/-! ### Discarding a context's work (R180, R207, R243) -/

/-- Empty a queue: its buffers are free again but for those that granted credits name. -/
def emptyQueue (u : Queue) : Queue :=
  { u with entries := [], free := (upto u.nbuf).filter fun b => !u.granted.contains b }

/-- The command is a held batch or ring block for context `x`. -/
def heldFor (x : Nat) (i : Instr) : Bool :=
  match i with
  | .moeBatchArrival _ y _ _ _ _ => x == y
  | .ringBlockArrival _ y _ _ _ => x == y
  | _ => false

/-- A COPY that waits for a credit of context `x` ends ABANDONED (R428). -/
def abandonCopies (x : Nat) (s : State) : State :=
  let mine := s.hif.copies.filter fun j => j.o.kind == 4 && j.o.portCtx == x
  mine.foldl (fun s j => complete j.h stAbandoned s)
    { s with hif := { s.hif with copies := s.hif.copies.filter fun j => !mine.contains j } }

/-- Every entry of context `x` goes, and its credit returns (R243). -/
def dropEntries (x : Nat) (s : State) : State :=
  (upto 2).foldl (fun s q => ((s.ctx x).queue q).entries.foldl (fun s e => dropEntry x q e s) s) s

/-- All work of context `x` goes: entries, slots, pairs, block inputs, copies, chains, batches and ring blocks. -/
def dropWork (x : Nat) (s : State) : State :=
  let s := dropEntries x (withdrawWait x s)
  let s := releaseWhere (fun b => b.ctx == x) s
  let s := dropStalled (heldFor x) (dropHeld (heldFor x) s)
  let s := modCtx x (fun c => { c with
    aq := emptyQueue c.aq, gq := emptyQueue c.gq, outgoing := [], slots := [], phaseCount := [], windowsDone := [],
    wActive := none, wDone := [], pairs := [], issued := [], chain := none, wait := none, batches := [], experts := [],
    combines := [], ringHeld := [], ringMerged := [], ringSent := [], warned := false, tempos := [], tempoFew := false, remoteOps := [] }) s
  releaseOpen (fun p r => staysInBuffer s p r.body) s

/-- The effects of CONTEXT_RESET on context `x` (R126, R180, R243, R293, R302, R377, R383, R428). -/
def resetWork (x : Nat) (s : State) : State :=
  let s := poisonStage x s
  let s := (x :: ownedFlags s x).foldl (fun s c => zeroCounters c s) s
  let s := abandonCopies x (dropWork x s)
  let s := forgetCtxResiduals x (closeForCtx x (resetCensus x s))
  modCtx x (fun c => { c with state := .loaded, cause := 0, byQuiesce := false }) s

/-- A CONTEXT_RESET, recorded in GLB_RST_CAUSE (R527). -/
def resetContext (x : Nat) (s : State) : State := setFld oRstCause 16 4 x (recordReset 7 10 (resetWork x s))

/-! ### Jobs that complete later -/

/-- Do snapshot pins hold a region of context `x`? -/
def ctxPinned (s : State) (x : Nat) : Bool := (ctxRegions s x).any fun r => decide (0 < (s.region r).pinned)

/-- PATTERN_UNLOAD ends: regions, buckets, flags and allocations are free, the context is empty (R264, R304, R350). Credits
that a neighbour on another module granted stay usable. -/
def freeCtx (x : Nat) (s : State) : State :=
  let s := { s with regions := s.regions.filter (fun e => e.2.ctx != x), bindings := s.bindings.filter fun b => b.ctx != x }
  let s := removeBuckets x s
  let s := clearRun (mapRun s x) s
  let s := modMap x (fun m => { m with valid := false, poison := false, first := 0, nent := 0 }) (freeMap x s)
  modCtx x (fun c => { Ctx.none with upCredits := c.upCredits, downCredits := c.downCredits }) (dropLocalCredits x s)

/-- An urgent action completes (R434). -/
def urgentDone (s : State) : State :=
  let s := { s with hif := { s.hif with urgCount := (s.hif.urgCount + 1) % 2 ^ 16, urgBusy := s.hif.urgBusy - 1 } }
  let rises := fld s oUrgStat 2 1 == 0
  raiseIf (rises && fld s oUrgStat 3 1 == 1) 0 (setBit oUrgStat 2 s)

/-! ### CONTEXT_START (R216, R264, R304, R354, R387) -/

/-- The owned elements of a bucket are covered exactly once by valid entries (R387). -/
def covered (s : State) (b : Bucket) : Bool :=
  let (lo, hi) := ownShard s b
  let mine := (validEntries s).filter fun e => e.grp == b.grp && e.bucket == b.id
  sumNat (mine.map fun e => (owned s e).2 - (owned s e).1) == hi - lo

/-- A context that owns buckets may not start: landing or spill space is short, or an element is not covered. -/
def startShort (s : State) (x : Nat) : Bool :=
  let mine := s.red.buckets.filter fun b => b.ctx == x
  !mine.isEmpty && (mine.any (fun b => landShort s b.grp) || spillShort s || mine.any fun b => !covered s b)

/-- Grant credits of both queues; entries that waited for one leave. A COPY that waits for one starts elsewhere (`Host.lean`). -/
def grantBoth (x : Nat) (s : State) : State := pumpAll (grantQueue x 1 (grantQueue x 0 s))

/-- CONTEXT_START (R180, R216, R242, R305). After the failure of a die port no context runs until a module reset (R20, R439, log 131). -/
def contextStart (h : HostHdr) (x : Nat) (s : State) : State :=
  if (s.ctx x).state ≠ .loaded then complete h stFormat s
  else if (s.map x).poison then complete h stOwnerLost s
  else if s.glb.dieFail then complete h stPeerAbsent s
  else if startShort s x then complete h stResources s
  else
    let s := modCtx x (fun c => { c with state := .running, cause := 0, progressAt := s.glb.time, warned := false }) s
    let s := pumpAllExperts (startGathers (grantBoth x s))
    complete h stOk (stopBelow (s.ctx x).die 16 s)

/-! ### CONTEXT_PREEMPT and CONTEXT_RESUME (R264 to R266, R305) -/

/-- Begin to pre-empt a running context. -/
def beginPreempt (x : Nat) (byQuiesce : Bool) (j : Option CtxJob) (s : State) : State :=
  let s := withdrawWait x s
  let s := modCtx x (fun c => { c with byQuiesce := c.byQuiesce || byQuiesce }) s
  match j with
  | some j => { s with hif := { s.hif with ctxJobs := s.hif.ctxJobs ++ [j] } }
  | none => s

def contextPreempt (h : HostHdr) (x : Nat) (s : State) : State :=
  match (s.ctx x).state with
  | .running => beginPreempt x false (some ⟨x, .preempt, false, some h⟩) s
  | .preempted => complete h stOk (modCtx x (fun c => { c with byQuiesce := false }) s)
  | _ => complete h stFormat s

/-- A pre-empted context runs again: its withdrawn FWAIT is issued again (R305), and issue and the work on its experts and ring
blocks go on (R242, R266). -/
def resumeCtx (x : Nat) (s : State) : State :=
  let s := modCtx x (fun c => { c with state := .running, byQuiesce := false, progressAt := s.glb.time, warned := false }) s
  stopBelow (s.ctx x).die 16 (pumpWork x (grantBoth x (settleWaits (reissueWait x s))))

def contextResume (h : HostHdr) (x : Nat) (s : State) : State :=
  match (s.ctx x).state with
  | .preempted => complete h stOk (resumeCtx x s)
  | .running => complete h stOk s
  | _ => complete h stFormat s

/-! ### CONTEXT_RESET and PATTERN_UNLOAD -/

def contextReset (h : HostHdr) (x : Nat) (s : State) : State :=
  if (s.ctx x).state = .empty then complete h stFormat s else complete h stOk (resetContext x s)

/-- PATTERN_UNLOAD: the effects of CONTEXT_RESET at once, the rest when no pin holds a region of the context. -/
def patternUnload (h : HostHdr) (x : Nat) (s : State) : State :=
  if (s.ctx x).state = .empty then complete h stFormat s
  else
    let s := resetWork x s
    { s with hif := { s.hif with ctxJobs := s.hif.ctxJobs ++ [⟨x, .unload, false, some h⟩] } }

/-! ### The order of the context commands (R429), and what waits -/

/-- The context that a command names, with its header. -/
def ctxNamed (i : Instr) : Option (HostHdr × Nat) :=
  match i with
  | .patternLoad h x _ _ _ _ | .patternUnload h x | .contextStart h x | .contextPreempt h x | .contextResume h x
  | .contextReset h x => some (h, x)
  | _ => none

/-- The effect of a context command. -/
def ctxNow (i : Instr) (s : State) : State :=
  match i with
  | .patternLoad h x im vs fast slow => patternLoad h x im vs fast slow s
  | .patternUnload h x => patternUnload h x s
  | .contextStart h x => contextStart h x s
  | .contextPreempt h x => contextPreempt h x s
  | .contextResume h x => contextResume h x s
  | .contextReset h x => contextReset h x s
  | _ => s

/-- A PATTERN_LOAD. -/
def isLoad (i : Instr) : Bool := match i with | .patternLoad _ _ _ _ _ _ => true | _ => false
/-- A PATTERN_LOAD that waits for its turn. -/
def laterLoad (j : CtxJob) : Bool := match j.kind with | .later i => isLoad i | _ => false

/-- Commands among `before` come before command `i` on context `x`: they name the same context (R429), or both are PATTERN_LOADs,
which are admitted in the order of acceptance (R254). -/
def behind (s : State) (before : List CtxJob) (x : Nat) (i : Instr) : Bool :=
  (before.any fun j => j.h.isSome && (j.x == x || laterLoad j && isLoad i))
    || s.boot.delayedLoads.any fun k => (ctxNamed k).map (·.2) == some x

/-- A job of the list whose end or turn has come; `before` are the jobs accepted earlier. -/
def nextJob (s : State) (before : List CtxJob) : List CtxJob → Option CtxJob
  | [] => none
  | j :: l =>
    let ready : Bool := match j.kind with
      | .preempt => (s.ctx j.x).state != .running || allDone s j.x
      | .unload => !ctxPinned s j.x
      | .later i => !behind s before j.x i
    if ready then some j else nextJob s (before ++ [j]) l

/-- A pre-emption ends. One overtaken by a stop, or by a reset of the urgent page, ends ABANDONED (log 51). -/
def endPreempt (j : CtxJob) (s : State) : State :=
  let st := (s.ctx j.x).state
  let s := if st = .running then modCtx j.x (fun c => { c with state := .preempted, byQuiesce := c.byQuiesce || j.h.isNone }) s
    else if st = .preempted && j.h.isSome then modCtx j.x (fun c => { c with byQuiesce := false }) s else s
  completeOpt j.h (if st == .running || st == .preempted then stOk else stAbandoned) s

/-- End a job, or let it take its turn. -/
def finishJob (j : CtxJob) (s : State) : State :=
  let s := { s with hif := { s.hif with ctxJobs := dropFirst (· == j) s.hif.ctxJobs } }
  let s := match j.kind with
    | .preempt => endPreempt j s
    | .unload => completeOpt j.h stOk (freeCtx j.x s)
    | .later i => ctxNow i s
  if j.urgent then urgentDone s else s

/-- End every job that can; `k` bounds how many. -/
def finishJobs : Nat → State → State
  | 0, s => s
  | k + 1, s =>
    match nextJob s [] s.hif.ctxJobs with
    | some j => finishJobs k (finishJob j s)
    | none => s

/-- QUIESCE has taken hold: no context runs to its pre-emption and no pass runs (R427). -/
def quiesceReached (s : State) : Bool :=
  s.upd.pass.isNone && !((upto 16).any fun x => (s.ctx x).state == .running && ((s.ctx x).byQuiesce || preempting s x))

/-- Complete the QUIESCEs that wait. -/
def finishQuiesce (s : State) : State :=
  if s.hif.quiescing && quiesceReached s then
    let jobs := s.hif.quiesceJobs
    let s := { s with hif := { s.hif with quiescing := false, quiesced := true, quiesceJobs := [] } }
    jobs.foldl (fun s h => match h with | some h => complete h stOk s | none => urgentDone s) s
  else s

/-- Jobs and waiting step commands in turn. A command whose turn comes may leave one job more. -/
def settleRounds : Nat → State → State
  | 0, s => finishJobs (2 * s.hif.ctxJobs.length) s
  | k + 1, s => settleRounds k (drainSteps (finishJobs (2 * s.hif.ctxJobs.length) s))

/-- Whatever waits for contexts, passes and steps and can end, ends. -/
def settleJobs (s : State) : State := finishQuiesce (settleRounds s.upd.stepWait.length s)

/-- An event after which what waits may end: a commit or a snapshot has ended, or a context has changed its state. Records that a
port in DOWN has left apply. -/
def settleAfter (f : State → State) (s : State) : State :=
  let t := applyLeft s (f s)
  if t.upd.commits = s.upd.commits ∧ t.upd.snaps = s.upd.snaps ∧ t.ctxs.map (·.state) = s.ctxs.map (·.state) then t
  else settleJobs t

/-- A context command: behind one that has not completed it waits for its turn. -/
def ctxCommand (i : Instr) (s : State) : State :=
  match ctxNamed i with
  | none => s
  | some (h, x) =>
    if behind s s.hif.ctxJobs x i then { s with hif := { s.hif with ctxJobs := s.hif.ctxJobs ++ [⟨x, .later i, false, some h⟩] } }
    else settleJobs (ctxNow i s)

/-- A step command. -/
def stepCommand (i : Instr) (s : State) : State := settleJobs (takeStep s i)

def execPatternLoad (h : HostHdr) (x image vsBase fastBase slowBase : Nat) (s : State) : Host.Outcome State Fault Refusal :=
  runLive (ctxCommand (.patternLoad h x image vsBase fastBase slowBase)) s
def execPatternUnload (h : HostHdr) (x : Nat) (s : State) : Host.Outcome State Fault Refusal :=
  runLive (ctxCommand (.patternUnload h x)) s
def execContextStart (h : HostHdr) (x : Nat) (s : State) : Host.Outcome State Fault Refusal :=
  runLive (ctxCommand (.contextStart h x)) s
def execContextPreempt (h : HostHdr) (x : Nat) (s : State) : Host.Outcome State Fault Refusal :=
  runLive (ctxCommand (.contextPreempt h x)) s
def execContextResume (h : HostHdr) (x : Nat) (s : State) : Host.Outcome State Fault Refusal :=
  runLive (ctxCommand (.contextResume h x)) s
def execContextReset (h : HostHdr) (x : Nat) (s : State) : Host.Outcome State Fault Refusal :=
  runLive (ctxCommand (.contextReset h x)) s
def execStepBegin (h : HostHdr) (epoch step m eta : Nat) (s : State) : Host.Outcome State Fault Refusal :=
  runLive (stepCommand (.stepBegin h epoch step m eta)) s
def execStepCommit (h : HostHdr) (step : Nat) (s : State) : Host.Outcome State Fault Refusal :=
  runLive (stepCommand (.stepCommit h step)) s
def execStepAbandon (h : HostHdr) (step : Nat) (s : State) : Host.Outcome State Fault Refusal :=
  runLive (stepCommand (.stepAbandon h step)) s

/-! ### QUIESCE and RESUME_ALL (R427) -/

/-- Every running context is pre-empted, and no pass starts. -/
def quiesce (h : Option HostHdr) (s : State) : State :=
  let running := (upto 16).filter fun x => (s.ctx x).state == .running
  let late := fun x => s.hif.ctxJobs.any fun j => j.x == x && j.h.isSome && j.kind != .preempt
  let s := { s with hif := { s.hif with quiescing := true, quiesceJobs := s.hif.quiesceJobs ++ [h] } }
  settleJobs (running.foldl (fun s x =>
    beginPreempt x (!preempting s x) (if preempting s x && !late x then none else some ⟨x, .preempt, false, none⟩) s) s)

def execQuiesce (h : HostHdr) (s : State) : Host.Outcome State Fault Refusal := runLive (quiesce (some h)) s

/-- Contexts that QUIESCE or the urgent page pre-empted resume in ascending order (R284), and passes may start; a QUIESCE that
still waits ends ABANDONED (log 51). -/
def resumeAll (s : State) : State :=
  let waits := s.hif.quiesceJobs
  let own : CtxJob → Bool := fun j => (s.ctx j.x).byQuiesce && j.h.isNone
  let drop := s.hif.ctxJobs.filter own
  let s := { s with hif := { s.hif with quiescing := false, quiesced := false, quiesceJobs := [],
                                        ctxJobs := s.hif.ctxJobs.filter fun j => !own j } }
  let s := drop.foldl (fun s j => if j.urgent then urgentDone s else s) s
  let s := waits.foldl (fun s h => match h with | some h => complete h stAbandoned s | none => urgentDone s) s
  let goOn := fun x s => settleWait x (reissueWait x (modCtx x (fun c => { c with byQuiesce := false }) s))
  ((upto 16).filter fun x => (s.ctx x).byQuiesce).foldl (fun s x =>
    match (s.ctx x).state with
    | .preempted => resumeCtx x s
    | .running => goOn x s
    | _ => s) s

def execResumeAll (h : HostHdr) (s : State) : Host.Outcome State Fault Refusal :=
  runLive (fun s => settleJobs (complete h stOk (resumeAll s))) s

/-! ### The urgent page (R434) -/

/-- An urgent action begins. -/
def urgentBegin (s : State) : State := { s with hif := { s.hif with urgBusy := s.hif.urgBusy + 1 } }
/-- STATE code of R244. -/
def CtxState.code : CtxState → Nat
  | .empty => 0 | .loaded => 1 | .running => 2 | .preempted => 3 | .stopped => 4
/-- An action that the context's state does not allow. -/
def urgentSkip (x action : Nat) (s : State) : State :=
  logEv 0x22 stFormat agHub { port := 0x10, ctx := x, arg := action + (s.ctx x).state.code * 256 } s

def execUrgentQuiesce (s : State) : Host.Outcome State Fault Refusal :=
  runLive (fun s => quiesce none (urgentBegin s)) s
def execUrgentResumeAll (s : State) : Host.Outcome State Fault Refusal :=
  runLive (fun s => settleJobs (urgentDone (resumeAll (urgentBegin s)))) s

/-- CONTEXT_PREEMPT of the urgent page; one that a CONTEXT_PREEMPT already drains stays that command's (R427). -/
def urgentPreempt (x : Nat) (s : State) : State :=
  match (s.ctx x).state with
  | .running => settleJobs (beginPreempt x (!preempting s x) (some ⟨x, .preempt, true, none⟩) (urgentBegin s))
  | .preempted => urgentDone (urgentBegin s)
  | _ => urgentSkip x 1 s

def execUrgentPreempt (x : Nat) (s : State) : Host.Outcome State Fault Refusal := runLive (urgentPreempt x) s

/-- CONTEXT_RESET of the urgent page. -/
def urgentReset (x : Nat) (s : State) : State :=
  if (s.ctx x).state = .empty then urgentSkip x 2 s else settleJobs (urgentDone (resetContext x (urgentBegin s)))

def execUrgentReset (x : Nat) (s : State) : Host.Outcome State Fault Refusal := runLive (urgentReset x) s

/-! ### Waits (R241) -/

/-- CONTEXT_WAIT_WARN: the wait has reached a nonzero WARN_MS; once per wait. -/
def waitWarn (x : Nat) (s : State) : State :=
  if fld s (oAnt 0) 0 16 = 0 ∨ !isWaiting s x ∨ (s.ctx x).warned then s
  else
    let s := setBit (oAnt 4) 2 (modCtx x (fun c => { c with warned := true }) s)
    raise (ctxVec x) (logEv 0x08 stTimeout agHub { ctx := x } s)

/-- CONTEXT_WAIT_STOP: the wait has reached a nonzero STOP_MS. -/
def waitStop (x : Nat) (s : State) : State :=
  if fld s (oAnt 0) 16 16 = 0 ∨ !isWaiting s x then s
  else
    let s := setBit (oAnt 4) 2 (stopCtx x stTimeout s)
    settleJobs (raise (ctxVec x) (logEv 0x09 stTimeout agHub { ctx := x } s))

def execContextWaitWarn (x : Nat) (s : State) : Host.Outcome State Fault Refusal := runLive (waitWarn x) s
def execContextWaitStop (x : Nat) (s : State) : Host.Outcome State Fault Refusal := runLive (waitStop x) s

/-! ### Events that let what waits end -/

def execInstructionComplete (x : Nat) (st : Stamp) (idx : Nat) (s : State) : Host.Outcome State Fault Refusal :=
  runLive (fun s => settleJobs (pumpWork x (completeInstr x st idx s))) s
def execUpdatePassComplete (s : State) : Host.Outcome State Fault Refusal :=
  runLive (fun s => settleJobs (pumpAllExperts (passComplete s))) s
def execRestoreComplete (r : Nat) (s : State) : Host.Outcome State Fault Refusal := runLive (fun s => pumpAllExperts (restoreComplete r s)) s
def execUpdateDatapathFault (s : State) : Host.Outcome State Fault Refusal := runLive (fun s => settleJobs (udFaults s)) s
def execArrayCheckFail (d phys cause : Nat) (s : State) : Host.Outcome State Fault Refusal :=
  runLive (settleAfter (arrayFails d phys cause)) s
def execGatherResponse (p srcmod : Nat) (hdr : GatherHdr) (data : List Byte) (s : State) : Host.Outcome State Fault Refusal :=
  runLive (settleAfter (gatherResponds p srcmod hdr data)) s
def execReductionPartialArrival (p vc srcmod : Nat) (hdr : PartialHdr) (data : List Byte) (s : State) :
    Host.Outcome State Fault Refusal := runLive (settleAfter (partialEvent p vc srcmod hdr data)) s
def execFarCompress (bucket seg step : Nat) (s : State) : Host.Outcome State Fault Refusal :=
  runLive (settleAfter (farStep bucket seg step)) s

/-! ### Arrivals that may put their port into DOWN (R342) -/

def execWindowWrite (p vc srcmod dstmod : Nat) (hdr : XferHdr) (data : List Byte) (s : State) : Host.Outcome State Fault Refusal :=
  runLive (settleAfter (windowWrite p vc srcmod dstmod hdr data)) s
def execTransferCommit (p vc : Nat) (desc : Option QDesc) (rec : Option FlagRec) (s : State) : Host.Outcome State Fault Refusal :=
  runLive (settleAfter (transferCommit p vc desc rec)) s
def execQueueEntryArrival (p srcmod hbuf hctx hq : Nat) (desc : QDesc) (data : List Byte) (s : State) :
    Host.Outcome State Fault Refusal := runLive (settleAfter (queueEntry p srcmod hbuf hctx hq desc data)) s
def execRemoteFlagSet (p : Nat) (rec : FlagRec) (s : State) : Host.Outcome State Fault Refusal :=
  runLive (settleAfter (recordFrom p { rec with op := 1 })) s
def execRemoteFlagClear (p : Nat) (rec : FlagRec) (s : State) : Host.Outcome State Fault Refusal :=
  runLive (settleAfter (recordFrom p { rec with op := 2 })) s
def execRemoteWaitFor1 (p : Nat) (rec : FlagRec) (s : State) : Host.Outcome State Fault Refusal :=
  runLive (settleAfter (recordFrom p { rec with op := 3 })) s
def execRemoteWaitFor0 (p : Nat) (rec : FlagRec) (s : State) : Host.Outcome State Fault Refusal :=
  runLive (settleAfter (recordFrom p { rec with op := 4 })) s
def execRemoteWaitCancel (p wtag : Nat) (s : State) : Host.Outcome State Fault Refusal :=
  runLive (settleAfter (recordFrom p ⟨5, 0, 0, 0, false, false, 0, 0, wtag⟩)) s
def execRemoteWake (p : Nat) (rec : FlagRec) (s : State) : Host.Outcome State Fault Refusal :=
  runLive (settleAfter (recordFrom p { rec with op := 6 })) s
def execFenceMarker (p vc seq : Nat) (s : State) : Host.Outcome State Fault Refusal :=
  runLive (settleAfter (markerIn p vc seq)) s
def execFencedRecordApply (p : Nat) (rec : FlagRec) (s : State) : Host.Outcome State Fault Refusal :=
  runLive (settleAfter (fencedApply p rec)) s

end Sys2Proof.Machine
end

