-- ==== Sys2Proof/Machine/Flit.lean ====
section
/-! DEFINITION. Flits (R318 to R330): what a port sends, by VC15 priority and deficit round robin under credits, link-level
retry, and the receipt of a flit with its acknowledgement, NAK and credit fields. -/
namespace Sys2Proof.Machine

/-! ### Header fields (R319) -/

/-- The fields of a flit header. -/
structure FlitHdr where
  ftype : Nat
  vc : Nat
  fseq : Nat
  ackseq : Nat
  ackv : Bool
  nak : Bool
  first : Bool
  last : Bool
  cvc : Nat
  cret : Nat
  fill : Nat
  dst : Nat
  src : Nat
  deriving DecidableEq, Repr

/-- The header in the first 16 bytes of a flit; reserved bits are ignored. -/
def flitHdrOf (l : List Byte) : FlitHdr :=
  let v := leNat (l.take 16)
  ⟨bits v 0 4, bits v 4 4, bits v 8 12, bits v 20 12, bit v 32, bit v 33, bit v 34, bit v 35, bits v 36 4, bits v 40 12,
    bits v 52 8, bits v 64 16, bits v 80 16⟩

/-- The 16 bytes of a header. -/
def flitHdrBytes (h : FlitHdr) : List Byte :=
  leBytes 16 (h.ftype % 16 + h.vc % 16 * 2 ^ 4 + h.fseq % 4096 * 2 ^ 8 + h.ackseq % 4096 * 2 ^ 20 + b2n h.ackv * 2 ^ 32
    + b2n h.nak * 2 ^ 33 + b2n h.first * 2 ^ 34 + b2n h.last * 2 ^ 35 + h.cvc % 16 * 2 ^ 36 + h.cret % 4096 * 2 ^ 40
    + h.fill % 256 * 2 ^ 52 + h.dst % 2 ^ 16 * 2 ^ 64 + h.src % 2 ^ 16 * 2 ^ 80)

/-! ### Sending (R320, R322, R327, R328) -/

/-- The count of credits of a VC has changed since it was reported last. -/
def Port.crChanged (q : Port) (v : Nat) : Bool := nth 0 q.returned v != nth 0 q.reported v

/-- The VC whose credit count the next flit carries: VC15 when it has changed, else the next changed one in rotation, else
the next in rotation. After three flits in a row for a changed VC15 a changed count of another VC goes first, so that each is
reported within 64 flits (R327, log 125). -/
def creditVc (q : Port) : Nat :=
  let order := ((upto 16).map fun i => (q.crRr + 1 + i) % 16).filter (· != 15)
  let next := order.find? q.crChanged
  if q.crChanged 15 && (decide (q.cr15 < 3) || next.isNone) then 15 else next.getD ((q.crRr + 1) % 16)

/-- Put a flit on the link: the header's acknowledgement, NAK and credit fields are those of this moment. -/
def putFlit (p : Nat) (h : FlitHdr) (body : List Byte) (s : State) : State :=
  let q := s.port p
  let v := creditVc q
  let first15 := v == 15 && q.crChanged 15
  let nak := q.nakFor == some q.rxSeq && !q.nakSent
  let h := { h with ackseq := (q.rxSeq + 4095) % 4096, ackv := true, nak := nak, cvc := v, cret := nth 0 q.returned v }
  let s := modPort p (fun q => { q with
    nakSent := q.nakSent || nak, crRr := if first15 then q.crRr else v, cr15 := if first15 then q.cr15 + 1 else 0,
    held := modNth (fun n => n + (nth 0 q.returned v + 4096 - nth 0 q.reported v) % 4096) q.held v,
    reported := modNth (fun _ => nth 0 q.returned v) q.reported v }) s
  emit (.flit p (flitBytes (flitHdrBytes h) body)) s

/-- A header with no acknowledgement fields. -/
def newHdr (s : State) (ftype vc fseq fill dst : Nat) (first last : Bool) : FlitHdr :=
  ⟨ftype, vc, fseq, 0, false, false, first, last, 0, 0, fill, dst, modId s⟩

/-- A new sequenced flit: it takes the next FSEQ, uses a credit and is kept for replay. -/
def putSequenced (p vc : Nat) (h : FlitHdr) (body : List Byte) (s : State) : State :=
  let keep : Port → Port := fun q => { q with
    txSeq := (q.txSeq + 1) % 4096, avail := modNth (fun n => n - 1) q.avail vc,
    retry := q.retry ++ [⟨h.fseq, flitHdrBytes h ++ body⟩] }
  putFlit p h body (modPort p keep s)

/-- Does the partner take the record (R325, R336)? Fenced ones need capability bit 5, waits, cancels and wakes bit 6, link
control records bit 13; one that the partner does not take stays queued (log 149). -/
def maySend (ncap : Nat) (t : Nat × Nat × List Byte × TxDone) : Bool :=
  if t.1 = 2 then
    let r := recOf t.2.2.1
    (if r.fence then bit ncap 5 else true) && (if 3 ≤ r.op ∧ r.op ≤ 6 then bit ncap 6 else true)
  else bit ncap 13

/-- The records of the VC15 queue that the partner takes; the others stay. -/
def sendable (q : Port) : List (Nat × Nat × List Byte × TxDone) := q.ctl.filter (maySend q.ncap)

/-- Records at the front of a VC15 queue that go into one flit: up to 14 of one FTYPE for one module. -/
def recordRun (l : List (Nat × Nat × List Byte × TxDone)) : List (Nat × Nat × List Byte × TxDone) :=
  match l with
  | [] => []
  | r :: _ => (l.takeWhile fun t => t.1 == r.1 && t.2.1 == r.2.1).take 14

/-- What a record leaves to be acknowledged: a LINK_CONTROL, or a fence that stays outstanding (R297, R427). -/
def acksOf (t : Nat × Nat × List Byte × TxDone) : Option TxDone :=
  if isControl t.2.2.2 then some t.2.2.2 else if isFenced t.1 t.2.2.1 then some .fenced else none

/-- A record has left the module: a remote set or clear retires (R289). -/
def recordLeft (d : TxDone) (s : State) : State :=
  match d with
  | .flagOp x idx pos st => retireRemote x idx pos st s
  | _ => s

/-- Send one flit of VC15 records. -/
def sendRecords (p : Nat) (s : State) : State :=
  let q := s.port p
  let run := recordRun (sendable q)
  let (ty, dst) := match run with | r :: _ => (r.1, r.2.1) | [] => (2, 0)
  let waits := (run.filterMap acksOf).map fun d => (⟨15, dst, [], 1, some q.txSeq, d⟩ : TxXfer)
  let s := modPort p (fun q => { q with ctl := run.foldl (fun l r => dropFirst (· == r) l) q.ctl, tx := q.tx ++ waits }) s
  let s := putSequenced p 15 (newHdr s ty 15 q.txSeq (16 * run.length) dst false false) (run.flatMap fun t => padTo 16 t.2.2.1) s
  run.foldl (fun s r => recordLeft r.2.2.2 s) s

/-- The transfer whose flits VC `v` carries now: the first that is not sent whole. -/
def txNext (q : Port) (v : Nat) : Option TxXfer := q.tx.find? fun t => t.vc == v && t.lastSeq.isNone

/-- A VC that may send (R328): enabled, not paused, with data and a credit. -/
def vcReady (s : State) (p v : Nat) : Bool :=
  let q := s.port p
  vcEnabled s p v && !bit q.paused v && decide (0 < nth 0 q.avail v) && (txNext q v).isSome

/-- Quanta of a VC in one round. -/
def vcQuanta (s : State) (p v : Nat) : Nat := max 1 (fld s (oLnk p (0x100 + 4 * v)) 16 8)

/-- The VC that deficit round robin serves next, and the quanta it has left. -/
def drrPick (s : State) (p : Nat) : Option (Nat × Nat) :=
  let q := s.port p
  if vcReady s p q.rr && decide (0 < nth 0 q.deficit q.rr) then some (q.rr, nth 0 q.deficit q.rr)
  else (((upto 15).map fun i => (q.rr + 1 + i) % 15).find? (vcReady s p)).map fun v => (v, vcQuanta s p v)

/-- Send one data flit of VC `v`. -/
def sendData (p v left : Nat) (s : State) : State :=
  let q := s.port p
  match txNext q v with
  | none => s
  | some t =>
    let piece := (t.body.drop t.sent).take 236
    let done := t.sent + piece.length
    let last := decide (t.body.length ≤ done)
    let h := newHdr s 1 v q.txSeq piece.length t.dstmod (t.sent == 0) last
    let upd : TxXfer → TxXfer := fun u => { u with sent := done, lastSeq := if last then some q.txSeq else none }
    let i := (findIdxN (fun u => u == t) q.tx 0).getD 0
    pumpFences p (putSequenced p v h piece (modPort p (fun q => { q with
      rr := v, deficit := (List.replicate 16 0).set v (left - 1), tx := modNth upd q.tx i }) s))

/-- Replay the kept flit `f`, with the same FSEQ. -/
def replayFlit (p : Nat) (f : SentFlit) (s : State) : State :=
  let next := (f.fseq + 1) % 4096
  let more := (s.port p).retry.any fun g => g.fseq == next
  putFlit p (flitHdrOf f.bytes) (f.bytes.drop 16) (modPort p (fun q => { q with replayFrom := if more then some next else none }) s)

/-- The port sends its next flit: a replay, then VC15, then the other VCs, else an idle flit. In TRAINING, and in a retrain
in place, it sends its training record again (R314, log 126); in AUTH, where its messages have left, an idle flit (R320). -/
def transmit (p : Nat) (s : State) : State :=
  let q := s.port p
  let idle := putFlit p (newHdr s 0 0 0 0 q.peerMod false false) [] s
  let again := match q.replayFrom with
    | some n => q.retry.find? fun f => f.fseq == n
    | none => none
  if !q.carrying || q.retrain then
    if (q.state == .training || q.retrain) && !q.ownRec.isEmpty then emit (.flit p (flitBytes (plainHeader s 4 236 0) q.ownRec)) s
    else if q.state = .auth then idle
    else s
  else match again with
    | some f => replayFlit p f s
    | none =>
      if 1024 ≤ q.retry.length then idle
      else if !(sendable q).isEmpty && vcEnabled s p 15 && decide (0 < nth 0 q.avail 15) then sendRecords p s
      else match drrPick s p with
        | some (v, left) => sendData p v left s
        | none => idle

def execFlitTransmit (p : Nat) (s : State) : Host.Outcome State Fault Refusal := runLive (transmit p) s

/-! ### Retry at the sender (R322, R324) -/

/-- A replay starts from `n`: REPLAYS counts it, and the 64th in a row without progress starts a retrain in place. -/
def startReplay (p n : Nat) (s : State) : State :=
  let q := s.port p
  if q.retry.isEmpty then s
  else
    let s := bump (oLnk p 0x204) 0 16 1 (modPort p (fun q => { q with replayFrom := some n, replays := q.replays + 1 }) s)
    if 64 ≤ q.replays + 1 then startRetrain p s else s

/-- The oldest unacknowledged flit is sent again: 4.00 µs without ACKSEQ progress have passed. -/
def replayTimer (p : Nat) (s : State) : State :=
  let q := s.port p
  if !q.carrying || q.retrain then s
  else match q.retry with
    | f :: _ => startReplay p f.fseq s
    | [] => s

def execReplayTimer (p : Nat) (s : State) : Host.Outcome State Fault Refusal := runLive (replayTimer p) s

/-- The credits that CRET adds (R327); they end a stall of the VC (R329). -/
def takeCret (p v n : Nat) (s : State) : State :=
  modPort p (fun q => { q with
    avail := modNth (fun k => min 2047 (k + (n + 4096 - nth 0 q.seenRet v) % 4096)) q.avail v,
    stalls := if n = nth 0 q.seenRet v then q.stalls else q.stalls - (q.stalls &&& 2 ^ v),
    seenRet := modNth (fun _ => n) q.seenRet v }) s

/-- ACKSEQ, NAK and CRET of a flit with good CRC. -/
def takeFields (p : Nat) (h : FlitHdr) (s : State) : State :=
  let s := if h.ackv then takeAck p h.ackseq s else s
  let s := takeCret p h.cvc h.cret s
  if h.nak && h.ackv then startReplay p ((h.ackseq + 1) % 4096) s else s

/-! ### Receipt (R321, R324, R327, R330) -/

/-- A NAK is owed for the expected value, once. -/
def oweNak (p : Nat) (s : State) : State :=
  modPort p (fun q => if q.nakFor = some q.rxSeq then q else { q with nakFor := some q.rxSeq, nakSent := false }) s

/-- The records of a VC15 flit, in order. -/
def takeRecords (p : Nat) (h : FlitHdr) (body : List Byte) (s : State) : State :=
  (upto (h.fill / 16)).foldl (fun s i =>
    let b := (body.drop (16 * i)).take 16
    if h.ftype = 2 then recordIn p h.src (recOf b) s
    else if !(s.port p).carrying then s
    else if !common s p 13 then protoError p s
    else
      let v := leNat b
      controlArrives p (bits v 0 4) (bits v 16 16) s) s

/-- Data of an admitted transfer goes to its window as it comes (R330 to R332): `r` is the transfer before this flit. -/
def landWindow (r : RxXfer) (body piece : List Byte) (s : State) : State :=
  let h := xferOf body
  let from_ := max 32 r.body.length
  let upto_ := min (32 + h.bytes) (r.body.length + piece.length)
  let a := r.base + (from_ - 32)
  let d := (piece.drop (from_ - r.body.length)).take (upto_ - from_)
  if r.alive && landsData h && !d.isEmpty && inOneRange a d.length then devWrite a d s else s

/-- The tail flag record of a transfer that starts comes from a partner without capability bit 4 (R336). -/
def tailBreaks (s : State) (p : Nat) (first : Bool) (piece : List Byte) : Bool := first && (xferOf piece).tflag && !common s p 4

/-- A transfer is done with its `n` flits of a VC: what is held or stalls keeps them, else their credits return (R327), if the port
still carries. -/
def flitsDone (p vc n : Nat) (was s : State) : State := if (s.port p).carrying then keepFlits p vc n was s else s

/-- A data flit of an accepted sequence number; its credit returns as its content leaves the receive buffer (R327). -/
def takeData (p : Nat) (h : FlitHdr) (body : List Byte) (s : State) : State :=
  let piece := body.take h.fill
  let isOpen := (s.port p).rxPart.find? fun r => r.vc == h.vc
  if h.first == isOpen.isSome || decide (236 < h.fill) || (!h.last && h.fill != 236) || (h.first && decide (h.fill < 32))
      || tailBreaks s p h.first piece then
    protoError p s
  else
    let (s, r) := match isOpen with
      | some r => (s, r)
      | none =>
        let x := xferOf piece
        let (s, ok) := admitXfer p h.vc h.src h.dst x s
        (s, ⟨h.vc, h.src, h.dst, [], windowAddr s p x.win x.offset, ok, x.tkind == 1 && queueHdrBad s x, 0⟩)
    if !(s.port p).carrying then s
    else
      let whole := r.body ++ piece
      let n := r.stuck + 1
      let s := landWindow r whole piece s
      let rest := (s.port p).rxPart.filter fun u => u.vc != h.vc
      if !h.last then
        if r.alive && staysInBuffer s p whole then modPort p (fun q => { q with rxPart := rest ++ [{ r with body := whole, stuck := n }] }) s
        else creditBack p h.vc n (modPort p (fun q => { q with rxPart := rest ++ [{ r with body := whole, stuck := 0 }] }) s)
      else
        let s := modPort p (fun q => { q with rxPart := rest }) s
        if !r.alive then flitsDone p h.vc n s s
        else if whole.length ≠ bodyBytes (xferOf whole) then flitsDone p h.vc n s (refuseXfer p r.srcmod (xferOf whole) s)
        else flitsDone p h.vc n s (takeTransfer p h.vc r.srcmod r.refused whole s)

/-- A rule of R320 that a flit breaks on a carrying port: a reserved FTYPE, or a VC that is not its own. -/
def ftypeBreaks (h : FlitHdr) : Bool :=
  decide (5 < h.ftype) || (h.ftype == 1 && h.vc == 15) || ((h.ftype == 2 || h.ftype == 3) && h.vc != 15)

/-- A rule of R320 or R325 that a sequenced flit breaks. -/
def flitBreaks (s : State) (p : Nat) (h : FlitHdr) : Bool :=
  ftypeBreaks h || ((h.ftype == 2 || h.ftype == 3) && decide (14 < h.fill / 16)) || (h.ftype == 1 && !(vcCaps h.vc).all (common s p))

/-- A sequenced flit with good CRC. -/
def takeSequenced (p : Nat) (h : FlitHdr) (body : List Byte) (s : State) : State :=
  let q := s.port p
  if h.fseq ≠ q.rxSeq then s
  else if nth 0 q.held h.vc = 0 then protoError p s
  else
    let s := takeFields p h (modPort p (fun q => { q with
      rxSeq := (q.rxSeq + 1) % 4096, nakFor := none, nakSent := false, held := modNth (fun n => n - 1) q.held h.vc }) s)
    if !(s.port p).carrying then s
    else if h.ftype = 1 then takeData p h body s
    else flitsDone p h.vc 1 s (takeRecords p h body s)

/-- A flit arrives: `fecBad` when a unit of it came in an uncorrectable codeword (R311). -/
def receive (p : Nat) (bytes : List Byte) (fecBad : Bool) (s : State) : State :=
  let q := s.port p
  let h := flitHdrOf bytes
  let body := (bytes.drop 16).take 236
  let good := !fecBad && bytes.length == 256 && leAt bytes 252 4 == crc32 (bytes.take 252)
  let running := q.carrying && !q.retrain
  if !good then (if running && h.ftype != 0 then oweNak p s else s)
  else if h.ftype = 4 then recordArrives p body s
  else if h.ftype = 5 then authArrives p body s
  else if !running then (if q.carrying && ftypeBreaks h then protoError p s else s)
  else if h.ftype = 0 then takeFields p h s
  else if flitBreaks s p h then protoError p s
  else takeSequenced p h body s

/-- Codewords corrected and uncorrectable count in LNK_FEC_CNT of a port whose receivers run (R311, R345). -/
def countCodewords (p corr uncorr : Nat) (s : State) : State :=
  if (corr = 0 ∧ uncorr = 0) ∨ (s.port p).state = .down then s
  else bump (oLnk p 0x208) 20 12 uncorr (bump (oLnk p 0x208) 0 20 corr s)

/-- A flit, with the codewords that its lanes have corrected or failed to correct since the last one. -/
def execFlitReceive (p : Nat) (bytes : List Byte) (fecBad : Bool) (corr uncorr : Nat) (s : State) :
    Host.Outcome State Fault Refusal :=
  runLive (settleAfter fun s => receive p bytes fecBad (countCodewords p corr uncorr s)) s

end Sys2Proof.Machine
end

