-- ==== Sys2Proof/Machine/LinkCommands.lean ====
section
/-! DEFINITION. The meanings of the commands and events of stage-link ports at port level (R313 to R344, R539). -/
namespace Sys2Proof.Machine

def execLinkEnable (p : Nat) (s : State) : Host.Outcome State Fault Refusal := runLive (enableLink p) s
def execLinkDisable (p : Nat) (s : State) : Host.Outcome State Fault Refusal := runLive (settleAfter (disableLink p)) s
def execLinkRetrain (p : Nat) (s : State) : Host.Outcome State Fault Refusal := runLive (startRetrain p) s
def execPortReset (p : Nat) (s : State) : Host.Outcome State Fault Refusal := runLive (settleAfter (resetPort p)) s
def execLinkPause (p vcmask : Nat) (s : State) : Host.Outcome State Fault Refusal :=
  runLive (fun s => if (s.port p).carrying then controlArrives p 1 vcmask s else s) s
def execLinkResume (p vcmask : Nat) (s : State) : Host.Outcome State Fault Refusal :=
  runLive (fun s => if (s.port p).carrying then controlArrives p 2 vcmask s else s) s
def execLinkTrainingStart (p rxmask invert : Nat) (s : State) : Host.Outcome State Fault Refusal :=
  runLive (startTraining p rxmask invert) s
def execTrainingRecordReceived (p : Nat) (rec : List Byte) (s : State) : Host.Outcome State Fault Refusal :=
  runLive (settleAfter (recordArrives p rec)) s
def execAuthMessageReceived (p : Nat) (msg : List Byte) (s : State) : Host.Outcome State Fault Refusal :=
  runLive (settleAfter (authArrives p msg)) s
def execLaneFail (p lane : Nat) (s : State) : Host.Outcome State Fault Refusal := runLive (settleAfter (laneFails p lane)) s

/-- 250 ms of a retrain in place have passed: cause 0x0C, or 0x0A with a partner without capability bit 2 (R317). -/
def retrainTimeout (p : Nat) (s : State) : State :=
  if (s.port p).carrying && (s.port p).retrain then portDown p (if common s p 2 then 0x0C else 0x0A) s else s
def execRetrainTimeout (p : Nat) (s : State) : Host.Outcome State Fault Refusal := runLive (settleAfter (retrainTimeout p)) s

/-- 500 ms since entering TRAINING have passed: no partner's record, cause 0x02; in AUTH, cause 0x05 (R313, R341). -/
def trainingTimeout (p : Nat) (s : State) : State :=
  if (s.port p).state = .training then portDown p 0x02 s
  else if (s.port p).state = .auth then portDown p 0x05 s else s
def execTrainingTimeout (p : Nat) (s : State) : Host.Outcome State Fault Refusal := runLive (settleAfter (trainingTimeout p)) s

/-- 100 ms of AUTH have passed (R338). -/
def authTimeout (p : Nat) (s : State) : State :=
  if (s.port p).state = .auth then portDown p 0x05 s else s
def execAuthTimeout (p : Nat) (s : State) : Host.Outcome State Fault Refusal := runLive (settleAfter (authTimeout p)) s

/-- REFCLK_SL is lost for 10.0 µs: every lane pair of every carrying port fails, and the port enters DOWN (R539). -/
def refclkLost (s : State) : State :=
  (upto 16).foldl (fun s p => if (s.port p).carrying then
    portDown p 0x03 (modPort p (fun q => { q with failed := 0x1F }) s) else s) s
def execRefclkSlLoss (s : State) : Host.Outcome State Fault Refusal := runLive (settleAfter refclkLost) s

/-- The oldest unacknowledged flit has reached 500 ms (R323). -/
def deliveryBound (p : Nat) (s : State) : State :=
  if (s.port p).carrying && !(s.port p).retry.isEmpty then portDown p 0x09 s else s
def execDeliveryBoundExpiry (p : Nat) (s : State) : Host.Outcome State Fault Refusal := runLive (settleAfter (deliveryBound p)) s

/-- A VC that holds data has had no credit for 10.0 ms: STALL, and vector 2 once per stall, which lasts until a credit comes
(R329). -/
def creditStall (p vc : Nat) (s : State) : State :=
  let q := s.port p
  let data := if vc = 15 then !q.ctl.isEmpty else q.tx.any fun t => t.vc == vc && t.lastSeq.isNone
  if q.carrying && data && nth 0 q.avail vc == 0 && !bit q.stalls vc then
    raise 2 (setBit (oLnk p (0x180 + 4 * vc)) 23 (modPort p (fun q => { q with stalls := q.stalls ||| 2 ^ vc }) s))
  else s
def execCreditStall (p vc : Nat) (s : State) : Host.Outcome State Fault Refusal := runLive (creditStall p vc) s

/-- LINK_CONTROL (R427): one record on VC15; it completes when the record is acknowledged at link level. -/
def linkControl (h : HostHdr) (port cmd vcmask : Nat) (s : State) : State :=
  if cmd ≠ 1 ∧ cmd ≠ 2 then complete h stFormat s
  else if !(s.port port).carrying || !common s port 13 then complete h stPeerAbsent s
  else sendCtl port 3 (s.port port).peerMod (controlBytes cmd vcmask) (.control h) s
def execLinkControl (h : HostHdr) (port cmd vcmask : Nat) (s : State) : Host.Outcome State Fault Refusal :=
  runLive (linkControl h port cmd vcmask) s

/-- A queue credit return delivers buffer indices to the producing context (R216, R330): `x` and `q` name the queue the
buffers belong to. -/
def execQueueCreditReturn (p srcmod x q : Nat) (bufs : List Nat) (s : State) : Host.Outcome State Fault Refusal :=
  runLive (fun s => if (s.port p).carrying then takeCredits p srcmod x q bufs s else s) s

end Sys2Proof.Machine
end

