-- ==== Sys2Proof/Machine/Host.lean ====
section
/-! DEFINITION. The host interface (R407 to R436): rings and slots, the commands that move bytes, host loss and the return
of the host, function level reset of the HIF block, interrupts, and the HDM window. -/
namespace Sys2Proof.Machine

/-! ### NOP and FENCE (R427) -/

def execNop (h : HostHdr) (s : State) : Host.Outcome State Fault Refusal := runLive (complete h stOk) s

/-- The ring accepts no further slot until every command accepted before, on its ring and those of RMASK, has completed. -/
def fenceStart (h : HostHdr) (rmask : Nat) (s : State) : State :=
  let waits := s.hif.accepted.filter fun a => a != h && (a.ring == h.ring || bit rmask a.ring)
  { s with hif := { s.hif with fences := s.hif.fences ++ [⟨h, waits⟩] } }

def execFence (h : HostHdr) (rmask : Nat) (s : State) : Host.Outcome State Fault Refusal := runLive (fenceStart h rmask) s

/-! ### COPY and FILL (R428) -/

/-- Bytes of module memory as a COPY or SNAPSHOT carries them: those of a poisoned unit are free (log 68). -/
def copyRead (s : State) (a n : Nat) : List Byte :=
  (upto n).map fun i => if poisoned s (a + i) then BitVec.ofNat 8 (Config.freeValue (s.free + i)) else memByte s (a + i)
/-- The draws that such a read uses. -/
def copySpend (a n : Nat) (s : State) : State := if anyPoison s a n then { s with free := s.free + n } else s

/-- LENGTH is not a nonzero multiple of 64, or `a` is not 64-byte aligned. -/
def oddBlock (a n : Nat) : Bool := n == 0 || n % 64 != 0 || a % 64 != 0
/-- The block is not one that HDM holds in one range. -/
def badHdm (a n : Nat) : Bool := oddBlock a n || !inOneRange a n

/-- The breaches of R428 that complete with REFUSED_FORMAT. -/
def copyBad (s : State) (o : CopyOps) : Bool :=
  match o.kind with
  | 0 => badHdm o.src o.length || badHdm o.dst o.length
      || (decide (o.src < o.dst + o.length) && decide (o.dst < o.src + o.length))
  | 1 => oddBlock o.src o.length || badHdm o.dst o.length
  | 2 => badHdm o.src o.length || oddBlock o.dst o.length
  | 3 => badHdm o.src o.length || oddBlock o.dst o.length || decide (0xFFFFFFC0 < o.length)
  | 4 =>
    let c := s.ctx o.portCtx
    badHdm o.src o.length || c.state == .empty || !c.first || decide (c.aq.bufBytes < o.length)
  | _ => true

/-- Window writes on VC14 of port `p` can leave (R325). -/
def peerReady (s : State) (p : Nat) : Bool := (s.port p).carrying && vcEnabled s p 14

/-- The tail flag record of a COPY to a peer. -/
def copyFlag (o : CopyOps) : List Byte := recBytes ⟨1, 0, o.fctx, o.vflag, false, false, 0, 0, 0⟩

/-- COPY: the breaches, then the source is read and the movement starts. Its writes become visible at COPY_COMPLETE. -/
def copyStart (h : HostHdr) (o : CopyOps) (hostData : List Byte) (s : State) : State :=
  if copyBad s o then complete h stFormat s
  else if o.kind = 2 ∧ s.hif.stopped then complete h stHostLost s
  else if o.kind = 3 ∧ !peerReady s o.portCtx then complete h stPeerAbsent s
  else
    let data := if o.kind = 1 then padTo o.length (hostData.take o.length) else copyRead s o.src o.length
    let s := if o.kind = 1 then s else copySpend o.src o.length s
    let s := { s with hif := { s.hif with copies := s.hif.copies ++ [⟨h, o, data⟩] } }
    if o.kind ≠ 3 then s
    else
      let hdr := xferBytes ⟨0, o.win, 0, o.dst, o.length, false, o.tflag, 0, 0, 0, false⟩
      sendXfer o.portCtx 14 (s.port o.portCtx).peerMod (hdr ++ data ++ (if o.tflag then copyFlag o else [])) (.copy h) s

def execCopy (h : HostHdr) (o : CopyOps) (hostData : List Byte) (s : State) : Host.Outcome State Fault Refusal :=
  runLive (copyStart h o hostData) s

/-- The COPY that waits to complete under a header. -/
def copyJob (s : State) (h : HostHdr) : Option CopyJob := s.hif.copies.find? fun j => j.h == h
/-- It ends with a status. -/
def endCopy (j : CopyJob) (status : Nat) (s : State) : State :=
  complete j.h status { s with hif := { s.hif with copies := dropFirst (fun k => k == j) s.hif.copies } }

/-- An input entry takes a free buffer of the queue as soon as R216 would grant its credit, and is enqueued. -/
def copyEntry (j : CopyJob) (s : State) : State :=
  let x := j.o.portCtx
  let u := (s.ctx x).aq
  match u.free with
  | [] => s
  | b :: _ =>
    if grantable u = 0 ∨ !(s.ctx x).grants then s
    else
      let s := modQueue x 0 (fun u => { u with free := u.free.drop 1, granted := u.granted ++ [b] }) s
      endCopy j stOk (entryArrives .host x 0 b ⟨⟨0, 0, 0, 0⟩, 2, 0x20, j.o.tok32, 0, j.o.length, b, x, 0⟩ j.data s)

/-- COPY_COMPLETE. A COPY to a peer completes with the flit that acknowledges its last one, so that the row finds none
that has reached its condition and still waits. -/
def copyComplete (h : HostHdr) (s : State) : State :=
  match copyJob s h with
  | none => s
  | some j =>
    match j.o.kind with
    | 0 => endCopy j stOk (memWrite j.o.dst j.data s)
    | 1 => endCopy j stOk (memWrite j.o.dst j.data s)
    | 2 => endCopy j stOk (emit (.hostWrite j.o.dst j.data) s)
    | 3 => s
    | _ => copyEntry j s

def execCopyComplete (h : HostHdr) (s : State) : Host.Outcome State Fault Refusal := runLive (copyComplete h) s

/-- FILL: the 32-bit value over the range. -/
def fill (h : HostHdr) (dst length value : Nat) (s : State) : State :=
  if badHdm dst length then complete h stFormat s
  else complete h stOk (memWrite dst ((upto (length / 4)).flatMap fun _ => leBytes 4 value) s)

def execFill (h : HostHdr) (dst length value : Nat) (s : State) : Host.Outcome State Fault Refusal :=
  runLive (fill h dst length value) s

/-! ### SNAPSHOT (R232, R405) -/

/-- WHAT names a version; WHAT names state. -/
def snapVersion (o : SnapOps) : Bool := bit o.what 0
def snapState (o : SnapOps) : Bool := bit o.what 1

/-- `n` bytes of a plane of FP32 or BF16 elements, as a snapshot carries them: one to a peer as the update reads them (R512), one to
the host as COPY does (log 68). -/
def planeRead (s : State) (peer : Bool) (bf16 : Bool) (a n : Nat) : List Byte :=
  if !peer then copyRead s a n
  else if bf16 then (upto (n / 2)).flatMap fun i => leBytes 2 (memBf16 s (a + 2 * i) / 65536)
  else (upto (n / 4)).flatMap fun i => leBytes 4 (memF32 s (a + 4 * i))

/-- The planes and statistics of one entry in state slot `k`: plane order of R394, then R, C, S and t; an entry that is no matrix
has t alone (log 30). -/
def stateStream (s : State) (peer : Bool) (k : Nat) (e : UEntry) : List Byte :=
  let (a, b) := owned s e
  let n := b - a
  let (p0, p1, p2, p3) := planes s e k
  let own := if e.kind = 1 then 4 * n else if e.kind = 2 then 8 * ownedRows s e else 0
  let far := match loadedIn s e.grp e.bucket with | some bk => bk.far | none => false
  let res := if !far then [] else if residualKept s e.idx k then planeRead s peer false p3 (4 * n) else List.replicate (4 * n) 0
  let words := if e.kind = 0 then upto (ownedRows s e + e.cols + 2) else if e.kind = 1 then [1] else []
  planeRead s peer false p0 (4 * n) ++ planeRead s peer true p1 (2 * n) ++ planeRead s peer false p2 own ++ res
    ++ words.flatMap fun w => leBytes 4 (statGet s e.idx k w)

/-- The named update entries. -/
def snapEntries (s : State) (o : SnapOps) : List UEntry := (upto o.nent).map fun i => uentry s (o.entry + i)

/-- The bytes of a snapshot: the version, then the header and the state of each entry. -/
def snapBytes (s : State) (o : SnapOps) : List Byte :=
  let ver := match (s.region o.region).liveSlot o.gen with
    | some v =>
      let e := s.region o.region
      let n := if e.owned then shardBytes s e.ctx e.localIdx e.grp else versionBytes s e.ctx e.localIdx
      if o.dest = 1 then versionData s e v (slotFrom s e) n
      else (upto n).map fun i =>
        let a := versionAddr s e v (slotFrom s e + i)
        if poisoned s a then BitVec.ofNat 8 (Config.freeValue (s.free + i)) else memByte s a
    | none => []
  let hyper := (upto 5).map fun i => regGet s (oUpd (0x20 + 4 * i))
  let st := (upto 64).map (Config.snapHeader s.c hyper) ++ (snapEntries s o).flatMap (stateStream s (o.dest == 1) (s.c % 2))
  (if snapVersion o then ver else []) ++ (if snapState o then st else [])

/-- The refusals of R427 with REFUSED_FORMAT. -/
def snapBad (s : State) (o : SnapOps) : Bool :=
  o.what == 0 || (snapVersion o && ((s.region o.region).liveSlot o.gen).isNone)
    || (snapState o && (upto o.nent).any fun i => (tabFind s.upd.statRows (o.entry + i)).isNone)
    || (o.dest == 1 && o.daddr % 64 != 0)

/-- A transfer of a snapshot carries at most 0xFFFF_FFC0 data bytes: longer ones follow one another. -/
def snapTransfers (o : SnapOps) (h : HostHdr) (p dst : Nat) (data : List Byte) (s : State) : State :=
  let cut := chunks 0xFFFFFFC0 (data.length / 0xFFFFFFC0 + 1) data
  (upto cut.length).foldl (fun s i =>
    let d := nth [] cut i
    sendXfer p 14 dst (xferBytes ⟨0, o.win, 0, o.daddr + 0xFFFFFFC0 * i, d.length, false, false, 0, 0, 0, false⟩ ++ d)
      (if i + 1 = cut.length then .snapshot h else .nothing) s) s

/-- Pin generation `g` of a region. -/
def pinSlot (g : Nat) (e : Region) : Region :=
  e.mapFirst (fun v => v.state == .live && v.gen == g) (fun v => { v with pins := v.pins + 1 })

/-- SNAPSHOT: the refusals, then the pins and the bytes as of acceptance. -/
def snapshotStart (h : HostHdr) (o : SnapOps) (s : State) : State :=
  let e := s.region o.region
  let data := snapBytes s o
  let pinShort := snapVersion o && decide (e.pins < e.pinned + 1)
  if snapBad s o then complete h stFormat s
  else if pinShort || decide (o.dlen < data.length) then complete h stResources s
  else if o.dest = 1 ∧ !peerReady s o.port then complete h stPeerAbsent s
  else if o.dest ≠ 1 ∧ s.hif.stopped then complete h stHostLost s
  else
    let place := (findIdxN (fun v : VSlot => v.state == .live && v.gen == o.gen) e.slots 0).getD 0
    let pin := if snapVersion o then some (o.region, place) else none
    let s := if snapVersion o then modRegion o.region (pinSlot o.gen) s else s
    let slot := if snapState o then some (s.c % 2) else none
    let s := { s with free := s.free + data.length, upd := { s.upd with snaps := s.upd.snaps ++ [(⟨h, o, slot, pin, data⟩ : Snap)] } }
    if o.dest = 1 then snapTransfers o h o.port (s.port o.port).peerMod (padTo (roundUp data.length 64) data) s else s

def execSnapshot (h : HostHdr) (o : SnapOps) (s : State) : Host.Outcome State Fault Refusal := runLive (snapshotStart h o) s

/-- SNAPSHOT_COMPLETE: the last byte has left. A snapshot to a peer completes with the flit that acknowledges its last one, as a COPY
does (R428, log 179), so that the row finds none that has reached its condition and still waits. -/
def snapshotComplete (h : HostHdr) (s : State) : State :=
  match s.upd.snaps.find? (fun j => j.h == h) with
  | none => s
  | some j =>
    if j.o.dest = 1 then s else settleJobs (endSnap h stOk (emit (.hostWrite j.o.daddr j.data) s))

def execSnapshotComplete (h : HostHdr) (s : State) : Host.Outcome State Fault Refusal := runLive (snapshotComplete h) s

/-! ### Slots (R416, R423, R425) -/

/-- Operand fields of an opcode: offset in bits from the start of the slot, and width. Every other bit is reserved. -/
def slotFields (op : Nat) : Option (List (Nat × Nat)) :=
  let b := fun n => 8 * n
  if op = 0x01 ∨ op = 0x60 ∨ op = 0x61 then some []
  else if op = 0x02 then some [(b 8, 4)]
  else if op = 0x10 then some [(b 8, 4), (b 16, 64), (b 24, 64), (b 32, 64), (b 40, 64)]
  else if 0x11 ≤ op ∧ op ≤ 0x15 then some [(b 8, 4)]
  else if op = 0x20 then some [(b 8, 16), (b 16, 40), (b 24, 16), (b 28, 32)]
  else if op = 0x21 ∨ op = 0x22 then some [(b 16, 40)]
  else if op = 0x30 then some [(b 8, 3), (b 9, 4), (b 10, 6), (b 12, 10), (b 14, 12), (b 16, 64), (b 24, 64), (b 32, 10), (b 34, 11)]
  else if op = 0x40 then some [(b 8, 3), (b 9, 4), (b 10, 6), (b 11, 1), (b 12, 30), (b 16, 64), (b 24, 64), (b 32, 64), (b 40, 16)]
  else if op = 0x41 then some [(b 16, 64), (b 24, 64), (b 32, 32)]
  else if op = 0x50 ∨ op = 0x51 then some [(b 8, 30)]
  else if op = 0x52 then some [(b 8, 30), (b 12, 2), (b 16, 32), (b 20, 32)]
  else if op = 0x70 then some [(b 8, 4), (b 9, 4), (b 10, 16)]
  else none

/-- The bits above 63 of a slot that its opcode's fields leave. -/
def reservedBits (v : Nat) (fs : List (Nat × Nat)) : Nat := fs.foldl (fun w f => putBits w f.1 f.2 0) (v / 2 ^ 64 * 2 ^ 64)

/-- The command in a slot with opcode `op` and header `h`; none when R423 refuses the slot. -/
def slotCommand (v : Nat) (h : HostHdr) : Option Instr :=
  let op := bits v 0 8
  let f := fun byte n => bits v (8 * byte) n
  match slotFields op with
  | none => none
  | some fs =>
    if reservedBits v fs ≠ 0 ∨ bits v 10 6 ≠ 0 ∨ (bit v 9 ∧ op ≠ 0x52) then none
    else if op = 0x01 then some (.nop h)
    else if op = 0x02 then some (.fence h (f 8 4))
    else if op = 0x10 then some (.patternLoad h (f 8 4) (f 16 64) (f 24 64) (f 32 64) (f 40 64))
    else if op = 0x11 then some (.patternUnload h (f 8 4))
    else if op = 0x12 then some (.contextStart h (f 8 4))
    else if op = 0x13 then some (.contextPreempt h (f 8 4))
    else if op = 0x14 then some (.contextResume h (f 8 4))
    else if op = 0x15 then some (.contextReset h (f 8 4))
    else if op = 0x20 then some (.stepBegin h (f 8 16) (f 16 40) (f 24 16) (f 28 32))
    else if op = 0x21 then some (.stepCommit h (f 16 40))
    else if op = 0x22 then some (.stepAbandon h (f 16 40))
    else if op = 0x30 then
      some (.snapshot h ⟨f 8 2, bits v 66 1, f 9 4, f 10 6, f 12 10, f 14 12, f 16 64, f 24 64, f 32 10, f 34 11⟩)
    else if op = 0x40 then
      some (.copy h ⟨f 8 3, f 9 4, f 10 6, bit v 88, f 12 24, bits v 120 6, f 16 64, f 24 64, f 32 64, f 40 16⟩ [])
    else if op = 0x41 then some (.fill h (f 16 64) (f 24 64) (f 32 32))
    else if op = 0x50 then some (.flagSet h (f 8 24) (bits v 88 6))
    else if op = 0x51 then some (.flagClear h (f 8 24) (bits v 88 6))
    else if op = 0x52 then
      (if bit v 9 then some (.flagWaitCancel h (f 20 32))
       else some (.flagWait h (f 8 24) (bits v 88 6) (bit v 96) (bit v 97) (f 16 32)))
    else if op = 0x60 then some (.quiesce h)
    else if op = 0x61 then some (.resumeAll h)
    else some (.linkControl h (f 8 4) (f 9 4) (f 10 16))

/-- Start an accepted command. A COPY from the host starts when its data has come: the row COPY with the same header
(log 63). -/
def startCommand (i : Instr) (s : State) : State :=
  match i with
  | .nop h => complete h stOk s
  | .fence h m => fenceStart h m s
  | .patternLoad _ _ _ _ _ _ | .patternUnload _ _ | .contextStart _ _ | .contextPreempt _ _ | .contextResume _ _
  | .contextReset _ _ => ctxCommand i s
  | .stepBegin _ _ _ _ _ | .stepCommit _ _ | .stepAbandon _ _ => stepCommand i s
  | .snapshot h o => snapshotStart h o s
  | .copy h o d => if o.kind = 1 ∧ !copyBad s o then s else copyStart h o d s
  | .fill h d l v => fill h d l v s
  | .flagSet h v c => hostFlag h c v true s
  | .flagClear h v c => hostFlag h c v false s
  | .flagWait h v c val con t => hostWait h v c val con t s
  | .flagWaitCancel h t => hostCancel h t s
  | .quiesce h => quiesce (some h) s
  | .resumeAll h => settleJobs (complete h stOk (resumeAll s))
  | .linkControl h p c m => linkControl h p c m s
  | _ => s

/-! ### Rings (R413 to R422) -/

/-- The completion ring has room for one more record (R419), beside those that a host loss holds back with no command of theirs
accepted (R421, R432). -/
def cqRoom (s : State) (n : Nat) : Bool :=
  let r := s.ring n
  let k := cqSlots s n
  let held := (s.hif.held.filter fun q => q.h.ring % 4 == n && q.status == stEarly).length
  decide (outst s n < 4096) && decide (outst s n + held + 1 + (r.cqTail + k - r.cqHead % k) % k ≤ k - 1)

/-- The ring reads slots: enabled, a slot to read, no FENCE that holds it, room for the record. -/
def ringReads (s : State) (n : Nat) : Bool :=
  let r := s.ring n
  decide (n < 4) && r.en && !r.stopped && r.head != r.tail && !(s.hif.fences.any fun f => f.h.ring == n) && cqRoom s n

/-- Address of the slot at HEAD. -/
def slotAddr (s : State) (n : Nat) : Nat := sqBase s n + 64 * (s.ring n).head
/-- The slot at HEAD as a number. -/
def slotWord (s : State) (n : Nat) : Nat := memNat s (slotAddr s n) 64
/-- The slot at HEAD is new (R420); a poisoned one is not (log 64). -/
def slotNew (s : State) (n : Nat) : Bool := !poisoned s (slotAddr s n) && bits (slotWord s n) 16 16 == (s.ring n).expstamp

/-- Accept the slot at HEAD. -/
def acceptSlot (n : Nat) (s : State) : State :=
  let v := slotWord s n
  let h : HostHdr := ⟨n, bits v 32 32, bits v 16 16, bit v 8⟩
  let s := modRing n (fun r => { r with
    head := (r.head + 1) % sqSlots s n, expstamp := (r.expstamp + 1) % 2 ^ 16, stale := none }) s
  let s := { s with hif := { s.hif with accepted := s.hif.accepted ++ [h] } }
  match slotCommand v h with
  | some i => startCommand i s
  | none => complete h stFormat s

/-- The DOORBELL_EARLY record (R421): TAG 0, the stamp expected, the slot index; reading stops until a doorbell. -/
def doorbellEarly (n : Nat) (s : State) : State :=
  let r := s.ring n
  completeWith ⟨n, 0, r.expstamp, false⟩ stEarly r.head (modRing n (fun r => { r with stopped := true, stale := none }) s)

/-- SUBMISSION_SLOT_ACCEPT: the module reads the slot at HEAD; a new one is accepted, a stale one is read again later. -/
def readSlot (n : Nat) (s : State) : State :=
  if !ringReads s n then s
  else if slotNew s n then acceptSlot n s
  else if fld s oRetry 0 16 = 0 then doorbellEarly n s
  else if (s.ring n).stale.isSome then s
  else modRing n (fun r => { r with stale := some s.glb.time }) s

def execSubmissionSlotAccept (ring : Nat) (s : State) : Host.Outcome State Fault Refusal := runLive (readSlot ring) s

/-- STALE_SLOT_REREAD. -/
def reread (n : Nat) (s : State) : State :=
  if ringReads s n && (s.ring n).stale.isSome && slotNew s n then acceptSlot n s else s
def execStaleSlotReread (ring : Nat) (s : State) : Host.Outcome State Fault Refusal := runLive (reread ring) s

/-- DOORBELL_EARLY: RETRY_NS has passed and the slot is still stale. -/
def staleOver (n : Nat) (s : State) : State :=
  if ringReads s n && (s.ring n).stale.isSome && !slotNew s n then doorbellEarly n s else s
def execDoorbellEarly (ring : Nat) (s : State) : Host.Outcome State Fault Refusal := runLive (staleOver ring) s

/-- A write of HIF_SQ_TAIL; on an enabled ring a doorbell. -/
def doorbell (n tail : Nat) (s : State) : State :=
  modRing n (fun r => if r.en then { r with tail := tail % 4096, stale := none, stopped := false }
    else { r with tail := tail % 4096 }) s
def execRingDoorbell (ring tail : Nat) (s : State) : Host.Outcome State Fault Refusal := runLive (doorbell ring tail) s

/-- The configuration of a ring allows EN = 1 (R414). -/
def ringOk (s : State) (n : Nat) : Bool :=
  s.boot.ready && decide (sqBase s n + 64 * sqSlots s n ≤ fastTop) && decide (fld s (oSqSize n) 0 4 ≤ 8) && decide (fld s (oCqSize n) 0 4 ≤ 12)
    && outst s n == 0

/-- EN = 1 is written to a ring that is not enabled. The driver has set the MSI-X table again by then (log 69). -/
def enableRing (n : Nat) (s : State) : State :=
  if n ≥ 4 ∨ (s.ring n).en then s
  else if ringOk s n then
    modRing n (fun _ => { Ring.reset with en := true }) (unmaskTable s)
  else setBit (oSqSize n) 30 s

/-- RING_ENABLE: the write stores SLOG while EN = 0. -/
def execRingEnable (ring slog : Nat) (s : State) : Host.Outcome State Fault Refusal :=
  runLive (fun s => if ring ≥ 4 ∨ (s.ring ring).en then s else enableRing ring (setFld (oSqSize ring) 0 4 slog s)) s

/-- EN = 0 is written (R415). -/
def disableRing (n : Nat) (s : State) : State := modRing n (fun r => { r with en := false, stale := none }) s
def execRingDisable (ring : Nat) (s : State) : Host.Outcome State Fault Refusal := runLive (disableRing ring) s
/-- RING_STOP of the urgent page. -/
def execUrgentRingStop (ring : Nat) (s : State) : Host.Outcome State Fault Refusal :=
  runLive (fun s => if ring < 4 then urgentDone (disableRing ring (urgentBegin s)) else s) s

/-! ### Host loss (R432, R433) -/

/-- Host-bound data in flight: COPYs to the host and snapshots to the host. -/
def hostBound (s : State) : List HostHdr :=
  ((s.hif.copies.filter fun j => j.o.kind == 2).map (·.h)) ++ ((s.upd.snaps.filter fun j => j.o.dest != 1).map (·.h))

/-- The pending host-bound writes are dropped and counted. How many there were for the data in flight is free (log 15). -/
def dropPending (s : State) : State :=
  if (hostBound s).isEmpty then s else bump oHostLoss 16 16 (drawn s) (spend s)

/-- End every host-bound movement with HOST_LOST. -/
def loseHostBound (s : State) : State :=
  (hostBound s).foldl (fun s h => match copyJob s h with | some j => endCopy j stHostLost s | none => endSnap h stHostLost s) s

/-- HOST_LOSS: cause 1 a link down, 2 a hot reset or secondary bus reset. -/
def hostLoss (cause : Nat) (s : State) : State :=
  let s := dropPending (setBit oHostLoss 3 (recordReset 5 8 s))
  let s := maskTable { s with hif := { s.hif with stopped := true, lossCause := cause % 4 } }
  let s := logEv 0x1B stHostLost agHub { port := 0x10, arg := cause % 4 } s
  settleJobs (loseHostBound s)

/-- Before READY nothing is under way that a loss could stop: its kind is recorded, and the MSI-X table returns to its reset values
(R495, R527). -/
def execHostLoss (cause : Nat) (s : State) : Host.Outcome State Fault Refusal :=
  runAwake (fun s =>
    if cause = 1 ∨ cause = 2 then (if s.boot.ready then hostLoss cause s else maskTable (recordReset 5 8 s)) else s) s

/-- Write one record that was held; on a ring since disabled it is discarded (R415, R433). -/
def releaseRecord (s : State) (r : HeldRec) : State :=
  let n := r.h.ring % 4
  let s := if r.status = stEarly then s else dropAccepted r.h s
  if (s.ring n).en then writeRecord n r.h.tag r.status r.h.sstamp r.result s else bump (oSqSize n) 16 8 1 s

/-- A write of HIF_HWGEN: a new value while STOPPED lets records go, and the messages after them. After a die-port failure the stop
ends with a module reset alone (R439). -/
def writeGen (gen : Nat) (s : State) : State :=
  let g := gen % 2 ^ 16
  if !s.hif.stopped || g == s.hif.gen || s.glb.dieFail then { s with hif := { s.hif with gen := g } }
  else
    let held := s.hif.held
    let irqs := s.hif.heldIrq
    let s := unmaskTable { s with hif := { s.hif with gen := g, stopped := false, held := [], heldIrq := [] } }
    irqs.foldl (fun s v => sendLater v s) (held.foldl releaseRecord s)

def execHwgenWrite (gen : Nat) (s : State) : Host.Outcome State Fault Refusal := runLive (writeGen gen) s

/-! ### Function level reset (R495, R497) -/

/-- Every register of the HIF block returns to its reset value. -/
def resetHifRegs (s : State) : State :=
  { s with regs := s.regs.filter fun e => (blockOf e.1).1 != .hif, latches := s.latches.filter fun e => (blockOf e.1).1 != .hif }

/-- A FLR: the HIF block and the MSI-X table reset, rings disabled, pending writes dropped, host waits gone, host flag
contexts poisoned; everything else goes on. What completes by that has no record, and the registers of the block read their reset
values after it. Whether contexts are quiesced stays a fact (log 67). -/
def functionReset (s : State) : State :=
  let s := maskTable (recordReset 6 9 s)
  let held := (s.hif.held.filter fun r => r.status != stEarly).map (·.h)
  let hostWaits_ := s.flg.waits.filterMap fun w => match w.who with | .host h _ => some h | _ => none
  let notHost : Wait → Bool := fun w => match w.who with | .host _ _ => false | _ => true
  let s := { s with flg := { s.flg with waits := s.flg.waits.filter notHost } }
  let s := { s with hif := { s.hif with
    rings := List.replicate 4 Ring.reset, accepted := s.hif.accepted.filter (fun h => !(held ++ hostWaits_).contains h),
    held := [], heldIrq := [], stopped := false, lossCause := 0, gen := 0, urgCount := 0, urgBusy := 0 } }
  let quiet := s.hif.quiesceJobs
  let s := { s with hif := { s.hif with quiesceJobs := [] } }
  let s := loseHostBound (quiet.foldl (fun s h => completeOpt h stOk s) s)
  let s := settleJobs (((upto 16).map (· + 16) ++ ownedFlags s 16).foldl (fun s c => poisonFlags c s) s)
  resetHifRegs (resolveFences s.hif.fences.length s)

/-- Before READY the HIF block stands at its reset values; the kind is recorded (R527). -/
def execFlr (s : State) : Host.Outcome State Fault Refusal :=
  runAwake (fun s => if s.boot.ready then functionReset s else maskTable (recordReset 6 9 s)) s

/-! ### Interrupts and the lock (R524, R530) -/

/-- A write of GLB_IRQ_MASK: a mask bit cleared while RAW is set sends one message. -/
def writeMask (mask : Nat) (s : State) : State :=
  let old := fld s oIrqMask 0 16
  let s := setFld oIrqMask 0 16 mask s
  (upto 16).foldl (fun s v =>
    if bit old v && !bit mask v && bit (fld s oIrqRaw 0 16) v then sendLater v s else s) s

def execIrqMaskWrite (mask : Nat) (s : State) : Host.Outcome State Fault Refusal := runLive (writeMask mask) s

/-- The holdoff of a vector ends: one deferred message is sent. -/
def holdoffEnds (v : Nat) (s : State) : State :=
  if (s.vec v).deferred then sendLater v (modVec v (fun u => { u with deferred := false, last := none }) s) else s

def execIrqHoldoffExpiry (v : Nat) (s : State) : Host.Outcome State Fault Refusal := runLive (holdoffEnds v) s

def execCfgLockSet (s : State) : Host.Outcome State Fault Refusal := runLive (setBit oCfgLock 0) s

/-! ### The HDM window (R410, R411, R472, R512) -/

/-- A host read: zeros in a hole, poison where a unit is poisoned. -/
def hostRead (addr len : Nat) (s : State) : State :=
  let data := (upto len).map fun i => if (memRange (addr + i)).isSome then memByte s (addr + i) else 0
  emit (.hdmData addr data (anyPoison s addr len)) s

def execHdmRead (addr len : Nat) (s : State) : Host.Outcome State Fault Refusal :=
  if addr + len > 2 ^ 40 then .next s
  else if s.live then run (fun s => hostRead addr len (hostBias addr len s)) s
  else if s.awake then run (emit (.hdmData addr (List.replicate len 0) false)) s else .next s

/-- A host write: stored, or dropped and logged in a hole. -/
def hostStore (addr : Nat) (data : List Byte) (s : State) : State :=
  if inOneRange addr data.length then memWrite addr data (hostBias addr data.length s)
  else raise 1 (logEv 0x1A stFormat agHub { port := 0x10, arg := addr } s)

def execHdmWrite (addr : Nat) (data : List Byte) (s : State) : Host.Outcome State Fault Refusal :=
  if addr + data.length > 2 ^ 40 then .next s else runLive (hostStore addr data) s

end Sys2Proof.Machine
end

