-- ==== Sys2Proof/Machine/Power.lean ====
section
/-! DEFINITION. Power, heat and memory errors (R24, R483 to R493, R512, R531, R532, R536): the temperature and power
sensors, the clock levels, the removal of the rails, what a reset that boots leaves, and the error counters of the base dies. -/
namespace Sys2Proof.Machine

/-! ### Pins (R536) -/

/-- GLB_STAT.THROTTLE: some compute die runs below level 0. -/
def throttled (s : State) : Bool := s.pwr.level.any fun l => l != 0

/-- A level that has changed is driven. -/
def drivePin (name : String) (was is : Bool) (s : State) : State := if is != was then emit (.pin name is) s else s

/-- The signals between the 48 V side and the logic side, of which PG_CORE falls first (R483, R486), then MOD_READY and
THERM_WARN_N, follow their bits. -/
def drivePins (s0 s : State) : State :=
  let s := drivePin "PG_CORE" s0.pwr.pgCore s.pwr.pgCore s
  let s := drivePin "PS_FAULT_N" (!s0.pwr.psFaultLow) (!s.pwr.psFaultLow) s
  let s := drivePin "VIN_OK" s0.pwr.vinOk s.pwr.vinOk s
  let s := drivePin "MOD_READY" s0.boot.ready s.boot.ready s
  drivePin "THERM_WARN_N" (!throttled s0) (!throttled s) s

/-- A change after which the pins are driven. -/
def withPins (f : State → State) (s : State) : State := drivePins s (f s)

/-! ### What a reset that runs the boot sequence leaves (R461, R495, R496, R522) -/

def bankDefault (_ : Nat) : Bank := Bank.none

/-- A base die at reset; the marks of R531 outlive every reset but power-on. -/
def keepMarks (b : Bse) : Bse :=
  { Bse.reset with banks := b.banks.foldl (fun t e => tabSet bankDefault t e.1 { Bank.none with marks := e.2.marks }) [] }

/-- Everything at its Reset value but the fuses, the flash, the supply and the pins. `keep`: memory keeps its contents
and GLB_TIME its count, as after a module or conventional reset; otherwise the reset is a power-on. -/
def freshLogic (keep : Bool) (s : State) : State :=
  let r := State.reset
  { r with
    glb := { r.glb with time := if keep then s.glb.time else 0 },
    latches := if keep then tabSet latchReset [] 0x104 (BitVec.ofNat 32 (s.glb.time / 2 ^ 32)) else [],
    bses := if keep then s.bses.map keepMarks else r.bses,
    cmps := if keep then s.cmps.map fun c => { Cmp.reset with sram := c.sram } else r.cmps,
    pwr := { r.pwr with powered := s.pwr.powered, modRstLow := s.pwr.modRstLow, perstLow := s.pwr.perstLow,
                        vinOk := s.pwr.vinOk, pgCore := s.pwr.pgCore, psFaultLow := s.pwr.psFaultLow,
                        lastFault := s.pwr.lastFault, tripAgent := s.pwr.tripAgent },
    boot := { r.boot with fuses := s.boot.fuses, flash := s.boot.flash },
    hdm := if keep then s.hdm else [], poison := if keep then s.poison else [],
    bias := if keep then s.bias else [],
    sramPoison := if keep then s.sramPoison else [], out := s.out, free := s.free, pending := s.pending }

/-! ### The rails (R485) -/

/-- LAST_FAULT of R501. -/
def RailCause.code : RailCause → Nat
  | .inputLow => 1
  | .inputHigh => 2
  | .overcurrent => 3
  | .overTemp => 4
  | .trip _ => 5
  | .regulation => 6
  | .powerEnable => 7
  | .railOff => 8

/-- The input has left its window (R485). -/
def RailCause.input : RailCause → Bool
  | .inputLow => true
  | .inputHigh => true
  | _ => false

/-- The removal was asked for: no fault (R486). -/
def RailCause.asked : RailCause → Bool
  | .powerEnable => true
  | .railOff => true
  | _ => false

/-- Flash that was being programmed when power went fails R466 at the next boot (R477). -/
def tornFlash (s : State) : List Byte :=
  match s.boot.session with
  | some q => if q.committing then [] else s.boot.flash
  | none => s.boot.flash

/-- Every rail is removed: PG_CORE falls, the controller keeps the cause, and memory is lost. -/
def removeRails (c : RailCause) (s : State) : State :=
  let agent := match c with | .trip a => a % 16 | _ => 15
  withPins (fun s =>
    let s := { s with boot := { s.boot with flash := tornFlash s },
                      pwr := { s.pwr with powered := false, pgCore := false, psFaultLow := !RailCause.asked c, vinOk := !RailCause.input c,
                                          lastFault := RailCause.code c, tripAgent := agent } }
    freshLogic false s) s

/-- POWER_REMOVAL. A module that is off stays as it is. -/
def execPowerRemoval (cause : RailCause) (s : State) : Host.Outcome State Fault Refusal :=
  if s.pwr.powered then run (removeRails cause) s else .next s

/-- GLB_RST_CTL holds the key of R527 in a written word. -/
def rstKey : Nat := 0xA55A

/-- POWER_DOWN: RAIL_OFF_N goes low, and the rails are removed. -/
def powerDown (s : State) : State := removeRails .railOff (emit (.pin "RAIL_OFF_N" false) s)
def execPowerDown (key : Nat) (s : State) : Host.Outcome State Fault Refusal :=
  runLive (fun s => if key = rstKey then powerDown s else s) s

/-! ### Clock levels (R488, R489, R501) -/

/-- PWR_CLK_LEVEL.FLOOR of die `d`. -/
def clockFloor (s : State) (d : Nat) : Nat := fld s (oPwr (0x30 + 4 * d)) 9 3

/-- The level of die `d` from its contributions. -/
def levelOf (s : State) (d : Nat) : Nat := max (max (nth 0 s.pwr.therm d) s.pwr.pwr) (clockFloor s d)

/-- Set the level of every compute die; STEP_CNT counts the changes. -/
def setLevels (s : State) : State :=
  (upto 4).foldl (fun s d =>
    let l := levelOf s d
    if l = nth 0 s.pwr.level d then s
    else bump (oPwr (0x30 + 4 * d)) 16 16 1 { s with pwr := { s.pwr with level := modNth (fun _ => l) s.pwr.level d } }) s

/-- Dies that demote (R492). -/
def demotingDies (s : State) : List Nat := (upto 4).filter (demoting s)

/-- Vector 4 when a die has started demoting since `s0` (R490). -/
def demoteAlert (s0 s : State) : State := raiseIf ((demotingDies s).any fun d => !(demotingDies s0).contains d) 4 s

/-- The power contribution at a tick; PWR_IN counts 0.125 W and PWR_LIMIT 1 W. -/
def powerTick (s : State) : State :=
  let w := fld s (oPwr 0x50) 0 16
  let limit := fld s (oPwr 0x40) 0 13
  let p := s.pwr
  if fld s (oPwr 0x40) 13 1 = 1 ∧ 8 * limit < w then { s with pwr := { p with pwr := min (p.pwr + 1) 7, pcool := 0 } }
  else if 0 < p.pwr ∧ 100 * w < 784 * limit then
    if p.pcool + 1 = 10 then { s with pwr := { p with pwr := p.pwr - 1, pcool := 0 } }
    else { s with pwr := { p with pcool := p.pcool + 1 } }
  else { s with pwr := { p with pcool := 0 } }

/-- TEMP of the register at offset `r` of the PWR block, in 0.125 °C. -/
def tempAt (s : State) (r : Nat) : Int := toSigned (fld s (oPwr r) 0 12) 12

/-- The thermal contribution and the cool ticks of die `d` after a tick: 95.0 °C is 760, 92.0 °C is 736. -/
def thermNext (s : State) (d : Nat) : Nat × Nat :=
  let t := nth 0 s.pwr.therm d
  let k := nth 0 s.pwr.cool d
  let tb := tempAt s (4 * d)
  if 760 ≤ tb then (min (t + 1) 7, 0)
  else if tb < 736 ∧ 0 < t then (if k + 1 = 10 then (t - 1, 0) else (t, k + 1))
  else (t, 0)

/-- The thermal contributions at a tick; one that rises from 0 raises vector 4 (R490). -/
def thermTick (s : State) : State :=
  let new := (upto 4).map (thermNext s)
  let rises := (upto 4).any fun d => nth 0 s.pwr.therm d == 0 && (nth (0, 0) new d).1 != 0
  raiseIf rises 4 { s with pwr := { s.pwr with therm := new.map (·.1), cool := new.map (·.2) } }

/-- THERMAL_TICK: PWR_IN takes the averages of the past millisecond, then R489 acts. -/
def thermalTick (watts volts : Nat) (s : State) : State :=
  let s1 := setFld (oPwr 0x50) 16 16 volts (setFld (oPwr 0x50) 0 16 watts s)
  withPins (fun s => demoteAlert s (setLevels (thermTick (powerTick s)))) s1

def execThermalTick (watts volts : Nat) (s : State) : Host.Outcome State Fault Refusal := runAwake (thermalTick watts volts) s

/-- PS_ALERT_N falls: one more level of power contribution at once, and vector 4. -/
def psAlert (s : State) : State :=
  withPins (fun s =>
    let s := bump (oPwr 0x54) 16 16 1 (setBit (oPwr 0x54) 12 s)
    raise 4 (setLevels { s with pwr := { s.pwr with pwr := min (s.pwr.pwr + 1) 7, pcool := 0 } })) s

def execPsAlert (s : State) : Host.Outcome State Fault Refusal := runAwake psAlert s

/-- CLOCK_LEVEL_APPLY: the array clock of die `d` takes its level, on a fixed-tempo die only between blocks (R272). -/
def clockApply (d : Nat) (s : State) : State :=
  if inTempoBlock s d then s
  else { s with pwr := { s.pwr with applied := modNth (fun _ => nth 0 s.pwr.level d) s.pwr.applied d } }

def execClockLevelApply (d : Nat) (s : State) : Host.Outcome State Fault Refusal := runAwake (clockApply d) s

/-- A write of FLOOR sets the level at once. -/
def writeFloor (d floor : Nat) (s : State) : State :=
  withPins (fun s => setLevels (setFld (oPwr (0x30 + 4 * d)) 9 3 floor s)) s

def execClockFloorWrite (d floor : Nat) (s : State) : Host.Outcome State Fault Refusal :=
  runLive (fun s => if d < 4 then writeFloor d floor s else s) s

/-! ### Temperatures (R489 to R491, R501) -/

/-- Offset in the PWR block of the temperature register of an agent. -/
def tempReg (agent : Nat) : Nat :=
  if agent < 4 then 0x10 + 4 * agent else if agent < 8 then 4 * (agent - 4) else if agent = 8 then 0x20 else 0x24

/-- TEMP, PEAK and SENSOR_ERR of a sample. -/
def storeTemp (r temp : Nat) (err : Bool) (s : State) : State :=
  let peak := if toSigned (fld s (oPwr r) 16 12) 12 < toSigned temp 12 then temp else fld s (oPwr r) 16 12
  setFld (oPwr r) 16 12 peak (setFld (oPwr r) 14 1 (b2n err) (setFld (oPwr r) 0 12 temp s))

/-- TEMP_SAMPLE: `temp` is the 12-bit TEMP. At 100.0 °C (800) HOT is set; at 105.0 °C (840) a base die and at 110.0 °C
(880) another die trips. -/
def tempSample (agent temp : Nat) (err : Bool) (s : State) : State :=
  let r := tempReg agent
  let hot := decide (tempAt s r < 800) && decide (800 ≤ toSigned temp 12)
  let trip := if 4 ≤ agent ∧ agent < 8 then (840 : Int) else 880
  let s := storeTemp r temp err s
  let s := if hot then raise 4 (logEv 0x1F stOk agHub { arg := agent + temp % 4096 * 65536 } (setBit (oPwr r) 13 s)) else s
  if trip ≤ toSigned temp 12 then removeRails (.trip agent) (emit (.pin "THERM_TRIP_N" false) s) else s

def execTempSample (agent temp : Nat) (sensorErr : Bool) (s : State) : Host.Outcome State Fault Refusal :=
  runAwake (fun s => if agent < 10 then tempSample agent temp sensorErr s else s) s

/-! ### Memory errors (R24, R512, R531, R532) -/

/-- Where an error counts: base-die block, offset of its ECC word, LAST code (0x020 only), detecting agent. -/
def eccOf (place : MemPlace) : Option (Nat × Nat × Nat × Nat) :=
  match place with
  | .opbuf d _ => if d < 4 then some (d, 0x020, 3, d) else none
  | .staging _ => some (0, 0x024, 0, agHub)
  | .updSram _ => some (1, 0x024, 0, agUd)
  | .hdm a =>
    if a < fastTop then
      let k := a / 0x900000000
      some (k / 2, 0x020, 1 + k % 2, 4 + k / 2)
    else if vsLo ≤ a ∧ a < vsTop then
      let d := (a - vsLo) / 0x40000000
      some (d, 0x020, 0, 4 + d)
    else if slowLo ≤ a ∧ a < slowTop then some (2 + (a - slowLo) / 0x1000000000 / 4, 0x024, 0, agUd)
    else none

/-- Count one error in field CE (corrected) or UE of the word; word 0x020 keeps the memory of the last error. -/
def countEcc (e : Nat × Nat × Nat × Nat) (corrected : Bool) (s : State) : State :=
  let off := oBse e.1 e.2.1
  let s := if corrected then bump off 0 16 1 s else bump off 16 8 1 s
  if e.2.1 = 0x020 then modBse e.1 (fun b => { b with last := e.2.2.1 }) s else s

/-- The poisoned unit of an SRAM place, as (agent, unit), and the argument of its log entry (R529). -/
def sramUnit (place : MemPlace) : Option ((Nat × Nat) × Nat) :=
  let at_ := fun agent word => some ((agent, word / 8), agent * 2 ^ 59 + word % 2 ^ 32)
  match place with
  | .hdm _ => none
  | .opbuf d w => at_ d w
  | .staging w => at_ agHub w
  | .updSram w => at_ agUd w

/-- Report a newly poisoned unit: the counter, the entry of event 0x05, vector 1. -/
def reportPoison (e : Nat × Nat × Nat × Nat) (arg : Nat) (consumer : Option Nat) (s : State) : State :=
  raise 1 (logEv 0x05 stNonfinite e.2.2.2 { ctx := consumer.getD 0x1F, arg := arg } (countEcc e false s))

/-- UNCORRECTABLE_MEMORY_ERROR. A unit already poisoned reports nothing more. -/
def uncorrectable (place : MemPlace) (consumer : Option Nat) (s : State) : State :=
  match eccOf place, sramUnit place, place with
  | some e, none, .hdm a =>
    if poisoned s a then s
    else reportPoison e (a / 64 * 64) consumer { s with poison := s.poison ++ [a / 64 * 64] }
  | some e, some (u, arg), _ =>
    if s.sramPoison.contains u then s else reportPoison e arg consumer { s with sramPoison := s.sramPoison ++ [u] }
  | _, _, _ => s

def execUncorrectableMemoryError (place : MemPlace) (consumer : Option Nat) (s : State) : Host.Outcome State Fault Refusal :=
  runLive (uncorrectable place consumer) s

/-- A corrected error of a version-store bank, attributed to a slice: at 16 the slice is marked (R531). -/
def bankError (slice : Option Nat) (b : Bank) : Bank :=
  let b := { b with ce := satAdd 255 b.ce 1 }
  match slice with
  | none => b
  | some k =>
    let n := (tabFind b.sliceCe k).getD 0 + 1
    let b := { b with sliceCe := tabInsert b.sliceCe k n }
    if 16 ≤ n ∧ k ≤ 9 ∧ !b.marks.contains k then { b with marks := b.marks ++ [k] } else b

/-- The base die and the bank of a version-store address: banks follow one another (log 72). -/
def bankOf (a : Nat) : Option (Nat × Nat) :=
  if vsLo ≤ a ∧ a < vsTop then some ((a - vsLo) / 0x40000000, (a - vsLo) % 0x40000000 / 0x800000) else none

/-- CORRECTED_MEMORY_ERROR. -/
def corrected (place : MemPlace) (slice : Option Nat) (s : State) : State :=
  match eccOf place with
  | none => s
  | some e =>
    let s := countEcc e true s
    match place with
    | .hdm a =>
      match bankOf a with
      | some (d, k) => modBse d (fun b => { b with
          banks := tabSet bankDefault b.banks k (bankError slice (tabGet bankDefault b.banks k)) }) s
      | none => s
    | _ => s

def execCorrectedMemoryError (place : MemPlace) (slice : Option Nat) (s : State) : Host.Outcome State Fault Refusal :=
  runLive (corrected place slice) s

end Sys2Proof.Machine
end

