-- ==== Sys2Proof/Machine/Registers.lean ====
section
/-! DEFINITION. Reads and writes of BAR0 (R8 to R12, R65, R100, R132, R154, R196, R244, R273, R306, R345, R384, R406, R436,
R501, R518 to R532): what each register shows, what a read clears or latches, and what a write does. A register stores the
fields of `RegMap.lean`; the others are computed here from the state. -/
namespace Sys2Proof.Machine

/-! ### What a register shows: GLB and HIF -/

/-- Slot `i` of the error log. -/
def logSlot (s : State) (i : Nat) : Option LogE := nth none s.glb.log i

/-- GLB_ERR_DATA of the slot SEL. -/
def errDataView (s : State) (r : Nat) : Nat :=
  match logSlot s (fld s oErrCtl 0 5) with
  | none => if r = 0x194 then 0x1F1F0000 else 0
  | some e =>
    let st := match e.stamp with | some t => packStamp t | none => 0
    if r = 0x180 then e.seq
    else if r = 0x184 then bits e.time 0 32
    else if r = 0x188 then bits e.time 32 32
    else if r = 0x18C then bits st 0 32
    else if r = 0x190 then bits st 32 32
    else if r = 0x194 then bits st 64 16 + e.port % 32 * 2 ^ 16 + e.ctx % 32 * 2 ^ 24 + b2n e.stamp.isSome * 2 ^ 29
    else if r = 0x198 then bits e.arg 0 32
    else bits e.arg 32 32

/-- Log slots that hold an entry: USED. -/
def logUsed (s : State) : Nat := (s.glb.log.filter fun o => Option.isSome o).length

/-- GLB_STAT. -/
def glbStat (s : State) : Nat :=
  b2n s.boot.ready + b2n s.boot.hold * 2 + b2n s.locked * 4 + b2n (logUsed s != 0) * 8 + b2n s.hif.stopped * 16
    + b2n s.hif.quiesced * 32 + b2n s.glb.dieFail * 64 + b2n (throttled s) * 128
    + sumNat ((demotingDies s).map fun d => 2 ^ (8 + d))
    + sumNat ((upto 16).map fun x => if (s.ctx x).state = .running then 2 ^ (16 + x) else 0)

/-- Bits of a GLB register that no field stores. -/
def glbView (s : State) (r : Nat) : Nat :=
  if r = 0x000 then 0x0D107031
  else if r = 0x004 then 0x11110100
  else if r = 0x008 then 0x1FFF
  else if r = 0x00C then 0x0F110001
  else if r = 0x010 then glbStat s
  else if r = 0x028 then b2n s.glb.lockByImage * 2
  else if r = 0x030 then logUsed s * 256
  else if r = 0x048 then
    let v := s.vec (fld s oIrqVec 0 4)
    v.holdoff % 256 * 256 + v.count % 65536 * 65536
  else if 0x080 ≤ r ∧ r < 0x100 then
    match logSlot s ((r - 0x080) / 4) with
    | some e => e.event % 256 + e.status % 256 * 256 + e.agent % 32 * 65536 + 2 ^ 31
    | none => 0
  else if r = 0x100 then bits s.glb.time 0 32
  else if r = 0x104 then bits s.glb.time 32 32
  else if 0x180 ≤ r ∧ r < 0x1A0 then errDataView s r
  else 0

def hifView (s : State) (r : Nat) : Nat :=
  if r < 0x200 then
    let n := r / 0x80
    let q := s.ring n
    let w := r % 0x80
    if w = 0x08 then b2n q.en * 2 ^ 31
    else if w = 0x10 then q.tail % 4096
    else if w = 0x14 then q.head % 4096 + q.expstamp % 65536 * 65536
    else if w = 0x30 then q.cqHead % 65536
    else if w = 0x34 then q.cqTail % 65536 + b2n q.phase * 65536 + outst s n * 2 ^ 17
    else 0
  else if r = 0x400 then s.hif.gen
  else if r = 0x404 then b2n s.hif.stopped + s.hif.lossCause % 4 * 2
  else if r = 0x808 then b2n s.hif.quiesced + b2n (s.hif.urgBusy != 0) * 2 + s.hif.urgCount % 65536 * 65536
  else 0

/-! ### LNK, RED, FLG, STR -/

/-- STATE code of R312. -/
def LinkState.code : LinkState → Nat
  | .down => 0 | .training => 1 | .auth => 2 | .up => 3 | .degraded => 4


def lnkView (s : State) (p r : Nat) : Nat :=
  let q := s.port p
  if r = 0x004 then q.state.code + b2n q.retrain * 8 + b2n q.authed * 16 + b2n (q.paused != 0) * 64 + q.cause % 256 * 256
  else if r = 0x008 then
    let l := fun i => nth 7 q.lanes i % 8
    l 0 + l 1 * 8 + l 2 * 64 + l 3 * 512 + q.spare % 8 * 4096 + q.failed % 32 * 2 ^ 15 + q.invert % 32 * 2 ^ 20
  else if r = 0x00C then 0x0100 + q.minor % 256 * 2 ^ 16 + q.major % 256 * 2 ^ 24
  else if 0x010 ≤ r ∧ r < 0x030 then leAt q.peerId (r - 0x010) 4
  else if r = 0x040 then bits q.ncap 0 32
  else if r = 0x044 then bits q.ncap 32 32
  else if r = 0x048 then q.peerMod % 65536
  else if 0x180 ≤ r ∧ r < 0x1C0 then
    let v := (r - 0x180) / 4
    nth 0 q.avail v % 2048 + b2n (vcEnabled s p v) * 2048 + flitsHeld s p v % 2048 * 2 ^ 12
  else 0

/-- A segment has landed, or the last flit of its transfer has left its port (log 86). -/
def segAway (s : State) (q : Seg) : Bool :=
  q.landed || (q.sent && !(s.ports.any fun r =>
    r.tx.any (fun t => t.lastSeq.isNone && carriesSeg q.grp q.bucket q.step q.first t)
      || r.parked.any (carriesSeg q.grp q.bucket q.step q.first)))
/-- A segment with some input that has been neither sent nor landed. -/
def segOpen (s : State) (q : Seg) : Bool := !segAway s q && (decide (0 < q.locals_) || !q.inputs.isEmpty)
/-- A segment with some but not all of its inputs. -/
def segBusy (q : Seg) : Bool := !q.sent && !q.landed && (decide (0 < q.locals_) || !q.inputs.isEmpty)


/-- The step that RED_BKT_SEL names. -/
def selStep (s : State) : Nat := s.c + 1 + fld s (oRed 0x404) 19 1
/-- The bucket that RED_BKT_SEL names. -/
def selBucket (s : State) : Option Bucket := bucketOf s (fld s (oRed 0x404) 16 3) (fld s (oRed 0x404) 0 16)

/-- Segments of the selected bucket and step neither sent nor landed; the far group has those of the owned shard (R380). -/
def segLeft (s : State) (b : Bucket) : Nat :=
  let g := fld s (oRed 0x404) 16 3
  let done := s.red.segs.filter fun q => q.grp == g && q.bucket == b.id && q.step == selStep s && segAway s q
  let (lo, hi) := if isFar s g then ownShard s b else (0, b.elems)
  cdiv (hi - lo) (segElems s b.grp) - done.length

/-- The selected bucket is reported as poisoned, also after its unload (R377). -/
def selPoisoned (s : State) : Bool := s.red.poisoned.contains (fld s (oRed 0x404) 16 3, fld s (oRed 0x404) 0 16, selStep s)

/-- STATE of RED_BKT_Q. -/
def bucketState (s : State) (b : Bucket) : Nat :=
  let g := fld s (oRed 0x404) 16 3
  let n := selStep s
  if selPoisoned s then 4
  else if segLeft s b = 0 then 3
  else if s.red.segs.any fun q => q.grp == g && q.bucket == b.id && q.step == n then 2
  else 1

def redView (s : State) (r : Nat) : Nat :=
  if r < 0x180 then
    let g := r / 0x40
    let w := r % 0x40
    if w = 0x10 then landNeed s g % 2 ^ 28 + b2n (landShort s g) * 2 ^ 28
    else if w = 0x14 then (bucketsOf s g).length % 512 * 256
    else if w = 0x1C then nth 0 s.red.landedStep g % 2 ^ 32
    else 0
  else if r = 0x400 then
    let busy := (upto 6).filter fun g => s.red.segs.any fun q => q.grp == g && segBusy q
    let faults := (upto 6).filter fun g => fld s (oGrp g 0x14) 0 1 == 1
    let open_ := ((s.red.segs.filter (segOpen s)).map fun q => (q.grp, q.bucket, q.step)).eraseDups
    sumNat (busy.map fun g => 2 ^ g) + sumNat (faults.map fun g => 2 ^ (8 + g)) + min open_.length 65535 * 65536
  else if r = 0x408 then
    match selBucket s with
    | none => if selPoisoned s then 4 else 0
    | some b => bucketState s b + min (segLeft s b) 65535 * 65536
  else if r = 0x40C then (match selBucket s with | some b => b.elems % 2 ^ 32 | none => 0)
  else if r = 0x430 then spillNeed s % 2 ^ 24 + b2n (spillShort s) * 2 ^ 24
  else 0

/-- FLG_DIRECT_Q. -/
def directView (s : State) : Nat :=
  match findFlag s s.flg.sel.2 s.flg.sel.1 with
  | .at k ex =>
    let f := flagAt s k
    let held := (s.flg.waits.filter fun w => w.key == k).length
    b2n f.set + 2 + b2n ex * 4 + f.ovr % 256 * 256 + k / 0x80000 * 65536 + min held 255 * 2 ^ 24
  | _ => 0

/-- A word of FLG_DIRECT_WIN: 32 flags from virtual ID `v`. -/
def windowView (s : State) (v : Nat) : Nat :=
  let c := fld s (oFlg 0x1004) 0 6
  sumNat ((upto 32).map fun b => match translate s c (v + b) with
    | some (k, _) => if (flagAt s k).set then 2 ^ b else 0
    | none => 0)

def flgView (s : State) (r : Nat) : Nat :=
  if r < 0x200 then
    let m := s.map (r / 8)
    if r % 8 = 0 then m.first % 4096 + m.nent % 512 * 65536
    else m.owner % 32 + b2n m.valid * 256 + b2n m.poison * 512 + b2n m.cfgErr * 1024 + m.miss % 256 * 65536
  else if r = 0x408 ∨ r = 0x40C then
    let b := if r = 0x408 then 0 else 32
    sumNat ((upto 32).map fun i => if (s.map (b + i)).poison then 2 ^ i else 0)
  else if r = 0x504 then bits (tabGet storeDefault s.flg.store (fld s (oFlg 0x500) 0 12)) 0 32
  else if r = 0x508 then bits (tabGet storeDefault s.flg.store (fld s (oFlg 0x500) 0 12)) 32 32
  else if r = 0x1008 then directView s
  else if 0x8000 ≤ r ∧ r < 0x10000 then windowView s (2 ^ 18 * fld s (oFlg 0x1004) 8 6 + 8 * (r - 0x8000))
  else 0

def strView (s : State) (r : Nat) : Nat :=
  let t := packStamp s.str.now
  if r = 0 then bits t 0 32
  else if r = 4 then bits t 32 32
  else if r = 8 then bits t 64 16 + s.str.src % 256 * 65536
  else if r = 0xC then s.str.adv
  else if r = 0x10 then s.str.epoch % 65536 + b2n s.str.valid * 65536
  else 0

/-! ### ANT, UPD, PWR -/

/-- STATE code of R224. -/
def VState.code : VState → Nat
  | .free => 0 | .pending => 1 | .live => 2 | .landing => 3 | .restoring => 4

/-- The current wait of a context, in ms (R241). -/
def waitMs (s : State) (x : Nat) : Nat :=
  if isWaiting s x then min ((s.glb.time + 2 ^ 64 - (s.ctx x).progressAt) % 2 ^ 64 / 1000000) 0xFFFFFFFF else 0

/-- NEXT_SLOT of a FIRST context. -/
def nextSlot (s : State) (x : Nat) : Nat :=
  let c := s.ctx x
  if !c.first then 0 else match stepToInject s x with | some n => injectedOf c n | none => 0

/-- NEWEST: a RESTORING version counts under the generation it will carry. -/
def newestShown (e : Region) : Nat :=
  match e.slots.find? (fun v => v.state == .restoring) with
  | some v => v.gen
  | none => e.newest.getD 0

/-- A word of an entry of ANT_REGION_TBL. -/
def regionView (e : Region) (w : Nat) : Nat :=
  if w = 0 then
    let live := (e.slots.filter fun v => v.state == .live).length
    e.ctx % 16 + b2n e.overlap * 16 + b2n e.sharded * 32 + b2n e.frozen * 64 + b2n e.owned * 128 + e.dm1 % 8 * 256
      + e.pins % 8 * 2 ^ 11 + 2 ^ 15 + newestShown e % 4096 * 2 ^ 16 + live % 16 * 2 ^ 28
  else if w = 4 then e.pinned % 8 + b2n e.waitSlot * 8
  else if 0x10 ≤ w ∧ w < 0x90 then
    match e.slots[(w - 0x10) / 0x10]? with
    | none => 0
    | some v =>
      if w % 0x10 = 0 then v.gen % 4096 + v.state.code * 4096
      else if w % 0x10 = 4 then v.ref % 2 ^ 17 + v.pins % 8 * 2 ^ 17
      else if w % 0x10 = 8 then v.loc / 4096 % 2 ^ 28
      else 0
  else 0

def antView (s : State) (r : Nat) : Nat :=
  if r = 4 then s.regions.length % 2048 * 256
  else if 0x100 ≤ r ∧ r < 0x200 then
    let x := (r - 0x100) / 0x10
    let c := s.ctx x
    let w := r % 0x10
    if w = 0 then c.state.code + c.cause % 256 * 256 + c.inflight % 65536 * 65536
    else if w = 4 then c.aq.entries.length % 1024 + c.gq.entries.length % 1024 * 65536
    else if w = 8 then waitMs s x
    else nextSlot s x % 65536
  else if 0x1000 ≤ r ∧ r < 0x41000 then
    match s.region? ((r - 0x1000) / 0x100) with
    | some e => regionView e (r % 0x100)
    | none => 0
  else 0

def updView (s : State) (r : Nat) : Nat :=
  if r = 0x004 then s.upd.active % 2 * 4 + b2n s.upd.udFault * 8
  else if r = 0x008 then bits s.c 0 32
  else if r = 0x00C then bits s.c 32 8
  else if r = 0x010 then
    b2n (updBusy s) + b2n s.upd.ready * 2 + b2n s.upd.rollbackOk * 4
      + b2n (snapWait s) * 16 + b2n (passWaits s && !gateOpen s (s.c + 1)) * 32
  else if r = 0x014 then s.upd.readyStep % 2 ^ 32
  else if r = 0x040 then (match s.stepRec (s.c + 1) with | some q => q.eta | none => 0)
  else if r = 0x050 then b2n (farOn s)
  else if r = 0x074 then statsRead s
  else 0

def pwrView (s : State) (r : Nat) : Nat :=
  if r < 0x10 then b2n (nth 0 s.pwr.therm (r / 4) != 0) * 4096
  else if 0x30 ≤ r ∧ r < 0x40 then
    let d := (r - 0x30) / 4
    nth 0 s.pwr.level d % 8 + nth 0 s.pwr.therm d % 8 * 8 + s.pwr.pwr % 8 * 64 + b2n (demoting s d) * 4096
  else if r = 0x44 then sumNat ((demotingDies s).map fun d => 2 ^ (4 + d))
  else if r = 0x54 then s.pwr.lastFault % 256 + s.pwr.tripAgent % 16 * 256
  else 0

/-! ### CMP and BSE -/

/-- CMP_ARRAY_MAP for the physical array PHYS. -/
def arrayView (s : State) (d : Nat) : Nat :=
  let p := fld s (oCmp d 0) 0 6
  if p < 39 then
    let a := (s.cmp d).arr p
    let st := match a.state with | .active => 0 | .spare => 1 | .failed => 2 | .untested => 3
    a.logical % 32 * 256 + st * 2 ^ 16 + physEngine p * 2 ^ 18 + a.cause % 256 * 2 ^ 24
  else 0x31F00

/-- A word of a census entry. -/
def censusView (e : Census) (w : Nat) : Nat :=
  if w = 0x00 then e.tid % 2 ^ 24 + b2n e.valid * 2 ^ 24 + e.psMode % 4 * 2 ^ 25 + e.ctx % 16 * 2 ^ 27
  else if w = 0x04 then e.zero
  else if w = 0x08 then e.sat
  else if w = 0x0C then e.nf
  else if w = 0x10 then e.maxabs
  else if w = 0x14 then e.uses
  else if w = 0x18 then ofSigned e.texp 9 + b2n e.lastSat * 512 + e.histN % 32 * 1024 + e.demote % 65536 * 65536
  else if w = 0x1C then e.thrZero
  else if w = 0x20 then e.thrSat
  else if w = 0x24 then e.thrNf
  else if w = 0x28 then e.thrMax
  else if w = 0x2C then e.evt % 16
  else sumNat ((upto 4).map fun b => ofSigned (nth 0 e.hist (w - 0x30 + b)) 8 * 2 ^ (8 * b))

/-- A word of a load entry. -/
def loadView (e : Load) (w : Nat) : Nat :=
  if w = 0 then e.routed else if w = 4 then e.dropped
  else if w = 8 then e.peak % 2 ^ 21 + b2n e.evt * 2 ^ 24 else e.thr

def cmpView (s : State) (d r : Nat) : Nat :=
  let k := s.cmp d
  if r = 0x000 then arrayView s d
  else if r = 0x004 then
    let fa := k.active 0
    let ba := k.active 1
    (k.inState 0 .spare).length % 4 + (k.inState 1 .spare).length % 4 * 4 + fa % 32 * 256 + ba % 32 * 65536
      + b2n (k.arrays.any (·.state != .untested) && (decide (fa < 12) || decide (ba < 24))) * 2 ^ 25
  else if r = 0x100 then b2n (k.census.any fun e => e.2.evt % 16 != 0) * 2 ^ 24
  else if r = 0x204 then k.nfRow % 2 ^ 32
  else if r = 0x208 then k.nfCol % 2 ^ 32
  else if r = 0x20C then k.nfTid % 2 ^ 24 + k.nfKind % 4 * 2 ^ 24
  else if 0x10000 ≤ r ∧ r < 0x50000 then censusView (censusAt s d ((r - 0x10000) / 0x40)) (r % 0x40)
  else if 0x50000 ≤ r ∧ r < 0x90000 then loadView (loadAt s d ((r - 0x50000) / 0x10)) (r % 0x10)
  else 0

/-- The temperatures of two trained stacks are measured, so they are free (log 75). -/
def bseView (s : State) (d r : Nat) : Nat :=
  let b := s.bse d
  if r = 0x000 then
    (b.banks.filter fun e => e.2.slice != 15).length + (b.banks.filter fun e => !e.2.marks.isEmpty).length * 256
      + b2n b.done * 65536
  else if r = 0x004 then
    let k := tabGet bankDefault b.banks (fld s (oBse d 4) 0 7)
    k.slice % 16 * 256 + b2n (!k.marks.isEmpty) * 4096 + k.marks.headD 15 % 16 * 65536 + k.ce % 256 * 2 ^ 24
  else if r = 0x010 then
    let t := fun i => if nth 0 b.hbm i = 1 then Config.freeValue (s.free + i) % 256 else 0
    nth 0 b.hbm 0 % 4 + nth 0 b.hbm 1 % 4 * 4 + b.rate % 16 * 16 + t 0 * 256 + t 1 * 65536
  else if r = 0x020 then b.last % 8 * 2 ^ 24
  else 0

/-! ### Reads (R12, R472, R519 to R522) -/

/-- The word a register shows now, latches apart: its stored fields and its computed ones. -/
def liveWord (s : State) (off : Nat) : Nat :=
  let view := match blockOf off with
    | (.glb, _, r) => glbView s r
    | (.hif, _, r) => hifView s r
    | (.lnk, p, r) => lnkView s p r
    | (.red, _, r) => redView s r
    | (.flg, _, r) => flgView s r
    | (.str, _, r) => strView s r
    | (.ant, _, r) => antView s r
    | (.upd, _, r) => updView s r
    | (.pwr, _, r) => pwrView s r
    | (.cmp, d, r) => cmpView s d r
    | (.bse, d, r) => bseView s d r
    | (.reserved, _, _) => 0
  regGet s off + view

/-- The later words that a read of a first word latches. -/
def latchGroup (off : Nat) : List Nat :=
  match blockOf off with
  | (.glb, _, r) =>
    if r = 0x100 then [0x104] else if r = 0x180 then (upto 7).map fun i => 0x184 + 4 * i else []
  | (.str, _, r) => if r = 0 then [off + 4, off + 8, off + 12] else []
  | (.upd, _, r) => if r = 8 then [off + 4] else []
  | (.cmp, _, r) =>
    if r = 0x204 then [off + 4, off + 8]
    else if r = 0x400 then [off + 4]
    else if 0x10000 ≤ r ∧ r < 0x50000 ∧ r % 0x40 = 0 then (upto 11).map fun i => off + 4 + 4 * i
    else if 0x50000 ≤ r ∧ r < 0x90000 ∧ r % 0x10 = 0 then [off + 4, off + 8]
    else []
  | _ => []

/-- Is `off` a later word of a multi-word register, which reads as last latched? -/
def isLatched (off : Nat) : Bool :=
  match blockOf off with
  | (.glb, _, r) => r == 0x104 || (decide (0x184 ≤ r) && decide (r < 0x1A0))
  | (.str, _, r) => r == 4 || r == 8 || r == 12
  | (.upd, _, r) => r == 12
  | (.cmp, _, r) =>
    r == 0x208 || r == 0x20C || r == 0x404
      || (decide (0x10000 ≤ r) && decide (r < 0x50000) && decide (4 ≤ r % 0x40) && decide (r % 0x40 ≤ 0x2C))
      || (decide (0x50000 ≤ r) && decide (r < 0x90000) && (r % 0x10 == 4 || r % 0x10 == 8))
  | _ => false

/-- The word a read of an aligned offset returns. -/
def readValue (s : State) (off : Nat) : Word :=
  if isLatched off then tabGet latchReset s.latches off else BitVec.ofNat 32 (liveWord s off)

/-- What a read changes beside the stored RC fields: RC fields kept elsewhere, the statistics word, free draws. -/
def readExtra (off : Nat) (s : State) : State :=
  match blockOf off with
  | (.glb, _, r) =>
    if r = 0x048 then modVec (fld s oIrqVec 0 4) (fun v => { v with count := 0 }) s
    else s
  | (.flg, _, r) => if r < 0x200 ∧ r % 8 = 4 then modMap (r / 8) (fun m => { m with miss := 0 }) s else s
  | (.upd, _, r) => if r = 0x074 then nextStatWord s else s
  | (.bse, _, r) => if r = 0x010 then { s with free := s.free + 2 } else s
  | _ => s

/-- The effects of a read of an aligned offset: latches, then what it clears. -/
def readEffect (off : Nat) (s : State) : State :=
  let s := (latchGroup off).foldl (fun s o =>
    { s with latches := tabSet latchReset s.latches o (BitVec.ofNat 32 (liveWord s o)) }) s
  readExtra off (if (fieldsOf off).any fun f => f.acc == .rc then
    regPut off (clearRc off (tabGet resetWord s.regs off)).toNat s else s)

/-- Read `n` words one after another from an aligned offset; the words read, and the state after. -/
def readWords : Nat → Nat → State → List Word × State
  | 0, _, s => ([], s)
  | n + 1, off, s =>
    let w := readValue s off
    let r := readWords n (off + 4) (readEffect off s)
    (w :: r.1, r.2)

/-- BAR0 ends at 0x400_0000, with its reserved range (R518). -/
def barEnd : Nat := 0x4000000

/-- A read before READY: registers of the GLB block return their values, every other offset 0 (R472). -/
def readEarly : Nat → Nat → State → List Word × State
  | 0, _, s => ([], s)
  | n + 1, off, s =>
    let glb := decide (off < 0x100000)
    let w := if glb then readValue s off else 0
    let r := readEarly n (off + 4) (if glb then readEffect off s else s)
    (w :: r.1, r.2)

/-- A read of BAR0 as READY has it (R472). -/
def barRead (n off : Nat) (s : State) : List Word × State := if s.boot.ready then readWords n off s else readEarly n off s

/-- REGISTER_READ of `n` words. -/
def registerRead (off n : Nat) (s : State) : State :=
  let r := barRead n off s
  emit (.regData off r.1) r.2

/-- An access is a run of aligned words inside BAR0. -/
def accessOk (off n : Nat) : Bool := off % 4 == 0 && decide (off + 4 * n ≤ barEnd)

def execRegisterRead (off nwords : Nat) (s : State) : Host.Outcome State Fault Refusal :=
  if accessOk off nwords then runAwake (registerRead off nwords) s else .next s

/-! ### Writes (R10, R520 to R524): the common case -/

/-- The enabled bits of `v` over the current value `cur` of an `n`-bit field at `lo`. -/
def mergeField (en v cur lo n : Nat) : Nat :=
  let m := bits en lo n
  cur - (cur &&& m) + (bits v lo n &&& m)

/-- A write of the stored fields of a register under the bit mask `en`. -/
def putReg (off en v : Nat) (s : State) : State :=
  regPut off (writeFields s.locked off en v (tabGet resetWord s.regs off)).toNat s

/-- Bits that act on a written 1; a disabled byte counts as 0 (R520). -/
def acts (en v i : Nat) : Bool := bit en i && bit v i

/-! ### Writes of the GLB and HIF blocks -/

/-- GLB_RST_CTL: POWER_DOWN acts; MODULE acts 1.00 µs later, at the row GLB_RST_MODULE (log 78). -/
def writeRstCtl (en v : Nat) (s : State) : State :=
  if bits (v &&& en) 16 16 ≠ rstKey then s
  else if acts en v 1 then powerDown s
  else if acts en v 0 then { s with boot := { s.boot with rstPending := true } }
  else s

/-- GLB_IRQ_VEC (R527). -/
def writeIrqVec (en v : Nat) (s : State) : State :=
  let old := fld s oIrqVec 0 4
  let s := putReg oIrqVec en v s
  let sel := fld s oIrqVec 0 4
  if sel ≠ old ∨ bits en 8 8 = 0 then s
  else modVec sel (fun u => { u with holdoff := bits v 8 8 }) s

def writeGlb (r en v : Nat) (s : State) : State :=
  if r = 0x020 then writeRstCtl en v s
  else if r = 0x044 then writeMask (mergeField en v (fld s oIrqMask 0 16) 0 16) s
  else if r = 0x048 then writeIrqVec en v s
  else if 0x080 ≤ r ∧ r < 0x100 then
    if acts en v 31 then { s with glb := { s.glb with log := modNth (fun _ => none) s.glb.log ((r - 0x080) / 4) } } else s
  else putReg r en v s

/-- HIF_SQ_SIZE: SLOG has no effect while EN = 1; EN acts under R414 and R415. -/
def writeSqSize (n en v : Nat) (s : State) : State :=
  let on := (s.ring n).en
  let s := putReg (oSqSize n) (if on then en - (en &&& 0xF) else en) v s
  if !bit en 31 then s
  else if bit v 31 then enableRing n s
  else if on then disableRing n s else s

/-- A write of the urgent page's action word; several actions act in the order of their bits (log 76). -/
def writeUrgAct (en v : Nat) (s : State) : State :=
  let s := if acts en v 0 then quiesce none (urgentBegin s) else s
  let s := if acts en v 1 then settleJobs (urgentDone (resumeAll (urgentBegin s))) else s
  (upto 4).foldl (fun s n => if acts en v (2 + n) then urgentDone (disableRing n (urgentBegin s)) else s) s

/-- A write of HIF_URG_CTX: contexts in ascending order, a reset before a pre-emption of the same context (R434). -/
def writeUrgCtx (en v : Nat) (s : State) : State :=
  (upto 16).foldl (fun s x =>
    if acts en v (16 + x) then urgentReset x s else if acts en v x then urgentPreempt x s else s) s

def writeHif (off r en v : Nat) (s : State) : State :=
  if r < 0x200 then
    let n := r / 0x80
    let q := s.ring n
    let w := r % 0x80
    if w = 0x08 then writeSqSize n en v s
    else if w = 0x10 then doorbell n (mergeField en v q.tail 0 12) s
    else if w = 0x30 then modRing n (fun q => { q with cqHead := mergeField en v q.cqHead 0 16 }) s
    else if q.en then s else putReg off en v s
  else if r = 0x400 then writeGen (mergeField en v s.hif.gen 0 16) s
  else if r = 0x800 then writeUrgAct en v s
  else if r = 0x804 then writeUrgCtx en v s
  else putReg off en v s

/-! ### Writes of the LNK block (R326, R345) -/

/-- LNK_CTL: the stored fields, a fall of EN, then RESET or RETRAIN. -/
def writeLnkCtl (p en v : Nat) (s : State) : State :=
  let was := fld s (oLnk p 0) 0 1
  let s := putReg (oLnk p 0) en v s
  let s := if was = 1 ∧ fld s (oLnk p 0) 0 1 = 0 then disableLink p s else s
  if acts en v 2 then resetPort p s else if acts en v 1 then startRetrain p s else s

/-- LNK_VC_CFG: VC15 keeps at least 8 credits, and a write that takes the sum above 2,048 has no effect. -/
def writeVcCfg (p vc en v : Nat) (s : State) : State :=
  let off := oLnk p (0x100 + 4 * vc)
  let t := putReg off en v s
  let t := if vc = 15 ∧ fld t off 0 11 < 8 then setFld off 0 11 8 t else t
  if 2048 < sumNat ((upto 16).map fun k => fld t (oLnk p (0x100 + 4 * k)) 0 11) then s else t

/-- LNK_WIN: a context-owned window takes no write; a window whose EN falls ends the transfers into it (R332). -/
def writeWin (p w off en v : Nat) (s : State) : State :=
  let ctl := oLnk p (0x400 + 0x10 * w + 8)
  if fld s ctl 9 1 = 1 then s
  else
    let was := fld s ctl 8 1
    let s := putReg off en v s
    if was = 1 ∧ fld s ctl 8 1 = 0 then killWindow p w s else s

def writeLnk (p off r en v : Nat) (s : State) : State :=
  if r = 0 then writeLnkCtl p en v s
  else if 0x100 ≤ r ∧ r < 0x140 then writeVcCfg p ((r - 0x100) / 4) en v s
  else if 0x400 ≤ r ∧ r < 0x800 then writeWin p ((r - 0x400) / 0x10) off en v s
  else putReg off en v s

/-! ### Writes of the FLG block (R281, R282, R304, R306) -/

/-- FLG_MAP_BASE word 1: CFG_ERR, then VALID, with OWNER of an auxiliary context stored while VALID = 0. -/
def writeMapBase1 (c en v : Nat) (s : State) : State :=
  let s := if acts en v 10 then modMap c (fun m => { m with cfgErr := false }) s else s
  let owner := mergeField en v (s.map c).owner 0 5
  if !driverMap c then s
  else if (s.map c).valid then (if bit en 8 && !bit v 8 then writeInvalid c s else s)
  else if acts en v 8 then writeValid c owner s
  else if 40 ≤ c then modMap c (fun m => { m with owner := owner }) s else s

/-- FLG_MAP_BASE word 0. -/
def writeMapBase0 (c en v : Nat) (s : State) : State :=
  if !driverMap c || (s.map c).valid then s
  else modMap c (fun m => { m with first := mergeField en v m.first 0 12, nent := mergeField en v m.nent 16 9 }) s

/-- FLG_MAP_LO and FLG_MAP_HI. -/
def writeMapEntry (high : Bool) (en v : Nat) (s : State) : State :=
  let i := fld s (oFlg 0x500) 0 12
  let held := match tabFind s.flg.storeOwner i with | some c => (s.map c).valid | none => false
  if held then s
  else
    let old := tabGet storeDefault s.flg.store i
    let lo := bits old 0 32
    let hi := bits old 32 32
    let new := if high then lo + mergeField en v hi 0 32 * 2 ^ 32 else mergeField en v lo 0 32 + hi * 2 ^ 32
    { s with flg := { s.flg with store := tabSet storeDefault s.flg.store i new } }

/-- FLG_DIRECT_OP. -/
def writeDirect (en v : Nat) (s : State) : State :=
  let w := v &&& en
  let f := bits w 0 24
  let c := bits w 24 6
  let s := selectFlag c f s
  match bits w 30 2 with
  | 1 => settleWaits (opFlag c f true s).1
  | 2 => settleWaits (opFlag c f false s).1
  | 3 => clearOverrun c f s
  | _ => s

def writeFlg (off r en v : Nat) (s : State) : State :=
  if r < 0x200 then (if r % 8 = 0 then writeMapBase0 (r / 8) en v s else writeMapBase1 (r / 8) en v s)
  else if r = 0x408 ∨ r = 0x40C then
    let b := if r = 0x408 then 0 else 32
    (upto 32).foldl (fun s i => if acts en v i then endPoison (b + i) s else s) s
  else if r = 0x504 then writeMapEntry false en v s
  else if r = 0x508 then writeMapEntry true en v s
  else if r = 0x1000 then writeDirect en v s
  else putReg off en v s

/-! ### Writes of the STR, UPD and PWR blocks -/

def writeStr (off r en v : Nat) (s : State) : State :=
  if 0x100 ≤ r ∧ r < 0x200 then
    if r % 0x10 = 0 then writeEvtCtl ((r - 0x100) / 0x10) en v s
    else writeEvtWord ((r - 0x100) / 0x10) (r % 0x10) en v s
  else putReg off en v s

def writeUpd (off r en v : Nat) (s : State) : State :=
  if r = 0x008 then writeCommitted (s.c / 2 ^ 32 * 2 ^ 32 + mergeField en v (bits s.c 0 32) 0 32) s
  else if r = 0x00C then writeCommitted (bits s.c 0 32 + mergeField en v (bits s.c 32 8) 0 8 * 2 ^ 32) s
  else if r = 0x050 then if acts en v 1 then { s with upd := { s.upd with resWritten := [] } } else s
  else if r = 0x074 then nextStatWord (statsWrite (mergeField en v (statsRead s) 0 32) s)
  else if 0x1000 ≤ r ∧ r < 0x9000 then
    let i := (r - 0x1000) / 0x20
    if r % 0x20 = 0 then writeEntry0 i en v s
    else if fld s (oEntry i 0) 0 1 = 1 then s else putReg off en v s
  else putReg off en v s

/-- PWR_LIMIT: WATTS is kept between 1,000 and 3,400. -/
def writeLimit (en v : Nat) (s : State) : State :=
  let s := putReg (oPwr 0x40) en v s
  setFld (oPwr 0x40) 0 13 (min 3400 (max 1000 (fld s (oPwr 0x40) 0 13))) s

/-- PWR_DEGRADE: LEVEL 0 is stored as 1; a die may start demoting. -/
def writeDegrade (en v : Nat) (s : State) : State :=
  let t := putReg (oPwr 0x44) en v s
  demoteAlert s (if fld t (oPwr 0x44) 1 3 = 0 then setFld (oPwr 0x44) 1 3 1 t else t)

def writePwr (off r en v : Nat) (s : State) : State :=
  if 0x30 ≤ r ∧ r < 0x40 then
    let d := (r - 0x30) / 4
    writeFloor d (mergeField en v (clockFloor s d) 9 3) s
  else if r = 0x40 then writeLimit en v s
  else if r = 0x44 then writeDegrade en v s
  else putReg off en v s

/-! ### Writes of the CMP block -/

/-- CMP_CENSUS_CTL: the stored fields, then the clears. -/
def writeCensusCtl (d en v : Nat) (s : State) : State :=
  let s := putReg (oCmp d 0x100) en v s
  let hist := acts en v 8
  if acts en v 6 then clearAll d hist s
  else if acts en v 7 then clearOne d (fld s (oCmp d 0x100) 12 12) hist s else s

/-- CMP_TEMPO: MODE takes no write while a context on the die is not empty. -/
def writeTempo (d en v : Nat) (s : State) : State :=
  let used := s.ctxs.any fun c => c.die == d && c.state != .empty
  putReg (oCmp d 0x300) (if used then en - (en &&& 1) else en) v s

/-- A word of a census entry: the thresholds, and EVT. -/
def censusWrite (w en v : Nat) (e : Census) : Census :=
  if w = 0x1C then { e with thrZero := mergeField en v e.thrZero 0 32 }
  else if w = 0x20 then { e with thrSat := mergeField en v e.thrSat 0 32 }
  else if w = 0x24 then { e with thrNf := mergeField en v e.thrNf 0 32 }
  else if w = 0x28 then { e with thrMax := mergeField en v e.thrMax 0 32 }
  else if w = 0x2C then { e with evt := e.evt - (e.evt &&& (v &&& en)) }
  else e

/-- A word of a load entry: EVT and the threshold. -/
def loadWrite (w en v : Nat) (e : Load) : Load :=
  if w = 8 then { e with evt := e.evt && !acts en v 24 }
  else if w = 0xC then { e with thr := mergeField en v e.thr 0 32 }
  else e

def writeCmp (d off r en v : Nat) (s : State) : State :=
  if r = 0x100 then writeCensusCtl d en v s
  else if r = 0x300 then writeTempo d en v s
  else if 0x10000 ≤ r ∧ r < 0x50000 then modCensus d ((r - 0x10000) / 0x40) (censusWrite (r % 0x40) en v) s
  else if 0x50000 ≤ r ∧ r < 0x90000 then modLoad d ((r - 0x50000) / 0x10) (loadWrite (r % 0x10) en v) s
  else putReg off en v s

/-! ### Writes -/

/-- A write of one word at an aligned offset, with the enabled bits `en`. -/
def writeWord (off en v : Nat) (s : State) : State :=
  match blockOf off with
  | (.glb, _, r) => writeGlb r en v s
  | (.hif, _, r) => writeHif off r en v s
  | (.lnk, p, r) => writeLnk p off r en v s
  | (.red, _, _) => putReg off en v s
  | (.flg, _, r) => writeFlg off r en v s
  | (.str, _, r) => writeStr off r en v s
  | (.ant, _, _) => putReg off en v s
  | (.upd, _, r) => writeUpd off r en v s
  | (.pwr, _, r) => writePwr off r en v s
  | (.cmp, d, r) => writeCmp d off r en v s
  | (.bse, _, _) => putReg off en v s
  | (.reserved, _, _) => s

/-- The W1C bits of a word. -/
def w1cMask (off : Nat) : Nat := sumNat (((fieldsOf off).filter (·.acc == .w1c)).map fun f => (2 ^ f.n - 1) * 2 ^ f.lo)

/-- The two words of an aligned 8-byte access act in one hub cycle (R520): a W1C bit of the higher word that hardware sets by
the write of the lower one ends set (R11), and UPD_STATS_SEL.WORD ends as it was written, although the access of UPD_STATS_DATA
counts it on (R523). -/
def writePair (off : Nat) (a b : Word × Nat) (s : State) : State :=
  let hi := off + 4
  let m := w1cMask hi
  let low := writeWord off (beMask a.2) a.1.toNat
  let set := regGet (low (regPut hi (regGet s hi - (regGet s hi &&& m)) s)) hi &&& m
  let t := writeWord hi (beMask b.2) (b.1.toNat - (b.1.toNat &&& set)) (low s)
  if off = oUpd 0x070 ∧ beMask a.2 / 256 ≠ 0 then setFld off 11 21 (fld (low s) off 11 21) t else t

/-- REGISTER_WRITE: words with their byte enables, from an aligned offset, the lowest first. -/
def writeEach : Nat → List (Word × Nat) → State → State
  | _, [], s => s
  | off, (w, be) :: t, s => writeEach (off + 4) t (writeWord off (beMask be) w.toNat s)

def writeWords (off : Nat) (ws : List (Word × Nat)) (s : State) : State :=
  match ws with
  | [a, b] => if off % 8 = 0 then writePair off a b s else writeEach off ws s
  | _ => writeEach off ws s

def execRegisterWrite (off : Nat) (words : List (Word × Nat)) (s : State) : Host.Outcome State Fault Refusal :=
  if accessOk off words.length then runLive (settleAfter (writeWords off words)) s else .next s

end Sys2Proof.Machine
end

