-- ==== Sys2Proof/Machine/Iluxa.lean ====
section
/-! DEFINITION. The Iluxa die interface (R437 to R459): negotiation and failure of a die port, and the messages of every
class as they arrive. -/
namespace Sys2Proof.Machine

/-! ### Ports and agents -/

/-- The agent of the die that port `k` joins to the hub. -/
def portAgent (k : Nat) : Nat := if k < 4 then 4 + k else if k = 4 then agUd else k + 11
/-- A guest agent. -/
def guestAgent (a : Nat) : Bool := decide (16 ≤ a)
/-- The port of an agent carries messages; the hub itself always does. -/
def agentUp (s : State) (a : Nat) : Bool :=
  if a = agHub then true else match agentPort a with | some k => (s.die k).up | none => false
/-- A message can pass from its source to its destination. -/
def pathUp (s : State) (h : IxHdr) : Bool := agentUp s h.srca && agentUp s h.dsta

/-- The port that keeps what requester `a` has open at `b`: the hub's requests stand at the responder's port. -/
def openPort (a b : Nat) : Option Nat := match agentPort a with | some k => some k | none => agentPort b

/-- Note an open request. -/
def openReq (a b tid kind : Nat) (s : State) : State :=
  match openPort a b with
  | some k => modDie k (fun q => { q with openReqs := q.openReqs ++ [(a, b, tid, kind)] }) s
  | none => s
/-- Is the request open? -/
def isOpen (s : State) (a b tid kind : Nat) : Bool :=
  match openPort a b with
  | some k => (s.die k).openReqs.contains (a, b, tid, kind)
  | none => false
/-- Close it. -/
def closeReq (a b tid kind : Nat) (s : State) : State :=
  match openPort a b with
  | some k => modDie k (fun q => { q with openReqs := dropFirst (· == (a, b, tid, kind)) q.openReqs }) s
  | none => s

/-- The largest LEN64 that the hub accepts, 1 to 64: its maker's choice (log 97). -/
def hubMaxlen : Nat := Config.hubMaxlen % 64 + 1
/-- The credits that the hub grants on each module: pool 1 is unlimited, and pool 2 holds what R454 asks for (log 97). -/
def hubGrants : List Nat := [Config.hubGrant 0 % 2 ^ 16, 0, 9 + Config.hubGrant 2 % 65527, Config.hubGrant 3 % 2 ^ 16]

/-! ### Credits (R445, R446) -/

/-- Send wakes that waited, while credits of pool 2 last; `f` bounds how many. -/
def pumpWakes (k : Nat) : Nat → State → State
  | 0, s => s
  | f + 1, s =>
    match (s.die k).txq with
    | [] => s
    | h :: t =>
      if creditsOf (s.die k).credits 0 2 = 0 then s
      else pumpWakes k f (sendIx h [] (modDie k (fun q => { q with txq := t, credits := subCredits 0 2 1 q.credits }) s))

/-- The credit return that any header may carry: CRCNT credits of pool CRPOOL, of the module that carries the message (log 155). -/
def takeReturn (h : IxHdr) (s : State) : State :=
  match agentPort h.srca with
  | none => s
  | some k =>
    if 3 < h.crpool ∨ h.crcnt = 0 then s
    else
      let s := modDie k (fun q => { q with credits := addCredits h.mdl h.crpool h.crcnt q.credits }) s
      pumpWakes k (s.die k).txq.length s

/-- The pool whose credits a message of a class uses; completions use none (R443, R446). -/
def poolOf (cls : Nat) : Option Nat :=
  if cls = 0 ∨ cls = 2 then some 0 else if cls = 4 ∨ cls = 5 ∨ cls = 7 then some 2 else if cls = 6 then some 3 else none

/-- Credits that a message uses of its pool (R445). -/
def usedBy (h : IxHdr) : Nat := 1 + h.len64

/-- A message uses credits: of the hub's grant at the port it comes by, of the partner's grant at the port it goes by. Between two
agents behind one port it does not cross the hub (R445, log 155). -/
def useCredits (h : IxHdr) (s : State) : State :=
  match poolOf h.cls with
  | none => s
  | some p =>
    if agentPort h.srca = agentPort h.dsta then s
    else
      let s := match agentPort h.srca with
        | some k => modDie k (fun q => { q with granted := subCredits h.mdl p (usedBy h) q.granted }) s
        | none => s
      match agentPort h.dsta with
      | some k => modDie k (fun q => { q with credits := subCredits (moduleOf q h) p (usedBy h) q.credits }) s
      | none => s

/-- A message has left the buffer of the port it came by: its 1 + LEN64 credits go back to the sender. -/
def oweCredits (h : IxHdr) (s : State) : State :=
  match agentPort h.srca, poolOf h.cls with
  | some k, some p =>
    if agentPort h.srca = agentPort h.dsta then s
    else modDie k (fun q => { q with owed := addCredits h.mdl p (usedBy h) q.owed }) s
  | _, _ => s

/-- `n` owed credits of module `m` and pool `p` are the partner's again. -/
def giveBack (m p n : Nat) (q : DiePort) : DiePort :=
  { q with owed := subCredits m p n q.owed, granted := addCredits m p n q.granted }

/-- The header of a completion `g` as it leaves: on the module of its address, with the credits of pool 0 that its port owes for that
module, or else those of pool 3 (log 155). -/
def replyHdr (s : State) (g : IxHdr) : IxHdr :=
  match agentPort g.dsta with
  | none => g
  | some k =>
    let m := moduleOf (s.die k) g
    let p := if creditsOf (s.die k).owed m 0 = 0 then 3 else 0
    let n := min 255 (creditsOf (s.die k).owed m p)
    if n = 0 then { g with mdl := m } else { g with mdl := m, crpool := p, crcnt := n }

/-- Send a completion; the credits in its header are the partner's again. -/
def sendReply (g : IxHdr) (data : List Byte) (s : State) : State :=
  let r := replyHdr s g
  sendIx r data (match agentPort g.dsta with
    | some k => if r.crcnt = 0 then s else modDie k (giveBack r.mdl r.crpool r.crcnt) s
    | none => s)

/-- Return what port `k` owes of module `m` and pool `p`, if it is at least `least`, in a CTL message of SUB 0 on that module, which
takes a credit of pool 2 itself; without one it waits (log 155). -/
def returnPool (k m p least : Nat) (s : State) : State :=
  let n := min 255 (creditsOf (s.die k).owed m p)
  if !(s.die k).up || decide (n < max least 1) || creditsOf (s.die k).credits m 2 == 0 then s
  else sendIx ⟨7, 0, agHub, portAgent k, 0, p, n, 0, 0, 0, 0, false, m⟩ []
    (modDie k (fun q => { giveBack m p n q with credits := subCredits m 2 1 q.credits }) s)

/-- After message `h` the port it came by returns what it owes on its module. A credit return owes one credit of pool 2, which goes
back with the next (log 155). -/
def returnCredits (h : IxHdr) (s : State) : State :=
  match agentPort h.srca, poolOf h.cls with
  | some k, some _ =>
    let least := if h.cls = 7 ∧ h.sub = 0 then 2 else 1
    returnPool k h.mdl 3 1 (returnPool k h.mdl 2 least (returnPool k h.mdl 0 1 s))
  | _, _ => s

/-! ### Guests (R456 to R458) -/

/-- A guest port fails (R458): the hub discards what it holds for the port, and what is open between the port and the hub ends, the
hub's own requests as refused. A stage map names no guest port (R468), so no traffic is routed through one and no host command needs
one. -/
def failGuest (k : Nat) (s : State) : State :=
  let mine : Wait → Bool := fun w => match w.who with | .die a _ _ => a == portAgent k | _ => false
  let s := { s with flg := { s.flg with waits := s.flg.waits.filter fun w => !mine w } }
  modDie k (fun q => { q with
    up := false, failed := true, openReqs := [], txq := [], credits := [], granted := [], owed := [], violations := [], draining := false }) s

/-- The capability bit `i` is common to the ports a message crosses (R454). -/
def bothHave (s : State) (h : IxHdr) (i : Nat) : Bool :=
  let ok := fun a => match agentPort a with | some k => bit (s.die k).cap i | none => true
  ok h.srca && ok h.dsta

/-- The negotiated MAXLEN of the port of agent `a` (R454). -/
def maxlenOf (s : State) (a : Nat) : Nat := match agentPort a with | some k => (s.die k).maxlen | none => hubMaxlen

/-- A number of units that the response to a read may carry: 1 to 64, and no more than the requester's MAXLEN (R443, R454). -/
def unitsOk (s : State) (h : IxHdr) : Bool :=
  let n := h.ext % 128
  decide (1 ≤ n) && decide (n ≤ 64) && decide (n ≤ maxlenOf s h.srca)

/-- MRSP to a read: SUB and data of the units requested. -/
def readReply (h : IxHdr) (sub : Nat) (data : List Byte) : State → State :=
  sendReply ⟨1, sub, h.dsta, h.srca, h.tid, 15, 0, data.length / 64, h.addr, h.space, h.ext, false, 0⟩ data
/-- MRSP SUB 1, with zero data; a number of units that no response carries gets none (log 180). -/
def refuseRead (h : IxHdr) (s : State) : State :=
  readReply h 1 (if unitsOk s h then List.replicate (64 * (h.ext % 128)) 0 else []) s
/-- MACK to a write. -/
def writeReply (h : IxHdr) (sub : Nat) : State → State :=
  sendReply ⟨3, sub, h.dsta, h.srca, h.tid, 15, 0, 0, h.addr, h.space, h.ext, false, 0⟩ []

/-- What becomes of a message that breaks R442 to R456 or whose class is outside the common set: refused or dropped, logged, and more
than 64 within a millisecond fail a guest port (R457). -/
def violation (h : IxHdr) (s : State) : State :=
  let s := logEv 0x1D stPrivilege agHub { port := 0x12, arg := h.srca % 32 + h.cls % 16 * 256 } s
  let s := if h.cls = 0 then refuseRead h s
    else if h.cls = 2 then writeReply h 1 s
    else if h.cls = 4 ∧ (h.sub = 3 ∨ h.sub = 4) then sendWake (wakeMsg h.dsta h.srca h.tid stPrivilege) s
    else s
  match agentPort h.srca with
  | none => s
  | some k =>
    let times := recent s (s.die k).violations ++ [s.glb.time]
    let s := modDie k (fun q => { q with violations := times }) s
    if 64 < times.length ∧ 5 ≤ k then failGuest k s else s

/-- The flag context and virtual ID of a virtual FLAG message (R447). -/
def virtualOf (h : IxHdr) : Nat × Nat := (bits h.addr 24 6, bits h.addr 0 24)

/-- A guest's virtual FLAG names an exported flag. -/
def exportedFlag (s : State) (h : IxHdr) : Bool :=
  match findFlag s (virtualOf h).1 (virtualOf h).2 with
  | .at _ ex => ex
  | .poisoned => true
  | .unmapped => false

/-- Units that a memory request names. -/
def unitsOf (h : IxHdr) : Nat := if h.cls = 0 then h.ext % 128 else h.len64

/-- The data stays inside one 4 KiB page of its space and starts on a unit. -/
def onePage (a n : Nat) : Bool := a % 64 == 0 && decide (a % 4096 + 64 * n ≤ 4096)

/-- A memory request of a guest lies in space 0 inside one of its windows that allows it (R456). -/
def inWindow (g : Guest) (h : IxHdr) : Bool :=
  h.space == 0 && g.windows.any fun w =>
    decide (w.1 ≤ h.addr) && decide (h.addr + 64 * unitsOf h ≤ w.1 + w.2.1) && (if h.cls = 0 then w.2.2.1 else w.2.2.2)

/-- What R456 lets the guest of a port send. This module has no guest position, so its image names none (R467, log 98). -/
def guestMay (s : State) (k : Nat) (h : IxHdr) (data : List Byte) : Bool :=
  let g := (s.die k).guest.getD ⟨[], [], []⟩
  match h.cls with
  | 0 => inWindow g h
  | 2 => inWindow g h
  | 4 => bit h.addr 39 && (h.sub == 5 || h.sub == 6 || (decide (1 ≤ h.sub) && decide (h.sub ≤ 4) && exportedFlag s h))
  | 5 => g.produces.contains ((descOf data).ctx, (descOf data).q)
  | 6 => g.groups.contains (bits h.addr 32 3)
  | 7 => h.sub == 0 || h.sub == 1 || h.sub == 3
  | _ => true

/-- A message has not the shape of R442, R443 and R454: a reserved bit, LEN64 beside its data or beyond 64 or MAXLEN. -/
def malformed (s : State) (h : IxHdr) (data : List Byte) : Bool :=
  h.resv || data.length != 64 * h.len64 || decide (64 < h.len64) || decide (maxlenOf s h.srca < h.len64)

/-- A guest's message breaks R443 to R449: units, its page, a module that is not its own, credits it does not hold, or the 8 credits of
pool 2 that only CTL messages and wakes use. Every request is answered in the command that brings it, so that no TID is open at the
next (R444). -/
def guestBreaks (s : State) (k : Nat) (h : IxHdr) : Bool :=
  let q := s.die k
  let memory := h.cls == 0 || h.cls == 2
  let left := fun p => creditsOf q.granted h.mdl p
  (h.cls == 0 && !unitsOk s h) || (memory && !onePage h.addr (unitsOf h))
    || decide (max 1 q.modules ≤ h.mdl) || (h.cls != 6 && h.mdl != moduleOf q h)
    || (match poolOf h.cls with | some p => decide (left p < usedBy h) | none => false)
    || (poolOf h.cls == some 2 && h.cls != 7 && !(h.cls == 4 && h.sub == 6) && decide (left 2 < usedBy h + 8))

/-- The capability bits that a message needs (R453). -/
def classBits (h : IxHdr) : List Nat :=
  match h.cls with
  | 1 => (if h.space = 0 then 0 else 1) :: if h.sub = 2 then [7] else []
  | 4 => (if bit h.addr 39 then 3 else 2) :: if 3 ≤ h.sub ∧ h.sub ≤ 6 then [8] else []
  | 5 => [4]
  | 6 => if h.sub = 1 then [5, 6] else [5]
  | 7 => if h.sub = 1 then [10] else if h.sub = 2 ∨ h.sub = 3 then [9] else []
  | _ => [if h.space = 0 then 0 else 1]

/-- The class and form lie in the common set of the ports it crosses (R454). -/
def inCommon (s : State) (h : IxHdr) : Bool := (classBits h).all (bothHave s h)

/-- The message may not act: outside the common set or malformed on any port, or a breach of a guest (R454, R457, log 99). -/
def breaks (s : State) (h : IxHdr) (data : List Byte) : Bool :=
  !inCommon s h || malformed s h data || (guestAgent h.srca && match agentPort h.srca with
    | some k => guestBreaks s k h || !guestMay s k h data
    | none => true)

/-- A message of class `cls` arrives: the credits it returns come back, it uses its own, `f` acts unless the sender may not send it,
and its own credits go back (R445). -/
def arrives (cls : Nat) (h : IxHdr) (data : List Byte) (f : IxHdr → State → State) (s : State) : State :=
  let h := { h with cls := cls }
  if !pathUp s h then s
  else
    let bad := breaks s h data
    let r := oweCredits h (useCredits h (takeReturn h s))
    returnCredits h (if bad then violation h r else f h r)

/-! ### Memory messages (R441, R443, R444, R449 to R451) -/

/-- BAR0 reaches only from the hub (R525), inside BAR0. -/
def barOk (h : IxHdr) (n : Nat) : Bool := h.srca == agHub && decide (h.addr % 2 ^ 26 + 64 * n ≤ barEnd)

/-- MRD. Poisoned data is refused where SUB 0x2 is not common (R453); before READY, BAR0 answers as R472 says (R525). -/
def takeRead (h : IxHdr) (s : State) : State :=
  let n := h.ext % 128
  let s := openReq h.srca h.dsta h.tid 0 s
  if !unitsOk s h || !onePage h.addr n then refuseRead h s
  else if h.space = 0 then
    if !inOneRange h.addr (64 * n) || (anyPoison s h.addr (64 * n) && !bothHave s h 7) then refuseRead h s
    else
      let sub := if anyPoison s h.addr (64 * n) then 2 else 0
      copySpend h.addr (64 * n) (readReply h sub (copyRead s h.addr (64 * n)) s)
  else if barOk h n then
    let r := barRead (16 * n) (h.addr % 2 ^ 26) s
    readReply h 0 (r.1.flatMap fun w => leBytes 4 w.toNat) r.2
  else refuseRead h s

def execMrd (h : IxHdr) (s : State) : Host.Outcome State Fault Refusal := runAwake (arrives 0 h [] takeRead) s

/-- A response that no open request matches (R444). -/
def strayReply (h : IxHdr) (s : State) : State :=
  logEv 0x21 stFormat (h.dsta % 32) { port := 0x12, arg := h.srca % 32 + h.cls % 16 * 256 + h.tid % 4096 * 65536 } s

/-- MRSP and MACK: the request of that kind with its TID is complete, or the response is dropped. -/
def takeReply (kind : Nat) (h : IxHdr) (s : State) : State :=
  if isOpen s h.dsta h.srca h.tid kind then closeReq h.dsta h.srca h.tid kind s else strayReply h s

def execMrsp (h : IxHdr) (data : List Byte) (s : State) : Host.Outcome State Fault Refusal :=
  runAwake (arrives 1 h data (takeReply 0)) s
def execMack (h : IxHdr) (s : State) : Host.Outcome State Fault Refusal := runAwake (arrives 3 h [] (takeReply 1)) s

/-- The words of a write, with every byte enabled. -/
def wordsOf (data : List Byte) : List (Word × Nat) :=
  (upto (data.length / 4)).map fun i => (BitVec.ofNat 32 (leAt data (4 * i) 4), 0xF)

/-- The first write of a page by an array or by the update die takes it out of host bias (R412). -/
def dieWrite (agent a : Nat) (data : List Byte) (s : State) : State :=
  if agent < 4 ∨ agent = agUd then devWrite a data s else memWrite a data s

/-- MWR. Before READY no write of BAR0 acts (R472, R525). -/
def takeWrite (data : List Byte) (h : IxHdr) (s : State) : State :=
  let n := h.len64
  let s := openReq h.srca h.dsta h.tid 1 s
  if n = 0 ∨ !onePage h.addr n then writeReply h 1 s
  else if h.space = 0 then
    if inOneRange h.addr (64 * n) then writeReply h 0 (dieWrite h.srca h.addr data s) else writeReply h 1 s
  else if barOk h n && s.boot.ready then writeReply h 0 (writeWords (h.addr % 2 ^ 26) (wordsOf data) s)
  else writeReply h 1 s

def execMwr (h : IxHdr) (data : List Byte) (s : State) : Host.Outcome State Fault Refusal :=
  runAwake (arrives 2 h data (takeWrite data)) s

/-! ### FLAG (R447) -/

/-- The physical flag that a message to die DSTA names. -/
def physicalFlag (h : IxHdr) : Option Nat :=
  let i := bits h.addr 0 20
  let at_ := fun d => if i < 64 * diePages d then some (flagKey d i) else none
  if h.dsta < 4 then at_ h.dsta else if h.dsta = agHub then at_ 4 else if h.dsta = agUd then at_ 5 else none

/-- The flag context and virtual ID under which a physical flag is mapped, for the report of its misuse. -/
def nameOf (s : State) (k : Nat) : Nat × Nat :=
  match tabFind s.flg.pageOwner (pageKey (k / 0x80000) (k % 0x80000 / 64)) with
  | none => (0, 0)
  | some c =>
    match (mapRun s c).find? fun e => entHolds e k with
    | none => (c, 0)
    | some e => (c, entVbase e + (k - flagKey (entDie e) (64 * entPage e)))

/-- Remove a held wait of an agent. -/
def dropWait (a tid : Nat) (s : State) : State :=
  let mine : Wait → Bool := fun w => match w.who with | .die b t _ => b == a && t == tid | _ => false
  { s with flg := { s.flg with waits := dropFirst mine s.flg.waits } }

/-- An operation of R294 on flag `v` of context `c`, where it was found: in a poisoned context a wait ends OWNER_LOST at once
and a set or clear is a misuse (R286, R303). -/
def flagAct (h : IxHdr) (c v : Nat) (f : Found) (s : State) : State :=
  match f with
  | .at k _ =>
    if h.sub = 1 ∨ h.sub = 2 then settleWaits (actFlag c v k (h.sub == 1) s)
    else if h.sub = 3 ∨ h.sub = 4 then
      settleWaits (holdWait ⟨.die h.srca h.tid h.dsta, c, v, k, h.sub == 3, h.sub == 3 && bit h.addr 36⟩ (openReq h.srca h.dsta h.tid 2 s))
    else s
  | .poisoned => if h.sub = 3 ∨ h.sub = 4 then sendWake (wakeMsg h.dsta h.srca h.tid stOwnerLost) s else miss c s
  | .unmapped => miss c s

/-- FLAG: a cancel and a wake name a wait; the other operations name a flag, physical or virtual. A physical flag is
poisoned with the context that owns its page. -/
def takeFlag (h : IxHdr) (s : State) : State :=
  if h.sub = 5 then closeReq h.srca h.dsta h.tid 2 (dropWait h.srca h.tid s)
  else if h.sub = 6 then closeReq h.dsta h.srca h.tid 2 s
  else if bit h.addr 39 then flagAct h (virtualOf h).1 (virtualOf h).2 (findFlag s (virtualOf h).1 (virtualOf h).2) s
  else match physicalFlag h with
    | none => s
    | some k =>
      let (c, v) := nameOf s k
      let owned := (tabFind s.flg.pageOwner (k / 64)).isSome
      flagAct h c v (if owned && (s.map c).poison then .poisoned else .at k false) s

def execIluxaFlag (h : IxHdr) (s : State) : Host.Outcome State Fault Refusal := runAwake (arrives 4 h [] takeFlag) s

/-! ### QENT and RED (R443, R448) -/

/-- QENT: the descriptor in its unit arrives; its data was written before (R450). -/
def takeQent (data : List Byte) (_ : IxHdr) (s : State) : State :=
  let d := descOf data
  if data.length = 64 then entryArrives .die d.ctx d.q d.buf d [] s else s

def execQent (h : IxHdr) (data : List Byte) (s : State) : Host.Outcome State Fault Refusal :=
  runLive (arrives 5 h data (takeQent data)) s

/-- COUNT of the RED prefix. -/
def redCount (data : List Byte) : Nat := leAt data 12 2
/-- The codes of a contribution message, `w` bytes each. -/
def redCodes (w : Nat) (data : List Byte) : List Nat := (upto (redCount data)).map fun i => leAt data (16 + w * i) w

/-- RED: contributions in the PREC of their bucket, or zeros of an empty tile. -/
def takeRed (marker : Bool) (data : List Byte) (h : IxHdr) (s : State) : State :=
  let g := bits h.addr 32 3
  let prec := bits h.addr 35 1
  let b := h.ext % 65536
  let w := if prec = 0 then 2 else 4
  let n := redCount data
  let right := match bucketOf s g b with | some k => k.prec == prec | none => false
  if !right || data.length < 16 || (!marker && decide (data.length < 16 + w * n)) then s
  else contribute g b (unpackStamp (leAt data 0 10)) (bits h.addr 0 32) (if marker then List.replicate n 0 else redCodes w data) s

def execRedData (h : IxHdr) (data : List Byte) (s : State) : Host.Outcome State Fault Refusal :=
  runLive (settleAfter (arrives 6 { h with sub := 0 } data (takeRed false data))) s
def execRedEmptyTileMarker (h : IxHdr) (data : List Byte) (s : State) : Host.Outcome State Fault Refusal :=
  runLive (settleAfter (arrives 6 { h with sub := 1 } data (takeRed true data))) s

/-! ### CTL (R443, R445, R459) -/

/-- CTL SUB 0: the credits of the header alone. -/
def execCtlCreditReturn (h : IxHdr) (s : State) : Host.Outcome State Fault Refusal :=
  runAwake (arrives 7 { h with sub := 0 } [] fun _ s => s) s
/-- CTL SUB 1: no rule says what the module does with an error report beyond taking the message (log 79). -/
def execCtlErrorReport (h : IxHdr) (data : List Byte) (s : State) : Host.Outcome State Fault Refusal :=
  runAwake (arrives 7 { h with sub := 1 } data fun _ s => s) s

/-- The hub asks the guest of a port to drain; the message takes a credit of pool 2. -/
def drainRequest (k : Nat) (s : State) : State :=
  let q := s.die k
  if q.guest.isNone || !q.up || !bit q.cap 9 || creditsOf q.credits 0 2 == 0 then s
  else sendIx ⟨7, 2, agHub, portAgent k, 0, 15, 0, 0, 0, 0, 0, false, 0⟩ []
    (modDie k (fun q => { q with draining := true, credits := subCredits 0 2 1 q.credits }) s)

def execCtlDrainRequest (dp : Nat) (s : State) : Host.Outcome State Fault Refusal := runAwake (drainRequest dp) s

/-- A guest has drained. -/
def drainDone (h : IxHdr) (s : State) : State :=
  match agentPort h.srca with
  | some k => modDie k (fun q => { q with draining := false }) s
  | none => s

def execCtlDrainDone (h : IxHdr) (s : State) : Host.Outcome State Fault Refusal :=
  runAwake (arrives 7 { h with sub := 3 } [] drainDone) s

/-! ### Failure of a port (R438, R439, R452, R473) -/

/-- The boot sequence fails at a step: the module is in hold (R473, R474). -/
def holdBoot (step cause die : Nat) (s : State) : State :=
  { s with boot := { s.boot with step := step, hold := true, ready := false, cause := cause, dieCode := die } }

/-- A boot sequence is in progress: neither READY nor in hold. -/
def booting (s : State) : Bool := !s.boot.ready && !s.boot.hold

/-- Running and pre-empted contexts stop; no cause of ANT_CTX_STAT names a failed port. -/
def stopAll (s : State) : State :=
  { s with ctxs := s.ctxs.map fun c => if c.state = .running ∨ c.state = .preempted then { c with state := .stopped, cause := 0 } else c }

/-- A port between two Olienuk dies has failed (R439); during the boot sequence, the boot fails with cause 0x0A. -/
def failPort (k : Nat) (s : State) : State :=
  let s := modDie k (fun q => { q with up := false, failed := true }) s
  if 5 ≤ k then failGuest k s
  else if booting s then holdBoot 8 0x0A (portAgent k) s
  else if !s.boot.ready then s
  else
    let s := stopAll { s with glb := { s.glb with dieFail := true }, hif := { s.hif with stopped := true } }
    settleJobs (loseHostBound (dropPending (raise 1 (logEv 0x1C stPeerAbsent agHub { port := 0x12, arg := portAgent k } s))))

/-- ILUXA_MODULE_RETRAIN_TIMEOUT of a module that the port has. -/
def retrainFails (k m : Nat) (s : State) : State :=
  if (s.die k).up && decide (m < (s.die k).modules) then failPort k s else s

def execIluxaModuleRetrainTimeout (dp module : Nat) (s : State) : Host.Outcome State Fault Refusal :=
  runAwake (retrainFails dp module) s

/-- ILUXA_NEGOTIATION_TIMEOUT: a port whose negotiation is complete does not fail. -/
def execIluxaNegotiationTimeout (dp : Nat) (s : State) : Host.Outcome State Fault Refusal :=
  runAwake (fun s => if decide (dp < s.dies.length) && !(s.die dp).up then failPort dp s else s) s

/-! ### Negotiation (R452 to R455) -/

/-- Capability bits that the hub offers; to a guest never space 0x1 or the physical FLAG form. -/
def hubCaps (k : Nat) : Nat := if k < 5 then 0x7FF else 0x7F9

/-- The expected identity digest of a die, when the configuration image lists one (R467). -/
def listedDigest (s : State) (agent : Nat) : Nat :=
  match s.boot.image with
  | some m => nth 0 m.dieDigests (if agent = agUd then 8 else agent)
  | none => 0

/-- The record makes the port fail. The vendor is looked at last. -/
def recordBad (s : State) (k : Nat) (r : List Byte) : Bool :=
  let d := listedDigest s (portAgent k)
  leAt r 0 1 != 1 || !bit (leAt r 8 4) 0 || decide (leAt r 16 2 < 9) || leAt r 14 2 != 0
    || (decide (k < 5) && (leAt r 3 1 != 1 || (d != 0 && d != leAt r 24 48) || leAt r 4 2 != Config.olienukVendor % 65536))

/-- Modules of a port that the hub has trained (R437). -/
def ownModules (s : State) (k : Nat) : Nat := if k < 4 then 8 else if k = 4 then 2 else (s.die k).modules

/-- The negotiation record of the hub on port `k` (R452, R453). -/
def hubRecord (s : State) (k : Nat) : List Byte :=
  [1, 0, BitVec.ofNat 8 agHub, 0] ++ leBytes 2 Config.olienukVendor ++ leBytes 2 Config.hubDevrev ++ leBytes 4 (hubCaps k)
    ++ hubGrants.flatMap (leBytes 2) ++ leBytes 1 hubMaxlen ++ leBytes 1 (ownModules s k) ++ [0, 0]
    ++ sha384 Config.identityKey ++ List.replicate 24 0

/-- The record leaves on the sideband of module 0, in twelve messages of 8 bytes (R452). -/
def sendHubRecord (k : Nat) (s : State) : State := (chunks 8 12 (hubRecord s k)).foldl (fun s b => emit (.ixSide k b) s) s

/-- A port carries on K modules with what the two records give (R454). -/
def portUp (k modules minor cap maxlen : Nat) (credits : List Nat) (iddig : List Byte) : State → State :=
  modDie k (fun q => { q with
    up := true, modules := modules, minor := minor, cap := cap, maxlen := maxlen, credits := List.replicate modules credits,
    granted := List.replicate modules hubGrants, owed := List.replicate modules [0, 0, 0, 0], iddig := iddig })

/-- The partner's record combines with the hub's, which leaves with it when the boot sequence has not sent it. A port that has failed
negotiates again only after a reset (R439, R458). -/
def takeRecord (k : Nat) (r : List Byte) (s : State) : State :=
  if !decide (k < s.dies.length) || (s.die k).up || (s.die k).failed || r.length ≠ 96 then s
  else if recordBad s k r then failPort k (sendHubRecord k s)
  else
    portUp k (min (ownModules s k) (leAt r 21 1)) (min 0 (leAt r 1 1)) (leAt r 8 4 &&& hubCaps k) (min hubMaxlen (leAt r 20 1))
      ((upto 4).map fun p => leAt r (12 + 2 * p) 2) ((r.drop 24).take 48) (sendHubRecord k s)

def execIluxaNegotiationRecord (dp : Nat) (rec : List Byte) (s : State) : Host.Outcome State Fault Refusal :=
  runAwake (takeRecord dp rec) s

end Sys2Proof.Machine
end

