-- ==== Sys2Proof/Machine/Boot.lean ====
section
/-! DEFINITION. Fuses, the configuration image and the boot sequence (R460 to R475), and the resets that run it (R486,
R494 to R497, R513, R537). -/
namespace Sys2Proof.Machine

/-! ### The configuration image (R463 to R468) -/

/-- A public key is the one that KEYSEL names: the root key or an owner key, compared by the SHA-384 in its fuses (R463). -/
def keyAccepted (f : Fuses) (keysel : Nat) (pk : List Byte) : Bool :=
  let h := digestNat pk
  if keysel = 0 then !f.rootOff && h == f.rootHash
  else if keysel ≤ 4 then
    let o := nth 0 f.owner (keysel - 1)
    o != 0 && !bit f.revoked (keysel - 1) && h == o
  else false

/-- Entries of the section table. -/
def cfgSects (b : List Byte) : List Sect :=
  (upto (leAt b 18 2)).map fun i =>
    let o := 192 + 16 * i
    ⟨leAt b o 1, leAt b (o + 1) 3, leAt b (o + 4) 4, leAt b (o + 8) 4, leAt b (o + 12) 4⟩

/-- Check 1 of R466 fails (cause 0x04); `b` is all that follows the start of the image in the flash. -/
def cfgHeaderBad (b : List Byte) : Bool :=
  let n := leAt b 8 4
  leAt b 0 4 != 0x43465031 || n % 64 != 0 || decide (n < 1024) || decide (0x4000000 < n) || decide (b.length < n)
    || leAt b 6 2 != 1 || leAt b 4 2 != 0 || leAt b 12 4 / 2 != 0 || decide (64 < leAt b 17 1)
    || decide (leAt b 18 2 < 2) || decide (32 < leAt b 18 2) || leAt b 20 4 != 0 || leAt b 32 32 != 0 || leAt b 161 31 != 0
    || (cfgSects b).any fun e => e.resv != 0

/-- The image proper: LENGTH bytes. -/
def cfgImage (b : List Byte) : List Byte := b.take (leAt b 8 4)

/-- Bytes of a section. -/
def sectBytes (b : List Byte) (e : Sect) : List Byte := (b.drop e.off).take e.bytes
/-- Bytes of the section of a type; none when it is absent. -/
def cfgSect (b : List Byte) (ty : Nat) : List Byte :=
  match sectOf (cfgSects b) ty with
  | some e => sectBytes b e
  | none => []

/-- Trust anchors: each certificate after its 4-byte length; none when the bytes do not work out. `f` bounds their number. -/
def cutAnchors : Nat → List Byte → Option (List (List Byte))
  | _, [] => some []
  | 0, _ => none
  | f + 1, l =>
    let n := leAt l 0 4
    if l.length < 4 + n then none else (cutAnchors f (l.drop (4 + n))).map ((l.drop 4).take n :: ·)

/-- Stage-map records. -/
def cfgStage (b : List Byte) : List (List Byte) := let l := cfgSect b 2; chunks 64 (l.length / 64) l

/-- The key of a record under R468. -/
def stageKey (r : List Byte) : Nat × Nat × Nat :=
  let ty := leAt r 0 1
  (ty, if ty = 1 then 0 else leAt r 1 1, if ty = 5 ∨ ty = 6 then leAt r 2 2 else 0)

/-- A record keeps the value ranges of R468. -/
def stageOk (r : List Byte) : Bool :=
  let ix := leAt r 1 1
  let portOk := fun p => decide (p ≤ 15) || p == 0xFF
  match leAt r 0 1 with
  | 1 => true
  | 2 => decide (ix ≤ 15)
  | 3 => portOk (leAt r 4 1) && decide (leAt r 5 1 ≤ 15)
  | 4 => decide (ix ≤ 15)
  | 5 => (decide (ix ≤ 5) || (decide (8 ≤ ix) && decide (ix ≤ 0x27))) && decide (leAt r 2 2 ≤ 1023) && portOk (leAt r 6 1)
  | 6 => decide (ix ≤ 15)
  | _ => false

/-- Section 0x02 breaks R468. -/
def stageBad (b : List Byte) : Bool :=
  let l := cfgStage b
  !l.all stageOk || (l.filter fun r => leAt r 0 1 == 1).length != 1 || (l.map stageKey).eraseDups.length != l.length

/-- Register-default records: offset, mask, value (R469). -/
def cfgDefaults (b : List Byte) : List (Nat × Nat × Nat) :=
  let l := cfgSect b 1
  (chunks 16 (l.length / 16) l).map fun r => (leAt r 0 4, leAt r 4 4, leAt r 8 4)

/-- Map entries of a system flag context (section 0x08), in the order of the section. -/
def cfgFlagRun (b : List Byte) (c : Nat) : List Nat :=
  let l := cfgSect b 8
  ((chunks 16 (l.length / 16) l).filter fun r => leAt r 0 1 == c).map fun r => leAt r 8 8

/-- Section 0x08 names another context, sets a reserved bit, or holds a run that breaks R278 or shares a page. -/
def cfgFlagsBad (b : List Byte) : Bool :=
  let l := cfgSect b 8
  let rs := chunks 16 (l.length / 16) l
  let runs := (upto 8).map fun i => cfgFlagRun b (32 + i)
  let pages := (runs.flatMap id).flatMap entPageKeys
  rs.any (fun r => decide (leAt r 0 1 < 32) || decide (39 < leAt r 0 1) || leAt r 1 7 != 0)
    || !runs.all runOk || pages.eraseDups.length != pages.length

/-- Fuse requests: OP, argument, hash (R470). -/
def cfgFuses (b : List Byte) : List (Nat × Nat × Nat) :=
  let l := cfgSect b 9
  (chunks 64 (l.length / 64) l).map fun r => (leAt r 0 1, leAt r 1 1, leAt r 16 48)

/-- A fuse request that R470 does not know. -/
def fuseBad (q : Nat × Nat × Nat) : Bool :=
  let slot := decide (q.2.1 < 1) || decide (4 < q.2.1)
  match q.1 with
  | 1 => slot
  | 2 => slot
  | 3 => false
  | 4 => false
  | _ => true

/-- Size of an element of a section type; 0 when it is not a fixed one. -/
def cfgSize (ty : Nat) : Nat :=
  match ty with
  | 1 => 16 | 2 => 64 | 4 => 128 | 5 => 48 | 8 => 16 | 9 => 64 | _ => 0

/-- One section-table entry keeps R467: a known type, its place, its size. -/
def cfgSectOk (b : List Byte) (e : Sect) : Bool :=
  let n := leAt b 18 2
  let place := decide (192 + 16 * n ≤ e.off) && decide (e.off + e.bytes ≤ leAt b 8 4 - 96)
  place && match e.ty with
  | 3 => decide (e.count ≤ 8) && (match cutAnchors 8 (sectBytes b e) with | some l => l.length == e.count | none => false)
  | 7 => e.bytes == 2 && decide (leAt b e.off 1 ≤ 2) && decide (leAt b (e.off + 1) 1 ≤ 2)
  | 5 => e.bytes == 432 && e.count == 9
  | 4 => e.bytes == 128 * e.count && decide (e.count ≤ 4)
  | ty => cfgSize ty != 0 && e.bytes == e.count * cfgSize ty

/-- Check 5 of R466 fails (cause 0x08). -/
def cfgSectionsBad (b : List Byte) : Bool :=
  let l := cfgSects b
  let count := fun ty => (l.filter fun e => e.ty == ty).length
  let clash := (upto l.length).any fun i => (upto l.length).any fun j =>
    let e := nth ⟨0, 0, 0, 0, 0⟩ l i
    let f := nth ⟨0, 0, 0, 0, 0⟩ l j
    i != j && decide (e.off < f.off + f.bytes) && decide (f.off < e.off + e.bytes)
  let kept := sumNat ((l.filter fun e => decide (2 ≤ e.ty) && decide (e.ty ≤ 5)).map (·.bytes))
  !l.all (cfgSectOk b) || count 1 != 1 || count 2 != 1 || (upto 10).any (fun ty => decide (1 < count ty)) || clash
    || decide (2 * 1048576 < kept) || stageBad b || cfgFlagsBad b || (cfgFuses b).any fuseBad
    || (cfgDefaults b).any fun d => d.1 % 4 != 0 || decide (0x1000000 ≤ d.1)

/-- The signature of R465 verifies. -/
def cfgSigned (b : List Byte) : Bool :=
  let n := b.length - 96
  ecdsaVerify ((b.drop 64).take 97) (b.drop n) (b.take n)

/-- R466: the cause of the first failing check; none when the image is good. -/
def imageCause (f : Fuses) (raw : List Byte) : Option Nat :=
  let b := cfgImage raw
  if cfgHeaderBad raw then some 4
  else if !keyAccepted f (leAt b 16 1) ((b.drop 64).take 97) then some 5
  else if !cfgSigned b then some 6
  else if leAt b 17 1 < f.svn then some 7
  else if cfgSectionsBad b then some 8
  else none

/-- A signing key as the verifier takes it: 97 bytes, none when all zero. -/
def signKey (r : List Byte) : List Byte := if leNat r = 0 then [] else r.take 97

/-- What the boot keeps of a good image. -/
def imageOf (b : List Byte) : Image :=
  let keys := cfgSect b 4
  let digs := cfgSect b 5
  let rates := cfgSect b 7
  ⟨cfgStage b, (cutAnchors 8 (cfgSect b 3)).getD [], (chunks 128 (keys.length / 128) keys).map signKey,
    (chunks 48 (digs.length / 48) digs).map leNat, (leAt rates 0 1, leAt rates 1 1), leAt b 16 1, leAt b 17 1, leAt b 24 8,
    digestNat (b.take (b.length - 96))⟩

/-! ### Fuse requests (R470) -/

/-- The fuses after one request, none when it is not allowed; one whose effect is in place is skipped. -/
def applyFuse (keysel svn : Nat) (f : Fuses) (q : Nat × Nat × Nat) : Option Fuses :=
  let i := q.2.1 - 1
  match q.1 with
  | 1 =>
    if nth 0 f.owner i = q.2.2 then some f
    else if nth 0 f.owner i ≠ 0 ∨ bit f.revoked i then none
    else some { f with owner := modNth (fun _ => q.2.2) f.owner i }
  | 2 =>
    if bit f.revoked i then some f
    else if q.2.1 = keysel then none
    else some { f with revoked := f.revoked + 2 ^ i }
  | 3 => some { f with rootOff := true }
  | _ => if q.2.1 ≤ f.svn then some f else if svn < q.2.1 then none else some { f with svn := q.2.1 }

/-- An owner slot holds a hash and is not revoked. -/
def ownerLeft (f : Fuses) : Bool := (upto 4).any fun i => nth 0 f.owner i != 0 && !bit f.revoked i

/-- The fuses after every request of an image, none when one is not allowed. -/
def applyFuses (b : List Byte) (f : Fuses) : Option Fuses :=
  let g := (cfgFuses b).foldl (fun acc q => acc.bind fun f => applyFuse (leAt b 16 1) (leAt b 17 1) f q) (some f)
  match g with
  | none => none
  | some g => if g.rootOff && !f.rootOff && !ownerLeft g then none else some g

/-! ### The steps (R471) -/

/-- The first failure of steps 1 to 7: step, cause. -/
def earlyFault (env : BootEnv) (s : State) : Option (Nat × Nat) :=
  let raw := s.boot.flash
  let slow := fun k => if env.slow = some k then some (k, 0x0E) else none
  let img := fun k => match imageCause s.boot.fuses raw with
    | some c => if (c == 4 && k == 4) || (5 ≤ c && c ≤ 7 && k == 5) || (c == 8 && k == 6) then some (k, c) else none
    | none => none
  let fuses := match applyFuses (cfgImage raw) s.boot.fuses with
    | none => some (7, 9)
    | some f => if f ≠ s.boot.fuses ∧ !env.burnOk then some (7, 1) else none
  let checks := [slow 1, if env.fuseOk then none else some (2, 1), if env.katOk then none else some (2, 2), slow 2, slow 3,
    if env.flashOk then none else some (4, 3), img 4, slow 4, img 5, slow 5, img 6, slow 6, fuses, slow 7]
  (checks.filterMap id).head?

/-- The dies that the hub challenges: agents 0x00 to 0x07 and 0x09. -/
def challenged : List Nat := upto 8 ++ [agUd]
/-- The first die whose identity is not the one listed (R471, step 8). -/
def wrongDie (s : State) : Option Nat :=
  challenged.find? fun a => listedDigest s a != 0 && listedDigest s a != Config.dieDigest a

/-- Slices of a bank that need its spare: those the self-test finds and those marked before. -/
def badOf (env : BootEnv) (b : Bse) (d bank : Nat) : List Nat :=
  let found := (env.badSlices.filter fun t => t.1 == d && t.2.1 == bank).map (·.2.2)
  (found ++ (tabGet bankDefault b.banks bank).marks).eraseDups

/-- Banks of a base die that the self-test or a mark concerns. -/
def badBanks (env : BootEnv) (b : Bse) (d : Nat) : List Nat :=
  sortBy id (((env.badSlices.filter fun t => t.1 == d).map (·.2.1)) ++ b.banks.map (·.1)).eraseDups

/-- The first base die with a bank that has more than one failed slice (R531). -/
def beyondRepair (env : BootEnv) (s : State) : Option Nat :=
  ((upto 4).find? fun d => (badBanks env (s.bse d) d).any fun k => decide (1 < (badOf env (s.bse d) d k).length)).map (4 + ·)

/-- The first failure of steps 8 to 13: step, cause, die. -/
def lateFault (env : BootEnv) (s : State) : Option (Nat × Nat × Nat) :=
  let slow := fun k => if env.slow = some k then some (k, 0x0E, 15) else none
  let at_ := fun k c (o : Option Nat) => o.map fun a => (k, c, a % 16)
  let checks := [at_ 8 0x0A env.dieFail, at_ 8 0x0B env.idFail, at_ 8 0x0B (wrongDie s), slow 8, at_ 9 0x0C env.sramFail,
    at_ 9 0x0C (beyondRepair env s), slow 9, at_ 10 0x0D env.memFail, slow 10, slow 11, slow 12, slow 13]
  (checks.filterMap id).head?

/-- Step 8 for a port that no record has negotiated yet: the hub's side of two Olienuk dies. The grants, the MAXLEN and, where the
image lists none, the IDDIG of the partner are free, the grants at least those R454 asks for (log 81). -/
def portTrained (k : Nat) (s : State) : State :=
  if (s.die k).up then s
  else
    let free := fun i => Config.freeValue (s.free + i)
    let t := portUp k (ownModules s k) 0 0x7FF (min hubMaxlen (free 3 % 64 + 1)) [free 0 + 1, 0, free 1 + 9, free 2 + 1]
      (leBytes 48 (Config.dieDigest (portAgent k))) (sendHubRecord k s)
    { t with free := s.free + 4 }

/-- Step 9 on one base die: bank repair. A mark stays, so a second failed slice of the bank fails a later boot (R35, R531). -/
def repairBase (env : BootEnv) (d : Nat) (b : Bse) : Bse :=
  let banks := (badBanks env b d).foldl (fun t k =>
    tabSet bankDefault t k { Bank.none with slice := (badOf env b d k).headD 15, marks := (tabGet bankDefault b.banks k).marks }) []
  { b with banks := banks, done := true }

/-- Step 9 on every die, with the self-test of the arrays. -/
def testDies (env : BootEnv) (s : State) : State :=
  { s with
    bses := (upto 4).map fun d => repairBase env d (s.bse d),
    cmps := (upto 4).map fun d => selfTest ((env.arrayFail.filter fun f => f.1 == d).map (·.2)) (s.cmp d) }

/-- Step 10: every memory is trained at the rate of the image. -/
def trainDies (s : State) : State :=
  let rate := match s.boot.image with | some m => m.rates.1 | none => 0
  { s with bses := s.bses.map fun b => { b with hbm := [1, 1], rate := rate } }

/-- A register-default record acts as a host write (R469). -/
def applyDefault (s : State) (r : Nat × Nat × Nat) : State :=
  let old := liveWord s r.1 % 2 ^ 32
  writeWord r.1 0xFFFFFFFF (old - (old &&& r.2.1) + (r.2.2 &&& r.2.1)) s

/-- The pages of the system flag contexts are theirs before a register default can give one to a map of the driver: a page
belongs to one flag context (R276, log 57). -/
def reserveSystem (b : List Byte) (s : State) (c : Nat) : State :=
  { s with flg := { s.flg with
      pageOwner := ((cfgFlagRun b c).flatMap entPageKeys).foldl (fun t k => tabInsert t k c) s.flg.pageOwner } }

/-- The map of system flag context `c`: its entries take the lowest free run of the map store (log 57). -/
def installSystem (b : List Byte) (s : State) (c : Nat) : State :=
  let es := cfgFlagRun b c
  match firstRun 4096 es.length fun i => (tabFind s.flg.storeOwner i).isNone with
  | some first => if es.isEmpty then s else installFlags c first es s
  | none => s

/-- Step 11. -/
def applyImage (b : List Byte) (s : State) : State :=
  let system := (upto 8).map (32 + ·)
  let s := (cfgDefaults b).foldl applyDefault (system.foldl (reserveSystem b) s)
  let s := system.foldl (installSystem b) s
  if bit (leAt b 12 4) 0 then setBit oCfgLock 0 { s with glb := { s.glb with lockByImage := true } } else s

/-- Step 12: every port with EN = 1 leaves DOWN for TRAINING. -/
def trainPorts (s : State) : State :=
  (upto 16).foldl (fun s p => if fld s (oLnk p 0) 0 1 = 1 ∧ (s.port p).state = .down then setLink p .training s else s) s

/-- What steps 8 to 12 have done when step `k` begins. In hold every port stays DOWN (R474), so step 12 acts with step 13. -/
def stepsBefore (env : BootEnv) (b : List Byte) (k : Nat) (s : State) : State :=
  let s := if 8 < k then (upto 5).foldl (fun s k => portTrained k s) s else s
  let s := if 9 < k then testDies env s else s
  let s := if 10 < k then trainDies s else s
  if 11 < k then applyImage b s else s

/-- Step 13: READY, and the entry of a thermal trip before a power-on (R513). -/
def bootDone (kind : Nat) (s : State) : State :=
  let s := { s with boot := { s.boot with step := 13, ready := true, hold := false } }
  if kind = 0 ∧ s.pwr.lastFault = 5 then logEv 0x20 stOk agHub { arg := s.pwr.tripAgent } s else s

/-- The boot sequence of R471 over a fresh logic side; `kind` is BOOT_KIND of R527. -/
def bootSequence (kind : Nat) (env : BootEnv) (s : State) : State :=
  withPins (fun s =>
    let s := setFld oRstCause 4 4 kind (setFld oRstCause 0 4 kind { s with boot := { s.boot with bootKind := kind } })
    match earlyFault env s with
    | some (k, c) => holdBoot k c 15 s
    | none =>
      let b := cfgImage s.boot.flash
      let fuses := (applyFuses b s.boot.fuses).getD s.boot.fuses
      let s := { s with boot := { s.boot with fuses := fuses, image := some (imageOf b) } }
      match lateFault env s with
      | some (k, c, d) => holdBoot k c d (stepsBefore env b k s)
      | none => bootDone kind (trainPorts (stepsBefore env b 13 s))) s

/-! ### Resets that boot (R486, R494 to R497, R537) -/

/-- A module or conventional reset of an awake module: memory is kept, READY falls, and the boot sequence runs at once. -/
def rebootNow (kind : Nat) (env : BootEnv) (s : State) : State := bootSequence kind env (withPins (freshLogic true) s)

/-- No reset pin is low. -/
def pinsHigh (s : State) : Bool := !s.pwr.modRstLow && !s.pwr.perstLow

/-- POWER_ON: the power stage starts with the input in its window, PG_CORE rises once every rail is in regulation, and the module boots
unless a reset pin is low (R486). A module that has power and has not begun its boot sequence begins it. -/
def powerOn (env : BootEnv) (s : State) : State :=
  if !s.pwr.powered then
    let s := withPins (fun s => { s with pwr := { s.pwr with vinOk := true, psFaultLow := false } }) s
    let s := withPins (fun s => freshLogic false { s with pwr := { s.pwr with powered := true, pgCore := true } }) s
    if pinsHigh s then bootSequence 0 env s else s
  else if pinsHigh s && booting s && s.boot.step == 0 then bootSequence 0 env s else s

def execPowerOn (env : BootEnv) (s : State) : Host.Outcome State Fault Refusal := run (powerOn env) s

/-- The kind a boot will have after a reset pin falls: a module that waits to boot keeps the kind that stands higher in
R494. -/
def nextKind (s : State) (kind : Nat) : Nat :=
  if s.awake then kind else if s.boot.bootKind = 4 then kind else s.boot.bootKind

/-- A reset pin falls: an awake module is reset, and the logic side stays in reset. -/
def pinFalls (kind : Nat) (low : Pwr → Pwr) (s : State) : State :=
  withPins (fun s =>
    let k := nextKind s kind
    let t := if s.awake then freshLogic true s else s
    { t with pwr := low t.pwr, boot := { t.boot with bootKind := k } }) s

def execModRstNAssert (s : State) : Host.Outcome State Fault Refusal :=
  if s.pwr.modRstLow then .next s else run (pinFalls 1 fun p => { p with modRstLow := true }) s
def execCxlConventionalReset (s : State) : Host.Outcome State Fault Refusal :=
  if s.pwr.perstLow then .next s else run (pinFalls 4 fun p => { p with perstLow := true }) s

/-- RESET_PIN_RELEASE: with power and no other pin low, the boot sequence starts. -/
def pinRises (pin : ResetPin) (env : BootEnv) (s : State) : State :=
  let s := match pin with
    | .modRst => { s with pwr := { s.pwr with modRstLow := false } }
    | .cxlPerst => { s with pwr := { s.pwr with perstLow := false } }
  if s.awake then bootSequence s.boot.bootKind env s else s

def execResetPinRelease (pin : ResetPin) (env : BootEnv) (s : State) : Host.Outcome State Fault Refusal :=
  let low := match pin with | .modRst => s.pwr.modRstLow | .cxlPerst => s.pwr.perstLow
  if low then run (pinRises pin env) s else .next s

/-- GLB_RST_MODULE: the write with its key, or the reset of an earlier REGISTER_WRITE, acts (log 78). -/
def execGlbRstModule (key : Nat) (env : BootEnv) (s : State) : Host.Outcome State Fault Refusal :=
  runLive (fun s => if key = rstKey ∨ s.boot.rstPending then rebootNow 3 env s else s) s

/-- BOOT_STEP_TIMEOUT: the step of a boot sequence in progress exceeds its limit (R471, R473). -/
def execBootStepTimeout (step : Nat) (s : State) : Host.Outcome State Fault Refusal :=
  runAwake (fun s => if booting s && decide (1 ≤ step) && decide (step ≤ 13) then holdBoot step 0x0E 15 s else s) s

end Sys2Proof.Machine
end

