-- ==== Sys2Proof/Machine/Sideband.lean ====
section
/-! DEFINITION. The messages of the I3C sideband and of CXL DOE: image sessions, BOOT_STATUS and MODULE_RESET (R475 to
R477), SPDM (R478, R479) and PLDM (R480). -/
namespace Sys2Proof.Machine

/-! ### Image messages (R475 to R477) -/

/-- The context cell that PATTERN_LOAD left holds a Pattern or its remains (R477). -/
def anyLoaded (s : State) : Bool := s.ctxs.any fun c => decide (c.state ≠ CtxState.empty)

/-- Respond on a transport with a status byte and the bytes after it (R476). -/
def answer (t : Transport) (status : Nat) (rest : List Byte) (s : State) : State :=
  emit (.mctp t (leBytes 1 status ++ rest)) s

/-- Step 2 has read the fuses: until then their fields hold their Reset values (R471, R475). -/
def fusesRead (s : State) : Bool := decide (3 ≤ s.boot.step) || (s.boot.step == 2 && s.boot.cause == 2)

/-- BOOT_STAT of R475. -/
def bootStat (s : State) : Nat :=
  let b := s.boot
  b.step + 16 * b2n b.hold + 32 * b2n b.ready + 256 * b.cause + 65536 * b.dieCode + (if fusesRead s then 2 ^ 24 * b.fuses.svn else 0)

/-- BOOT_INFO of R475. -/
def bootInfo (s : State) : Nat :=
  let f := s.boot.fuses
  let keysel := match s.boot.image with | some m => m.keysel | none => 0
  let empty := ((upto 4).map fun i => b2n (nth 0 f.owner i == 0) * 2 ^ i).foldl (· + ·) 0
  keysel + (if fusesRead s then 8 * b2n f.rootOff + 16 * empty + 256 * f.revoked else 0)

/-- BOOT_STATUS. -/
def bootStatus (t : Transport) (s : State) : State := answer t 0 (leBytes 4 (bootStat s) ++ leBytes 4 (bootInfo s)) s
def execBootStatus (t : Transport) (s : State) : Host.Outcome State Fault Refusal := runAwake (bootStatus t) s

/-- The open session ends; loads delayed by it are admitted (R477). -/
def endSession (s : State) : State :=
  let delayed := s.boot.delayedLoads
  let s := { s with boot := { s.boot with session := none, delayedLoads := [] } }
  settleJobs (delayed.foldl (fun s c => ctxNow c s) s)

/-- IMG_BEGIN. -/
def imgBegin (t : Transport) (length : Nat) (s : State) : State :=
  if s.boot.session.isSome then answer t 1 [] s
  else if !s.boot.hold && (anyLoaded s || !s.red.buckets.isEmpty) then answer t 2 [] s
  else answer t 0 [] { s with boot := { s.boot with session := some ⟨t, length, [], false⟩ } }
def execImgBegin (t : Transport) (length : Nat) (s : State) : Host.Outcome State Fault Refusal := runAwake (imgBegin t length) s

/-- A message of a session: with no session of this transport it is refused, during the commit it meets BUSY (log 82). -/
def inSession (t : Transport) (f : Session → State → State) (s : State) : State :=
  match s.boot.session with
  | some q => if q.committing then answer t 1 [] s else if q.transport ≠ t then answer t 2 [] s else f q s
  | none => answer t 2 [] s

/-- IMG_DATA: bytes join the staged image only at the next OFFSET (R477), within LENGTH and of a length of R476 (log 82). -/
def imgData (t : Transport) (off : Nat) (data : List Byte) (s : State) : State :=
  inSession t (fun q s =>
    let n := data.length
    if off ≠ q.data.length ∨ n % 64 ≠ 0 ∨ n < 64 ∨ 1024 < n ∨ q.length < off + n then answer t 3 [] s
    else answer t 0 [] { s with boot := { s.boot with session := some { q with data := q.data ++ data } } }) s
def execImgData (t : Transport) (off : Nat) (data : List Byte) (s : State) : Host.Outcome State Fault Refusal :=
  runAwake (imgData t off data) s

/-- IMG_COMMIT: the checks of R466 on the staged image; when they pass, the flash is being written. -/
def imgCommit (t : Transport) (s : State) : State :=
  inSession t (fun q s =>
    match imageCause s.boot.fuses q.data with
    | some c => endSession (answer t 4 (leBytes 1 c) s)
    | none => { s with boot := { s.boot with session := some { q with committing := true } } }) s
def execImgCommit (t : Transport) (s : State) : Host.Outcome State Fault Refusal := runAwake (imgCommit t) s

/-- The boot sequence again, from step 1, with no reset (R474); it empties the error log (R528). -/
def bootAgain (env : BootEnv) (s : State) : State :=
  bootSequence s.boot.bootKind env { s with
    glb := { s.glb with log := List.replicate 32 none, seq := 0, logQ := [] },
    boot := { s.boot with step := 1, hold := false, ready := false, cause := 0, dieCode := 15 } }

/-- IMG_COMMIT_COMPLETE: programming and read-back end. In hold a success runs the boot sequence again. When the read-back
does not match, what the flash holds is free (log 14). -/
def imgCommitComplete (ok : Bool) (env : BootEnv) (s : State) : State :=
  match s.boot.session with
  | some q =>
    if !q.committing then s
    else if ok then
      let s := endSession (answer q.transport 0 [] { s with boot := { s.boot with flash := q.data } })
      if s.boot.hold then bootAgain env s else s
    else endSession (answer q.transport 5 [] (spend { s with boot := { s.boot with flash := Config.foreignBytes 0 s.free } }))
  | none => s
def execImgCommitComplete (ok : Bool) (env : BootEnv) (s : State) : Host.Outcome State Fault Refusal :=
  runAwake (imgCommitComplete ok env) s

/-- IMG_ABORT. -/
def imgAbort (t : Transport) (s : State) : State := inSession t (fun _ s => endSession (answer t 0 [] s)) s
def execImgAbort (t : Transport) (s : State) : Host.Outcome State Fault Refusal := runAwake (imgAbort t) s

/-- IMG_SESSION_TIMEOUT: a session idle for 10.0 s is discarded; one that commits is not idle. -/
def imgSessionTimeout (s : State) : State :=
  match s.boot.session with
  | some q => if q.committing then s else endSession s
  | none => s
def execImgSessionTimeout (s : State) : Host.Outcome State Fault Refusal := runAwake imgSessionTimeout s

/-- MODULE_RESET: the response leaves first. -/
def moduleReset (t : Transport) (env : BootEnv) (s : State) : State := rebootNow 2 env (answer t 0 [] s)
def execModuleReset (t : Transport) (env : BootEnv) (s : State) : Host.Outcome State Fault Refusal := runAwake (moduleReset t env) s

/-! ### SPDM (R478, R479). Message layouts and codes are DSP0274's; the model gives what R478 and R479 name (log 80). -/

/-- How far the connection of a transport has come: 1 version, 2 capabilities, 3 algorithms. -/
def spdmPhase (s : State) (t : Transport) : Nat :=
  match s.boot.negotiated.find? fun e => e.1 == t with | some e => e.2 | none => 0
def setPhase (t : Transport) (n : Nat) (s : State) : State :=
  { s with boot := { s.boot with negotiated := (t, n) :: s.boot.negotiated.filter fun e => e.1 != t } }

/-- An SPDM response: the DSP0274 header of its code, then the content. -/
def spdmSay (t : Transport) (code : Nat) (content : List Byte) (s : State) : State :=
  emit (.mctp t (Config.foreignBytes 1 code ++ content)) s
/-- The SPDM ERROR response. -/
def spdmError (t : Transport) (s : State) : State := spdmSay t 0x7F [] s

/-- GET_VERSION opens the connection anew. The content names one version, 1.3. -/
def getVersion (t : Transport) (s : State) : State := spdmSay t 0x04 ([0, 1] ++ leBytes 2 0x1300) (setPhase t 1 s)
def execGetVersion (t : Transport) (s : State) : Host.Outcome State Fault Refusal := runAwake (getVersion t) s

/-- What the module can do (R478) in the flags of CAPABILITIES: certificates (bit 1), challenge (2), measurements with a signature
(4). The other fields are DSP0274's and free (log 80). -/
def spdmCaps : List Byte :=
  [0] ++ padTo 3 ((Config.foreignBytes 5 0).take 3) ++ leBytes 4 0x16 ++ padTo 8 ((Config.foreignBytes 5 1).take 8)
/-- GET_CAPABILITIES follows GET_VERSION. -/
def getCapabilities (t : Transport) (s : State) : State :=
  if spdmPhase s t = 1 then spdmSay t 0x61 spdmCaps (setPhase t 2 s) else spdmError t s
def execGetCapabilities (t : Transport) (s : State) : Host.Outcome State Fault Refusal := runAwake (getCapabilities t) s

/-- NEGOTIATE_ALGORITHMS selects ECDSA P-384 (bit 7) and SHA-384 (bit 1), the only algorithms of R478. -/
def negotiateAlgorithms (t : Transport) (asym hash : Nat) (s : State) : State :=
  if spdmPhase s t = 2 ∧ bit asym 7 ∧ bit hash 1 then spdmSay t 0x63 (leBytes 4 0x80 ++ leBytes 4 2) (setPhase t 3 s) else spdmError t s
def execNegotiateAlgorithms (t : Transport) (asym hash : Nat) (s : State) : Host.Outcome State Fault Refusal :=
  runAwake (negotiateAlgorithms t asym hash) s

/-- A request that needs a negotiated connection. -/
def negotiated (t : Transport) (f : State → State) (s : State) : State := if spdmPhase s t = 3 then f s else spdmError t s

/-- GET_DIGESTS: SHA-384 of the chain of slot 0. -/
def getDigests (t : Transport) (s : State) : State := negotiated t (spdmSay t 0x01 (leBytes 48 (digestNat Config.certChain))) s
def execGetDigests (t : Transport) (s : State) : Host.Outcome State Fault Refusal := runAwake (getDigests t) s

/-- GET_CERTIFICATE: a portion of the chain of slot 0, after its length and the length that remains. -/
def getCertificate (t : Transport) (slot off len : Nat) (s : State) : State :=
  negotiated t (fun s =>
    let l := Config.certChain
    if slot ≠ 0 ∨ l.length ≤ off then spdmError t s
    else
      let part := (l.drop off).take len
      spdmSay t 0x02 (leBytes 2 part.length ++ leBytes 2 (l.length - off - part.length) ++ part) s) s
def execGetCertificate (t : Transport) (slot off len : Nat) (s : State) : Host.Outcome State Fault Refusal :=
  runAwake (getCertificate t slot off len) s

/-- Content, a fresh nonce, and the identity key's signature over the request's nonce and both (log 80). -/
def spdmSigned (t : Transport) (code nonce : Nat) (content : List Byte) (s : State) : State :=
  let m := content ++ Config.random s.free 32
  let sig := padTo 96 ((Config.identitySign (digestNat (leBytes 32 nonce ++ m)) (s.free + 1)).take 96)
  spdmSay t code (m ++ sig) { s with free := s.free + 2 }

/-- CHALLENGE of slot 0. -/
def challenge (t : Transport) (slot nonce : Nat) (s : State) : State :=
  negotiated t (fun s =>
    if slot ≠ 0 then spdmError t s else spdmSigned t 0x03 nonce (leBytes 48 (digestNat Config.certChain)) s) s
def execChallenge (t : Transport) (slot nonce : Nat) (s : State) : Host.Outcome State Fault Refusal := runAwake (challenge t slot nonce) s

/-- The identity digest of an agent; zero for a die that has not trained. That of the hub is the digest of the module identity key,
that of a guest the IDDIG of its record (R455, R479). -/
def agentDigest (s : State) (a : Nat) : Nat :=
  if !agentUp s a then 0
  else if a = agHub then digestNat Config.identityKey
  else if guestAgent a then (match agentPort a with | some k => leNat (s.die k).iddig | none => 0)
  else Config.dieDigest a

/-- The value of a measurement block (R479). -/
def measureValue (s : State) (index : Nat) : List Byte :=
  match index with
  | 1 => leBytes 2 (liveWord s 0x004) ++ leBytes 48 Config.romDigest
  | 2 =>
    match s.boot.image, s.boot.hold with
    | some m, false => leBytes 48 m.digest ++ leBytes 1 m.keysel ++ leBytes 1 m.svn ++ leBytes 8 m.imgver
    | _, _ => List.replicate 58 0
  | 3 =>
    let f := s.boot.fuses
    leBytes 1 f.svn ++ ((upto 4).map fun i => leBytes 48 (nth 0 f.owner i)).flatten ++ leBytes 1 f.revoked ++ leBytes 1 (b2n f.rootOff)
  | 4 =>
    let guests := (upto s.dies.length).filterMap fun k => if 5 ≤ k then some (portAgent k) else none
    ((upto 10 ++ guests).map fun a => leBytes 48 (agentDigest s a)).flatten
  | _ => (s.ctxs.map fun c => leBytes 48 (if c.state = .empty then 0 else c.pat.digest)).flatten

/-- A block in the DMTF measurement format (log 80). -/
def measureBlock (s : State) (index : Nat) : List Byte :=
  let v := measureValue s index
  leBytes 1 index ++ [1] ++ leBytes 2 (v.length + 3) ++ leBytes 1 (leAt (Config.foreignBytes 2 index) 0 1) ++ leBytes 2 v.length ++ v

/-- GET_MEASUREMENTS: index 0 asks for the number of blocks, 0xFF for all of them. -/
def getMeasurements (t : Transport) (index nonce : Nat) (s : State) : State :=
  negotiated t (fun s =>
    if index = 0 then spdmSigned t 0x60 nonce (leBytes 1 5) s
    else if index = 0xFF then spdmSigned t 0x60 nonce (leBytes 1 5 ++ ((upto 5).map fun i => measureBlock s (i + 1)).flatten) s
    else if index ≤ 5 then spdmSigned t 0x60 nonce (leBytes 1 1 ++ measureBlock s index) s
    else spdmError t s) s
def execGetMeasurements (t : Transport) (index nonce : Nat) (s : State) : Host.Outcome State Fault Refusal :=
  runAwake (getMeasurements t index nonce) s

/-! ### PLDM (R480) -/

/-- The reading of a sensor (R480, R501): TEMP of a temperature register, WATTS, VOLTS, or the state of a port. The
numbering is the model's (log 80). -/
def sensorWord (s : State) (sensor : Nat) : Option Nat :=
  if sensor < 10 then
    let agent := if sensor < 4 then 4 + sensor else if sensor < 8 then sensor - 4 else sensor
    some (fld s (oPwr (tempReg agent)) 0 12)
  else if sensor = 10 then some (fld s (oPwr 0x50) 0 16)
  else if sensor = 11 then some (fld s (oPwr 0x50) 16 16)
  else if 16 ≤ sensor ∧ sensor < 32 then some (LinkState.code (s.port (sensor - 16)).state)
  else none

/-- A sideband request beyond the authority of the sideband: status 0x06, no effect, and an entry with port I3C and the code of the
message, 0x11 for a sensor reading of DSP0248 (R481, R529, log 106). -/
def sidebandRefused (code : Nat) (s : State) : State :=
  answer .i3c 6 [] (logEv 0x1E stPrivilege agHub { port := 0x11, arg := code % 256 } s)

/-- PLDM_SENSOR_READ over the I3C sideband; in hold only the messages of R474 are accepted. A sensor that R480 does not name is beyond
what the sideband reaches. -/
def pldmSensorRead (sensor : Nat) (s : State) : State :=
  if s.boot.hold then s
  else
    match sensorWord s sensor with
    | some w => emit (.mctp .i3c (Config.foreignBytes 3 sensor ++ leBytes 2 w)) s
    | none => sidebandRefused 0x11 s
def execPldmSensorRead (sensor : Nat) (s : State) : Host.Outcome State Fault Refusal := runAwake (pldmSensorRead sensor) s

end Sys2Proof.Machine
end

