-- ==== Sys2Proof/Machine/Dispatch.lean ====
section
/-! DEFINITION. One arm per command: its meaning, or its refusal by name. -/
namespace Sys2Proof.Machine

def exec (i : Instr) (s : State) : Host.Outcome State Fault Refusal :=
  match i with
  | .nop h => Sys2Proof.Machine.execNop h s
  | .fence h rmask => Sys2Proof.Machine.execFence h rmask s
  | .patternLoad h x image vsBase fastBase slowBase => Sys2Proof.Machine.execPatternLoad h x image vsBase fastBase slowBase s
  | .patternUnload h x => Sys2Proof.Machine.execPatternUnload h x s
  | .contextStart h x => Sys2Proof.Machine.execContextStart h x s
  | .contextPreempt h x => Sys2Proof.Machine.execContextPreempt h x s
  | .contextResume h x => Sys2Proof.Machine.execContextResume h x s
  | .contextReset h x => Sys2Proof.Machine.execContextReset h x s
  | .stepBegin h epoch step m eta => Sys2Proof.Machine.execStepBegin h epoch step m eta s
  | .stepCommit h step => Sys2Proof.Machine.execStepCommit h step s
  | .stepAbandon h step => Sys2Proof.Machine.execStepAbandon h step s
  | .snapshot h o => Sys2Proof.Machine.execSnapshot h o s
  | .copy h o hostData => Sys2Proof.Machine.execCopy h o hostData s
  | .fill h dst length value => Sys2Proof.Machine.execFill h dst length value s
  | .flagSet h vflag fctx => Sys2Proof.Machine.execFlagSet h vflag fctx s
  | .flagClear h vflag fctx => Sys2Proof.Machine.execFlagClear h vflag fctx s
  | .flagWait h vflag fctx val consume timeoutUs => Sys2Proof.Machine.execFlagWait h vflag fctx val consume timeoutUs s
  | .flagWaitCancel h ctag => Sys2Proof.Machine.execFlagWaitCancel h ctag s
  | .quiesce h => Sys2Proof.Machine.execQuiesce h s
  | .resumeAll h => Sys2Proof.Machine.execResumeAll h s
  | .linkControl h port cmd vcmask => Sys2Proof.Machine.execLinkControl h port cmd vcmask s
  | .submissionSlotAccept ring => Sys2Proof.Machine.execSubmissionSlotAccept ring s
  | .ringDoorbell ring tail => Sys2Proof.Machine.execRingDoorbell ring tail s
  | .staleSlotReread ring => Sys2Proof.Machine.execStaleSlotReread ring s
  | .doorbellEarly ring => Sys2Proof.Machine.execDoorbellEarly ring s
  | .ringEnable ring slog => Sys2Proof.Machine.execRingEnable ring slog s
  | .ringDisable ring => Sys2Proof.Machine.execRingDisable ring s
  | .hwgenWrite gen => Sys2Proof.Machine.execHwgenWrite gen s
  | .urgentQuiesce => Sys2Proof.Machine.execUrgentQuiesce s
  | .urgentResumeAll => Sys2Proof.Machine.execUrgentResumeAll s
  | .urgentRingStop ring => Sys2Proof.Machine.execUrgentRingStop ring s
  | .urgentPreempt x => Sys2Proof.Machine.execUrgentPreempt x s
  | .urgentReset x => Sys2Proof.Machine.execUrgentReset x s
  | .registerWrite off words => Sys2Proof.Machine.execRegisterWrite off words s
  | .cfgLockSet => Sys2Proof.Machine.execCfgLockSet s
  | .irqMaskWrite mask => Sys2Proof.Machine.execIrqMaskWrite mask s
  | .glbRstModule key env => Sys2Proof.Machine.execGlbRstModule key env s
  | .powerDown key => Sys2Proof.Machine.execPowerDown key s
  | .strEvtArm k ctl => Sys2Proof.Machine.execStrEvtArm k ctl s
  | .strEvtDisarm k ctl => Sys2Proof.Machine.execStrEvtDisarm k ctl s
  | .strEvtFire k => Sys2Proof.Machine.execStrEvtFire k s
  | .censusClearAll d withHist => Sys2Proof.Machine.execCensusClearAll d withHist s
  | .censusClearOne d idx withHist => Sys2Proof.Machine.execCensusClearOne d idx withHist s
  | .flagMapValidate fctx owner => Sys2Proof.Machine.execFlagMapValidate fctx owner s
  | .flagMapInvalidate fctx => Sys2Proof.Machine.execFlagMapInvalidate fctx s
  | .ownerlostClear fctx => Sys2Proof.Machine.execOwnerlostClear fctx s
  | .directQuery vflag fctx => Sys2Proof.Machine.execDirectQuery vflag fctx s
  | .directSet vflag fctx => Sys2Proof.Machine.execDirectSet vflag fctx s
  | .directClear vflag fctx => Sys2Proof.Machine.execDirectClear vflag fctx s
  | .directClearOverrun vflag fctx => Sys2Proof.Machine.execDirectClearOverrun vflag fctx s
  | .linkEnable p => Sys2Proof.Machine.execLinkEnable p s
  | .linkDisable p => Sys2Proof.Machine.execLinkDisable p s
  | .linkRetrain p => Sys2Proof.Machine.execLinkRetrain p s
  | .portReset p => Sys2Proof.Machine.execPortReset p s
  | .committedStepWrite step => Sys2Proof.Machine.execCommittedStepWrite step s
  | .updEntryValidate k w0 => Sys2Proof.Machine.execUpdEntryValidate k w0 s
  | .updEntryInvalidate k => Sys2Proof.Machine.execUpdEntryInvalidate k s
  | .residualZero => Sys2Proof.Machine.execResidualZero s
  | .updStatsDataAccess write => Sys2Proof.Machine.execUpdStatsDataAccess write s
  | .clockFloorWrite d floor => Sys2Proof.Machine.execClockFloorWrite d floor s
  | .hdmRead addr len => Sys2Proof.Machine.execHdmRead addr len s
  | .hdmWrite addr data => Sys2Proof.Machine.execHdmWrite addr data s
  | .tmmF x st idx w => Sys2Proof.Machine.execTmmF x st idx w s
  | .tmmB x st idx w => Sys2Proof.Machine.execTmmB x st idx w s
  | .tmmW x st idx w => Sys2Proof.Machine.execTmmW x st idx w s
  | .fset x st idx w => Sys2Proof.Machine.execFset x st idx w s
  | .fclr x st idx w => Sys2Proof.Machine.execFclr x st idx w s
  | .fwait x st idx w => Sys2Proof.Machine.execFwait x st idx w s
  | .vadd x st idx w => Sys2Proof.Machine.execVadd x st idx w s
  | .vsub x st idx w => Sys2Proof.Machine.execVsub x st idx w s
  | .vmul x st idx w => Sys2Proof.Machine.execVmul x st idx w s
  | .vfma x st idx w => Sys2Proof.Machine.execVfma x st idx w s
  | .vdiv x st idx w => Sys2Proof.Machine.execVdiv x st idx w s
  | .vsqrt x st idx w => Sys2Proof.Machine.execVsqrt x st idx w s
  | .vmin x st idx w => Sys2Proof.Machine.execVmin x st idx w s
  | .vmax x st idx w => Sys2Proof.Machine.execVmax x st idx w s
  | .vcvt x st idx w => Sys2Proof.Machine.execVcvt x st idx w s
  | .vfunc x st idx w => Sys2Proof.Machine.execVfunc x st idx w s
  | .vsum x st idx w => Sys2Proof.Machine.execVsum x st idx w s
  | .vmaxr x st idx w => Sys2Proof.Machine.execVmaxr x st idx w s
  | .vlnorm x st idx w => Sys2Proof.Machine.execVlnorm x st idx w s
  | .vrnorm x st idx w => Sys2Proof.Machine.execVrnorm x st idx w s
  | .vsmx x st idx w => Sys2Proof.Machine.execVsmx x st idx w s
  | .vsmxm x st idx w => Sys2Proof.Machine.execVsmxm x st idx w s
  | .vtopk x st idx w => Sys2Proof.Machine.execVtopk x st idx w s
  | .vcount x st idx w => Sys2Proof.Machine.execVcount x st idx w s
  | .vscan x st idx w => Sys2Proof.Machine.execVscan x st idx w s
  | .vgather x st idx w => Sys2Proof.Machine.execVgather x st idx w s
  | .vscatter x st idx w => Sys2Proof.Machine.execVscatter x st idx w s
  | .vialu x st idx w => Sys2Proof.Machine.execVialu x st idx w s
  | .vrand x st idx w => Sys2Proof.Machine.execVrand x st idx w s
  | .vdrop x st idx w => Sys2Proof.Machine.execVdrop x st idx w s
  | .instructionComplete x st idx => Sys2Proof.Machine.execInstructionComplete x st idx s
  | .arrayCheckFail d phys cause => Sys2Proof.Machine.execArrayCheckFail d phys cause s
  | .spareCheckFail d phys cause => Sys2Proof.Machine.execSpareCheckFail d phys cause s
  | .tempoBlockOrigin x idx cycle => Sys2Proof.Machine.execTempoBlockOrigin x idx cycle s
  | .phaseFStart x => Sys2Proof.Machine.execPhaseFStart x s
  | .phaseXStart x st => Sys2Proof.Machine.execPhaseXStart x st s
  | .phaseBStart x => Sys2Proof.Machine.execPhaseBStart x s
  | .phaseWStart x step window => Sys2Proof.Machine.execPhaseWStart x step window s
  | .offloadComplete x st => Sys2Proof.Machine.execOffloadComplete x st s
  | .offloadFetchBack x st => Sys2Proof.Machine.execOffloadFetchBack x st s
  | .fetchBackComplete x st => Sys2Proof.Machine.execFetchBackComplete x st s
  | .moeDispatch x router st => Sys2Proof.Machine.execMoeDispatch x router st s
  | .moeBatchArrival port x srcmod hdr idxs rows => Sys2Proof.Machine.execMoeBatchArrival port x srcmod hdr idxs rows s
  | .ringBlockArrival p x srcmod hdr data => Sys2Proof.Machine.execRingBlockArrival p x srcmod hdr data s
  | .queueEntryArrival p srcmod hbuf hctx hq desc data => Sys2Proof.Machine.execQueueEntryArrival p srcmod hbuf hctx hq desc data s
  | .queueCreditReturn p srcmod x q bufs => Sys2Proof.Machine.execQueueCreditReturn p srcmod x q bufs s
  | .gatherRequest p srcmod hdr => Sys2Proof.Machine.execGatherRequest p srcmod hdr s
  | .gatherResponse p srcmod hdr data => Sys2Proof.Machine.execGatherResponse p srcmod hdr data s
  | .windowWrite p vc srcmod dstmod hdr data => Sys2Proof.Machine.execWindowWrite p vc srcmod dstmod hdr data s
  | .transferCommit p vc desc rec => Sys2Proof.Machine.execTransferCommit p vc desc rec s
  | .fenceMarker p vc seq => Sys2Proof.Machine.execFenceMarker p vc seq s
  | .fencedRecordApply p rec => Sys2Proof.Machine.execFencedRecordApply p rec s
  | .remoteFlagSet p rec => Sys2Proof.Machine.execRemoteFlagSet p rec s
  | .remoteFlagClear p rec => Sys2Proof.Machine.execRemoteFlagClear p rec s
  | .remoteWaitFor1 p rec => Sys2Proof.Machine.execRemoteWaitFor1 p rec s
  | .remoteWaitFor0 p rec => Sys2Proof.Machine.execRemoteWaitFor0 p rec s
  | .remoteWaitCancel p wtag => Sys2Proof.Machine.execRemoteWaitCancel p wtag s
  | .remoteWake p rec => Sys2Proof.Machine.execRemoteWake p rec s
  | .linkPause p vcmask => Sys2Proof.Machine.execLinkPause p vcmask s
  | .linkResume p vcmask => Sys2Proof.Machine.execLinkResume p vcmask s
  | .flitReceive p bytes fecBad corr uncorr => Sys2Proof.Machine.execFlitReceive p bytes fecBad corr uncorr s
  | .flitTransmit p => Sys2Proof.Machine.execFlitTransmit p s
  | .replayTimer p => Sys2Proof.Machine.execReplayTimer p s
  | .deliveryBoundExpiry p => Sys2Proof.Machine.execDeliveryBoundExpiry p s
  | .creditStall p vc => Sys2Proof.Machine.execCreditStall p vc s
  | .laneFail p lane => Sys2Proof.Machine.execLaneFail p lane s
  | .retrainTimeout p => Sys2Proof.Machine.execRetrainTimeout p s
  | .linkTrainingStart p rxmask invert => Sys2Proof.Machine.execLinkTrainingStart p rxmask invert s
  | .trainingRecordReceived p rec => Sys2Proof.Machine.execTrainingRecordReceived p rec s
  | .trainingTimeout p => Sys2Proof.Machine.execTrainingTimeout p s
  | .authMessageReceived p msg => Sys2Proof.Machine.execAuthMessageReceived p msg s
  | .authTimeout p => Sys2Proof.Machine.execAuthTimeout p s
  | .refclkSlLoss => Sys2Proof.Machine.execRefclkSlLoss s
  | .reductionPartialArrival p vc srcmod hdr data => Sys2Proof.Machine.execReductionPartialArrival p vc srcmod hdr data s
  | .segmentTimeout g bucket seg newer => Sys2Proof.Machine.execSegmentTimeout g bucket seg newer s
  | .farCompress bucket seg step => Sys2Proof.Machine.execFarCompress bucket seg step s
  | .updatePassStart => Sys2Proof.Machine.execUpdatePassStart s
  | .updatePassComplete => Sys2Proof.Machine.execUpdatePassComplete s
  | .updateDatapathFault => Sys2Proof.Machine.execUpdateDatapathFault s
  | .restoreComplete r => Sys2Proof.Machine.execRestoreComplete r s
  | .copyComplete h => Sys2Proof.Machine.execCopyComplete h s
  | .snapshotComplete h => Sys2Proof.Machine.execSnapshotComplete h s
  | .contextWaitWarn x => Sys2Proof.Machine.execContextWaitWarn x s
  | .contextWaitStop x => Sys2Proof.Machine.execContextWaitStop x s
  | .hostFlagWaitTimeout h => Sys2Proof.Machine.execHostFlagWaitTimeout h s
  | .irqHoldoffExpiry v => Sys2Proof.Machine.execIrqHoldoffExpiry v s
  | .uncorrectableMemoryError place consumer => Sys2Proof.Machine.execUncorrectableMemoryError place consumer s
  | .correctedMemoryError place slice => Sys2Proof.Machine.execCorrectedMemoryError place slice s
  | .iluxaNegotiationRecord dp rec => Sys2Proof.Machine.execIluxaNegotiationRecord dp rec s
  | .iluxaNegotiationTimeout dp => Sys2Proof.Machine.execIluxaNegotiationTimeout dp s
  | .iluxaModuleRetrainTimeout dp module => Sys2Proof.Machine.execIluxaModuleRetrainTimeout dp module s
  | .mrd h => Sys2Proof.Machine.execMrd h s
  | .mrsp h data => Sys2Proof.Machine.execMrsp h data s
  | .mwr h data => Sys2Proof.Machine.execMwr h data s
  | .mack h => Sys2Proof.Machine.execMack h s
  | .iluxaFlag h => Sys2Proof.Machine.execIluxaFlag h s
  | .qent h data => Sys2Proof.Machine.execQent h data s
  | .redData h data => Sys2Proof.Machine.execRedData h data s
  | .redEmptyTileMarker h data => Sys2Proof.Machine.execRedEmptyTileMarker h data s
  | .ctlCreditReturn h => Sys2Proof.Machine.execCtlCreditReturn h s
  | .ctlErrorReport h data => Sys2Proof.Machine.execCtlErrorReport h data s
  | .ctlDrainRequest dp => Sys2Proof.Machine.execCtlDrainRequest dp s
  | .ctlDrainDone h => Sys2Proof.Machine.execCtlDrainDone h s
  | .powerOn env => Sys2Proof.Machine.execPowerOn env s
  | .powerRemoval cause => Sys2Proof.Machine.execPowerRemoval cause s
  | .bootStepTimeout step => Sys2Proof.Machine.execBootStepTimeout step s
  | .modRstNAssert => Sys2Proof.Machine.execModRstNAssert s
  | .cxlConventionalReset => Sys2Proof.Machine.execCxlConventionalReset s
  | .hostLoss cause => Sys2Proof.Machine.execHostLoss cause s
  | .flr => Sys2Proof.Machine.execFlr s
  | .tempSample agent temp sensorErr => Sys2Proof.Machine.execTempSample agent temp sensorErr s
  | .thermalTick watts volts => Sys2Proof.Machine.execThermalTick watts volts s
  | .psAlert => Sys2Proof.Machine.execPsAlert s
  | .clockLevelApply d => Sys2Proof.Machine.execClockLevelApply d s
  | .bootStatus t => Sys2Proof.Machine.execBootStatus t s
  | .imgBegin t length => Sys2Proof.Machine.execImgBegin t length s
  | .imgData t off data => Sys2Proof.Machine.execImgData t off data s
  | .imgCommit t => Sys2Proof.Machine.execImgCommit t s
  | .imgCommitComplete ok env => Sys2Proof.Machine.execImgCommitComplete ok env s
  | .imgAbort t => Sys2Proof.Machine.execImgAbort t s
  | .imgSessionTimeout => Sys2Proof.Machine.execImgSessionTimeout s
  | .moduleReset t env => Sys2Proof.Machine.execModuleReset t env s
  | .getVersion t => Sys2Proof.Machine.execGetVersion t s
  | .getCapabilities t => Sys2Proof.Machine.execGetCapabilities t s
  | .negotiateAlgorithms t asym hash => Sys2Proof.Machine.execNegotiateAlgorithms t asym hash s
  | .getDigests t => Sys2Proof.Machine.execGetDigests t s
  | .getCertificate t slot off len => Sys2Proof.Machine.execGetCertificate t slot off len s
  | .challenge t slot nonce => Sys2Proof.Machine.execChallenge t slot nonce s
  | .getMeasurements t index nonce => Sys2Proof.Machine.execGetMeasurements t index nonce s
  | .pldmSensorRead sensor => Sys2Proof.Machine.execPldmSensorRead sensor s
  | .resetPinRelease pin env => Sys2Proof.Machine.execResetPinRelease pin env s
  | .registerRead off nwords => Sys2Proof.Machine.execRegisterRead off nwords s

end Sys2Proof.Machine
end

