-- ==== Sys2Proof/Machine/Step.lean ====
section
/-! DEFINITION. One step: the command at the front of the queue, or eight hub cycles of idling. -/
namespace Sys2Proof.Machine

/-- Eight hub cycles pass: GLB_TIME advances by 5 ns while the module has power (R63, R527; log 1). -/
def idle (s : State) : State :=
  if s.pwr.powered then { s with glb := { s.glb with time := (s.glb.time + 5) % 2 ^ 64 } } else s

/-- Take the command at the front of the queue and run it with the rest of the queue. -/
def step (s : State) : Host.Outcome State Fault Refusal :=
  match s.pending with
  | [] => .next (idle s)
  | c :: rest => exec c { s with pending := rest }

/-- The state with the command that a table word spells in front; no word spells one, so nothing changes. -/
def State.withFetchWord (s : State) (nbits w : Nat) : State :=
  match decodeTableWord nbits w with
  | some c => { s with pending := c :: s.pending }
  | none => s

end Sys2Proof.Machine
end

