-- ==== Sys2Proof/Machine/Slot.lean ====
section
/-! DEFINITION. The submission slot that the driver writes for a command (R416, R425): the encoder beside `slotCommand`. -/
namespace Sys2Proof.Machine

/-- Bytes 0 to 7 of a slot. -/
def slotHead (op : Nat) (cancel : Bool) (h : HostHdr) : Nat :=
  op + b2n h.irq * 2 ^ 8 + b2n cancel * 2 ^ 9 + h.sstamp * 2 ^ 16 + h.tag * 2 ^ 32

/-- A field of `v` at byte `n` of a slot. -/
def atByte (n v : Nat) : Nat := v * 2 ^ (8 * n)

/-- Operands of SNAPSHOT. -/
def snapSlot (o : SnapOps) : Nat :=
  atByte 8 (o.what + 4 * o.dest) + atByte 9 o.port + atByte 10 o.win + atByte 12 o.region + atByte 14 o.gen
    + atByte 16 o.daddr + atByte 24 o.dlen + atByte 32 o.entry + atByte 34 o.nent

/-- Operands of COPY. -/
def copySlot (o : CopyOps) : Nat :=
  atByte 8 o.kind + atByte 9 o.portCtx + atByte 10 o.win + atByte 11 (b2n o.tflag) + atByte 12 (o.vflag + o.fctx * 2 ^ 24)
    + atByte 16 o.src + atByte 24 o.dst + atByte 32 o.length + atByte 40 o.tok32

/-- The header and the 64 bytes, as a number, of the slot that carries a command; none for a command that no slot
carries. -/
def slotOfCommand (i : Instr) : Option (HostHdr × Nat) :=
  match i with
  | .nop h => some (h, slotHead 0x01 false h)
  | .fence h m => some (h, slotHead 0x02 false h + atByte 8 m)
  | .patternLoad h x im vs f sl => some (h, slotHead 0x10 false h + atByte 8 x + atByte 16 im + atByte 24 vs + atByte 32 f + atByte 40 sl)
  | .patternUnload h x => some (h, slotHead 0x11 false h + atByte 8 x)
  | .contextStart h x => some (h, slotHead 0x12 false h + atByte 8 x)
  | .contextPreempt h x => some (h, slotHead 0x13 false h + atByte 8 x)
  | .contextResume h x => some (h, slotHead 0x14 false h + atByte 8 x)
  | .contextReset h x => some (h, slotHead 0x15 false h + atByte 8 x)
  | .stepBegin h e n m eta => some (h, slotHead 0x20 false h + atByte 8 e + atByte 16 n + atByte 24 m + atByte 28 eta)
  | .stepCommit h n => some (h, slotHead 0x21 false h + atByte 16 n)
  | .stepAbandon h n => some (h, slotHead 0x22 false h + atByte 16 n)
  | .snapshot h o => some (h, slotHead 0x30 false h + snapSlot o)
  | .copy h o [] => some (h, slotHead 0x40 false h + copySlot o)
  | .fill h d l v => some (h, slotHead 0x41 false h + atByte 16 d + atByte 24 l + atByte 32 v)
  | .flagSet h v c => some (h, slotHead 0x50 false h + atByte 8 (v + c * 2 ^ 24))
  | .flagClear h v c => some (h, slotHead 0x51 false h + atByte 8 (v + c * 2 ^ 24))
  | .flagWait h v c val con t =>
    some (h, slotHead 0x52 false h + atByte 8 (v + c * 2 ^ 24) + atByte 12 (b2n val + 2 * b2n con) + atByte 16 t)
  | .flagWaitCancel h t => some (h, slotHead 0x52 true h + atByte 20 t)
  | .quiesce h => some (h, slotHead 0x60 false h)
  | .resumeAll h => some (h, slotHead 0x61 false h)
  | .linkControl h p c m => some (h, slotHead 0x70 false h + atByte 8 p + atByte 9 c + atByte 10 m)
  | _ => none

end Sys2Proof.Machine
end

