-- ==== Sys2Proof/WellFormed.lean ====
section
/-! DEFINITION. Well-formed commands: every field fits the width that the manual's tables give it. A command that is not
well-formed stands for nothing that can reach the module; `exec` is total on it all the same. -/
namespace Sys2Proof

/-! ### Widths of the operands that many commands share -/

/-- A ring number (R413). -/
def ringOk (n : Nat) : Bool := decide (n < 4)
/-- A stage context (R208). -/
def ctxOk (x : Nat) : Bool := decide (x < 16)
/-- A stage-link port SL0 to SL15 (R307). -/
def portOk (p : Nat) : Bool := decide (p < 16)
/-- A virtual channel (R325). -/
def vcOk (v : Nat) : Bool := decide (v < 16)
/-- A mask over the virtual channels (R325). -/
def vcMaskOk (m : Nat) : Bool := decide (m < 2 ^ 16)
/-- A module ID (R320). -/
def modOk (m : Nat) : Bool := decide (m < 2 ^ 16)
/-- One of the 64 flag contexts (R277). -/
def fctxOk (c : Nat) : Bool := decide (c < 64)
/-- A virtual flag (R294). -/
def vflagOk (v : Nat) : Bool := decide (v < 2 ^ 24)
/-- A step (R37). -/
def stepOk (n : Nat) : Bool := decide (n < 2 ^ 40)
/-- A 64-bit address or length operand (R425). -/
def wideOk (a : Nat) : Bool := decide (a < 2 ^ 64)
/-- A port of the die interface: DP0 to DP4 of the module, and those of guest agents 0x10 to 0x1F (R440). -/
def diePortOk (d : Nat) : Bool := decide (d < 21)
/-- A compute die CD0 to CD3. -/
def dieOk (d : Nat) : Bool := decide (d < 4)
/-- The place of an instruction in a tile program (R248). -/
def progOk (i : Nat) : Bool := decide (i < 2 ^ 16)
/-- A byte address in BAR0 and a length in words that stay inside it (R518). -/
def barOk (off words : Nat) : Bool := decide (off % 4 = 0) && decide (off + 4 * words ≤ 2 ^ 26)

/-! ### Records -/

/-- R37, R38. -/
def Stamp.ok (t : Stamp) : Bool :=
  decide (t.epoch < 2 ^ 16) && stepOk t.step && decide (t.slot < 2 ^ 16) && decide (t.phase < 16)
/-- R416. -/
def HostHdr.ok (h : HostHdr) : Bool := ringOk h.ring && decide (h.tag < 2 ^ 32) && decide (h.sstamp < 2 ^ 16)
/-- R425. -/
def SnapOps.ok (o : SnapOps) : Bool :=
  decide (o.what < 4) && decide (o.dest < 2) && portOk o.port && decide (o.win < 64) && decide (o.region < 1024)
    && decide (o.gen < 4096) && wideOk o.daddr && wideOk o.dlen && decide (o.entry < 1024) && decide (o.nent < 2048)
/-- R425, R428. -/
def CopyOps.ok (o : CopyOps) : Bool :=
  decide (o.kind < 8) && decide (o.portCtx < 16) && decide (o.win < 64) && vflagOk o.vflag && fctxOk o.fctx
    && wideOk o.src && wideOk o.dst && wideOk o.length && decide (o.tok32 < 2 ^ 16)
/-- R79. -/
def TileWords.ok (w : TileWords) : Bool :=
  decide (w.eng < 2) && decide (w.fmtA < 16) && decide (w.fmtB < 16) && decide (w.fmtC < 16) && decide (w.sparse < 8)
    && decide (w.mlog < 8) && decide (w.nlog < 8) && decide (w.kb < 2 ^ 24) && decide (w.ta < 2 ^ 16)
    && decide (w.tb < 2 ^ 16) && decide (w.tc < 2 ^ 16) && decide (w.arrays < 256)
/-- R138. -/
def VecWords.ok (w : VecWords) : Bool :=
  decide (w.fmtA < 16) && decide (w.fmtB < 16) && decide (w.fmtC < 16) && decide (w.units < 16) && decide (w.sub < 256)
    && decide (w.rowlen < 2 ^ 24) && decide (w.cst < 256) && decide (w.ta < 2 ^ 16) && decide (w.tb < 2 ^ 16)
    && decide (w.tc < 2 ^ 16) && decide (w.td < 2 ^ 16)
/-- R287. -/
def FlagWords.ok (w : FlagWords) : Bool :=
  vflagOk w.vflag && fctxOk w.fctx && decide (w.dest < 256) && vcMaskOk w.vcmask
/-- R294. -/
def FlagRec.ok (r : FlagRec) : Bool :=
  decide (r.op < 16) && decide (r.status < 16) && fctxOk r.fctx && vflagOk r.vflag && vcMaskOk r.vcmask
    && decide (r.seq < 2 ^ 16) && decide (r.wtag < 2 ^ 16)
/-- R330. -/
def XferHdr.ok (h : XferHdr) : Bool :=
  decide (h.tkind < 16) && decide (h.win < 256) && decide (h.seq < 2 ^ 16) && decide (h.offset < 2 ^ 40)
    && decide (h.bytes < 2 ^ 32) && ctxOk h.ctx && decide (h.q < 2) && decide (h.count < 2 ^ 16)
/-- R213. -/
def QDesc.ok (d : QDesc) : Bool :=
  d.stamp.ok && decide (d.kind < 16) && decide (d.src < 256) && decide (d.tok32 < 2 ^ 16) && decide (d.texp < 2 ^ 9)
    && decide (d.bytes < 2 ^ 32) && decide (d.buf < 2 ^ 16) && ctxOk d.ctx && decide (d.q < 2)
/-- R187. -/
def BatchHdr.ok (h : BatchHdr) : Bool :=
  h.stamp.ok && decide (h.router < 2 ^ 16) && decide (h.expert < 1024) && decide (h.src < 256) && decide (h.dir < 2)
    && decide (h.count < 2 ^ 21) && decide (h.rowbytes < 2 ^ 24)
/-- R202. -/
def RingHdr.ok (h : RingHdr) : Bool :=
  h.stamp.ok && decide (h.layer < 2 ^ 16) && decide (h.origin < 256) && decide (h.hop < 512) && decide (h.kind < 8)
    && decide (h.tokens < 2 ^ 21)
/-- R238. -/
def GatherHdr.ok (h : GatherHdr) : Bool :=
  h.stamp.ok && decide (h.region < 2 ^ 16) && decide (h.gen < 4096) && decide (h.kind < 16) && decide (h.src < 1024)
    && wideOk h.offset && decide (h.bytes < 2 ^ 32)
/-- R364. -/
def PartialHdr.ok (h : PartialHdr) : Bool :=
  h.stamp.ok && decide (h.bucket < 2 ^ 16) && decide (h.grp < 8) && decide (h.prec < 2) && decide (h.kind < 16)
    && decide (h.src < 1024) && decide (h.owner < 1024) && decide (h.ncontrib < 2 ^ 16) && decide (h.first < 2 ^ 32)
    && decide (h.count < 2 ^ 32) && decide (h.esize < 2 ^ 32)
/-- R442. -/
def IxHdr.ok (h : IxHdr) : Bool :=
  decide (h.cls < 16) && decide (h.sub < 16) && decide (h.srca < 256) && decide (h.dsta < 256) && decide (h.tid < 4096)
    && decide (h.crpool < 16) && decide (h.crcnt < 256) && decide (h.len64 < 256) && decide (h.addr < 2 ^ 40)
    && decide (h.space < 4) && decide (h.ext < 2 ^ 22) && decide (h.mdl < 8)
/-- R471: the dies, arrays and slices that a test names exist. -/
def BootEnv.ok (e : BootEnv) : Bool :=
  e.arrayFail.all (fun f => dieOk f.1 && decide (f.2 < 40)) && e.badSlices.all (fun f => dieOk f.1)
    && [e.dieFail, e.idFail, e.sramFail, e.memFail].all (fun f => match f with | some a => decide (a < 16) | none => true)
/-- R24, R532. -/
def MemPlace.ok (m : MemPlace) : Bool :=
  match m with
  | .hdm a => wideOk a
  | .opbuf d w => dieOk d && decide (w < 2 ^ 32)
  | .staging w => decide (w < 2 ^ 32)
  | .updSram w => decide (w < 2 ^ 32)

/-! ### Commands -/

/-- A command of the host: its header and the rest of its fields. -/
def hostOk (h : HostHdr) (rest : Bool) : Bool := h.ok && rest
/-- An instruction of context `x` at place `idx`, in the phase of the stamp. -/
def instrOk (x : Nat) (st : Stamp) (idx : Nat) (w : Bool) : Bool := ctxOk x && st.ok && progOk idx && w
/-- Byte enables and word count of a register write (R519). -/
def wordsOk (ws : List (Word × Nat)) : Bool := !ws.isEmpty && ws.all fun w => decide (w.2 < 16)

/-- Every field of the command fits its width. -/
def Instr.wellFormed (i : Instr) : Bool :=
  match i with
  | .nop h => hostOk h true
  | .fence h m => hostOk h (decide (m < 16))
  | .patternLoad h x a b c d => hostOk h (ctxOk x && wideOk a && wideOk b && wideOk c && wideOk d)
  | .patternUnload h x => hostOk h (ctxOk x)
  | .contextStart h x => hostOk h (ctxOk x)
  | .contextPreempt h x => hostOk h (ctxOk x)
  | .contextResume h x => hostOk h (ctxOk x)
  | .contextReset h x => hostOk h (ctxOk x)
  | .stepBegin h e n m eta => hostOk h (decide (e < 2 ^ 16) && stepOk n && decide (m < 2 ^ 16) && decide (eta < 2 ^ 32))
  | .stepCommit h n => hostOk h (stepOk n)
  | .stepAbandon h n => hostOk h (stepOk n)
  | .snapshot h o => hostOk h o.ok
  | .copy h o _ => hostOk h o.ok
  | .fill h d l v => hostOk h (wideOk d && wideOk l && decide (v < 2 ^ 32))
  | .flagSet h v c => hostOk h (vflagOk v && fctxOk c)
  | .flagClear h v c => hostOk h (vflagOk v && fctxOk c)
  | .flagWait h v c _ _ t => hostOk h (vflagOk v && fctxOk c && decide (t < 2 ^ 32))
  | .flagWaitCancel h t => hostOk h (decide (t < 2 ^ 32))
  | .quiesce h => hostOk h true
  | .resumeAll h => hostOk h true
  | .linkControl h p c m => hostOk h (portOk p && decide (c < 16) && vcMaskOk m)
  | .submissionSlotAccept r => ringOk r
  | .ringDoorbell r t => ringOk r && decide (t < 4096)
  | .staleSlotReread r => ringOk r
  | .doorbellEarly r => ringOk r
  | .ringEnable r l => ringOk r && decide (l < 16)
  | .ringDisable r => ringOk r
  | .hwgenWrite g => decide (g < 2 ^ 32)
  | .urgentQuiesce => true
  | .urgentResumeAll => true
  | .urgentRingStop r => ringOk r
  | .urgentPreempt x => ctxOk x
  | .urgentReset x => ctxOk x
  | .registerWrite off ws => barOk off ws.length && wordsOk ws
  | .cfgLockSet => true
  | .irqMaskWrite m => decide (m < 2 ^ 16)
  | .glbRstModule k e => decide (k < 2 ^ 32) && e.ok
  | .powerDown k => decide (k < 2 ^ 32)
  | .strEvtArm k _ => decide (k < 16)
  | .strEvtDisarm k _ => decide (k < 16)
  | .strEvtFire k => decide (k < 16)
  | .censusClearAll d _ => dieOk d
  | .censusClearOne d i _ => dieOk d && decide (i < 4096)
  | .flagMapValidate c o => fctxOk c && decide (o < 16)
  | .flagMapInvalidate c => fctxOk c
  | .ownerlostClear c => fctxOk c
  | .directQuery v c => vflagOk v && fctxOk c
  | .directSet v c => vflagOk v && fctxOk c
  | .directClear v c => vflagOk v && fctxOk c
  | .directClearOverrun v c => vflagOk v && fctxOk c
  | .linkEnable p => portOk p
  | .linkDisable p => portOk p
  | .linkRetrain p => portOk p
  | .portReset p => portOk p
  | .committedStepWrite n => stepOk n
  | .updEntryValidate i _ => decide (i < 1024)
  | .updEntryInvalidate i => decide (i < 1024)
  | .residualZero => true
  | .updStatsDataAccess _ => true
  | .clockFloorWrite d f => dieOk d && decide (f < 8)
  | .hdmRead a n => wideOk a && wideOk n
  | .hdmWrite a _ => wideOk a
  | .tmmF x st idx w => instrOk x st idx w.ok
  | .tmmB x st idx w => instrOk x st idx w.ok
  | .tmmW x st idx w => instrOk x st idx w.ok
  | .fset x st idx w => instrOk x st idx w.ok
  | .fclr x st idx w => instrOk x st idx w.ok
  | .fwait x st idx w => instrOk x st idx w.ok
  | .vadd x st idx w => instrOk x st idx w.ok
  | .vsub x st idx w => instrOk x st idx w.ok
  | .vmul x st idx w => instrOk x st idx w.ok
  | .vfma x st idx w => instrOk x st idx w.ok
  | .vdiv x st idx w => instrOk x st idx w.ok
  | .vsqrt x st idx w => instrOk x st idx w.ok
  | .vmin x st idx w => instrOk x st idx w.ok
  | .vmax x st idx w => instrOk x st idx w.ok
  | .vcvt x st idx w => instrOk x st idx w.ok
  | .vfunc x st idx w => instrOk x st idx w.ok
  | .vsum x st idx w => instrOk x st idx w.ok
  | .vmaxr x st idx w => instrOk x st idx w.ok
  | .vlnorm x st idx w => instrOk x st idx w.ok
  | .vrnorm x st idx w => instrOk x st idx w.ok
  | .vsmx x st idx w => instrOk x st idx w.ok
  | .vsmxm x st idx w => instrOk x st idx w.ok
  | .vtopk x st idx w => instrOk x st idx w.ok
  | .vcount x st idx w => instrOk x st idx w.ok
  | .vscan x st idx w => instrOk x st idx w.ok
  | .vgather x st idx w => instrOk x st idx w.ok
  | .vscatter x st idx w => instrOk x st idx w.ok
  | .vialu x st idx w => instrOk x st idx w.ok
  | .vrand x st idx w => instrOk x st idx w.ok
  | .vdrop x st idx w => instrOk x st idx w.ok
  | .instructionComplete x st idx => instrOk x st idx true
  | .arrayCheckFail d p c => dieOk d && decide (p < 40) && decide (c < 16)
  | .spareCheckFail d p c => dieOk d && decide (p < 40) && decide (c < 16)
  | .tempoBlockOrigin x i _ => ctxOk x && progOk i
  | .phaseFStart x => ctxOk x
  | .phaseXStart x st => ctxOk x && st.ok
  | .phaseBStart x => ctxOk x
  | .phaseWStart x n w => ctxOk x && stepOk n && decide (w < 2 ^ 16)
  | .offloadComplete x st => ctxOk x && st.ok
  | .offloadFetchBack x st => ctxOk x && st.ok
  | .fetchBackComplete x st => ctxOk x && st.ok
  | .moeDispatch x r st => ctxOk x && decide (r < 2 ^ 16) && st.ok
  | .moeBatchArrival p x m h ws _ =>
    (match p with | some q => portOk q | none => true) && ctxOk x && modOk m && h.ok && ws.all fun v => decide (v < 2 ^ 32)
  | .ringBlockArrival p x m h _ => portOk p && ctxOk x && modOk m && h.ok
  | .queueEntryArrival p m b c q d _ => portOk p && modOk m && decide (b < 2 ^ 16) && ctxOk c && decide (q < 2) && d.ok
  | .queueCreditReturn p m x q bs =>
    portOk p && modOk m && ctxOk x && decide (q < 2) && bs.all fun b => decide (b < 2 ^ 16)
  | .gatherRequest p m h => portOk p && modOk m && h.ok
  | .gatherResponse p m h _ => portOk p && modOk m && h.ok
  | .windowWrite p v m d h _ => portOk p && vcOk v && modOk m && modOk d && h.ok
  | .transferCommit p v d r => portOk p && vcOk v && (match d with | some q => q.ok | none => true)
      && (match r with | some f => f.ok | none => true)
  | .fenceMarker p v q => portOk p && vcOk v && decide (q < 2 ^ 16)
  | .fencedRecordApply p r => portOk p && r.ok
  | .remoteFlagSet p r => portOk p && r.ok
  | .remoteFlagClear p r => portOk p && r.ok
  | .remoteWaitFor1 p r => portOk p && r.ok
  | .remoteWaitFor0 p r => portOk p && r.ok
  | .remoteWaitCancel p t => portOk p && decide (t < 2 ^ 16)
  | .remoteWake p r => portOk p && r.ok
  | .linkPause p m => portOk p && vcMaskOk m
  | .linkResume p m => portOk p && vcMaskOk m
  | .flitReceive p b _ _ _ => portOk p && decide (b.length = 256)
  | .flitTransmit p => portOk p
  | .replayTimer p => portOk p
  | .deliveryBoundExpiry p => portOk p
  | .creditStall p v => portOk p && vcOk v
  | .laneFail p l => portOk p && decide (l < 5)
  | .retrainTimeout p => portOk p
  | .linkTrainingStart p r i => portOk p && decide (r < 32) && decide (i < 32)
  | .trainingRecordReceived p b => portOk p && decide (b.length = 236)
  | .trainingTimeout p => portOk p
  | .authMessageReceived p _ => portOk p
  | .authTimeout p => portOk p
  | .refclkSlLoss => true
  | .reductionPartialArrival p v m h _ => portOk p && vcOk v && modOk m && h.ok
  | .segmentTimeout g b f n => decide (g < 6) && decide (b < 2 ^ 16) && decide (f < 2 ^ 32) && decide (n < 2)
  | .farCompress b f n => decide (b < 2 ^ 16) && decide (f < 2 ^ 32) && stepOk n
  | .updatePassStart => true
  | .updatePassComplete => true
  | .updateDatapathFault => true
  | .restoreComplete r => decide (r < 1024)
  | .copyComplete h => h.ok
  | .snapshotComplete h => h.ok
  | .contextWaitWarn x => ctxOk x
  | .contextWaitStop x => ctxOk x
  | .hostFlagWaitTimeout h => h.ok
  | .irqHoldoffExpiry v => decide (v < 16)
  | .uncorrectableMemoryError m _ => m.ok
  | .correctedMemoryError m _ => m.ok
  | .iluxaNegotiationRecord d _ => diePortOk d
  | .iluxaNegotiationTimeout d => diePortOk d
  | .iluxaModuleRetrainTimeout d m => diePortOk d && decide (m < 8)
  | .mrd h => h.ok
  | .mrsp h _ => h.ok
  | .mwr h _ => h.ok
  | .mack h => h.ok
  | .iluxaFlag h => h.ok
  | .qent h _ => h.ok
  | .redData h _ => h.ok
  | .redEmptyTileMarker h _ => h.ok
  | .ctlCreditReturn h => h.ok
  | .ctlErrorReport h _ => h.ok
  | .ctlDrainRequest d => diePortOk d
  | .ctlDrainDone h => h.ok
  | .powerOn e => e.ok
  | .powerRemoval c => (match c with | .trip a => decide (a < 16) | _ => true)
  | .bootStepTimeout n => decide (n < 16)
  | .modRstNAssert => true
  | .cxlConventionalReset => true
  | .hostLoss c => decide (c < 16)
  | .flr => true
  | .tempSample a t _ => decide (a < 16) && decide (t < 4096)
  | .thermalTick w v => decide (w < 2 ^ 16) && decide (v < 2 ^ 16)
  | .psAlert => true
  | .clockLevelApply d => dieOk d
  | .bootStatus _ => true
  | .imgBegin _ n => decide (n < 2 ^ 32)
  | .imgData _ o d => decide (o < 2 ^ 32) && decide (d.length < 2 ^ 16)
  | .imgCommit _ => true
  | .imgCommitComplete _ e => e.ok
  | .imgAbort _ => true
  | .imgSessionTimeout => true
  | .moduleReset _ e => e.ok
  | .getVersion _ => true
  | .getCapabilities _ => true
  | .negotiateAlgorithms _ a h => decide (a < 2 ^ 32) && decide (h < 2 ^ 32)
  | .getDigests _ => true
  | .getCertificate _ s o n => decide (s < 16) && decide (o < 2 ^ 16) && decide (n < 2 ^ 16)
  | .challenge _ s n => decide (s < 16) && decide (n < 2 ^ 256)
  | .getMeasurements _ i n => decide (i < 256) && decide (n < 2 ^ 256)
  | .pldmSensorRead n => decide (n < 2 ^ 16)
  | .resetPinRelease _ e => e.ok
  | .registerRead off n => barOk off n && decide (0 < n)

end Sys2Proof
end

