-- ==== Sys2Proof/Safety.lean ====
section
/-! DEFINITION. What counts as a safe run, and the terms statements use: the record a completion writes, what a
completion, an interrupt and the end of a hub cycle may change, and the memory and registers that stay. -/
namespace Sys2Proof
open Machine

/-- A step that goes on. -/
def Safe (s : State) : Prop := ∃ t, Machine.step s = .next t

/-- The memory is in its canonical form: addresses strictly rising, no byte equal to what an unlisted one reads. -/
def Memory.wf (s : State) : Bool := tabWf hdmDefault s.hdm

/-- Memory, registers, flags and the flag-map store are in their canonical form. -/
def TablesOk (s : State) : Prop :=
  Memory.wf s = true ∧ tabWf resetWord s.regs = true ∧ tabWf flagDefault s.flg.flags = true ∧
  tabWf storeDefault s.flg.store = true

/-! ### Completion records -/

/-- The record of a completion (R418): at CQ_TAIL of its ring, with the PHASE of the pass. -/
def recordOf (h : HostHdr) (status result : Nat) (s : State) : Out :=
  .hostWrite (cqBase s (h.ring % 4) + 16 * (s.ring (h.ring % 4)).cqTail)
    (recordBytes h.tag status h.sstamp result (s.ring (h.ring % 4)).phase)

/-- The module runs, the ring of the command is enabled, and host-bound writes are not stopped: a completion writes its
record at once. -/
def Recordable (h : HostHdr) (s : State) : Prop :=
  s.live = true ∧ (s.ring (h.ring % 4)).en = true ∧ s.hif.stopped = false

/-- The record of `h` is the next thing that leaves the module. -/
def Recorded (h : HostHdr) (status result : Nat) (s t : State) : Prop :=
  ∃ rest, t.out = s.out ++ recordOf h status result s :: rest

/-- The bytes of a completion record with a TAG and a STATUS leave somewhere in `l`. -/
def RecordIn (h : HostHdr) (status result : Nat) (l : List Out) : Prop :=
  ∃ a p, .hostWrite a (recordBytes h.tag status h.sstamp result p) ∈ l

/-! ### What stays -/

/-- A record held by a host loss whose ring is still enabled. -/
def keptRec (s : State) (r : HeldRec) : Bool := (s.ring (r.h.ring % 4)).en

/-- Held record `r` as it is written `k` places after CQ_TAIL of its ring, with the PHASE of that place. -/
def releasedRec (s : State) (k : Nat) (r : HeldRec) : Out :=
  let n := r.h.ring % 4
  let a := (s.ring n).cqTail + k
  .hostWrite (cqBase s n + 16 * (a % cqSlots s n)) (recordBytes r.h.tag r.status r.h.sstamp r.result
    ((s.ring n).phase != decide (a / cqSlots s n % 2 = 1)))

/-- A register that no interrupt, record or log entry touches: all but GLB_IRQ_RAW, GLB_ERR_CTL (LOST) and HIF_SQ_SIZE
(DISC_CNT). -/
def quietReg (off : Nat) : Prop := off ≠ oErrCtl ∧ off ≠ oIrqRaw ∧ ∀ n, off ≠ oSqSize n

/-- Every quiet register reads in `t` as in `s`. -/
def Quiet (s t : State) : Prop := ∀ off, quietReg off → regGet t off = regGet s off

/-- In the global block only the error log, the interrupt vectors and the marks of the present hub cycle change. -/
def GlbSide (s t : State) : Prop :=
  t.glb = { s.glb with log := t.glb.log, seq := t.glb.seq, vecs := t.glb.vecs, raised := t.glb.raised, logQ := t.glb.logQ }

/-- In the host interface only completions change: the record position of each ring, the commands that wait for a
record, FENCEs, and what a stop holds back. -/
def HifSide (s t : State) : Prop :=
  t.hif = { s.hif with rings := t.hif.rings, accepted := t.hif.accepted, fences := t.hif.fences, held := t.hif.held,
                       heldIrq := t.hif.heldIrq } ∧
  ∀ n, t.ring n = { s.ring n with cqTail := (t.ring n).cqTail, phase := (t.ring n).phase }

/-- From `s` to `t` nothing changes but what completions, interrupts and the error log change. -/
def HostOnly (s t : State) : Prop :=
  t = { s with regs := t.regs, glb := t.glb, hif := t.hif, out := t.out } ∧ GlbSide s t ∧ HifSide s t ∧ Quiet s t ∧
  ∃ rest, t.out = s.out ++ rest

/-- Ring `m` keeps all but its record position and its PHASE. -/
def RingSame (m : Nat) (s t : State) : Prop :=
  t.ring m = { s.ring m with cqTail := (t.ring m).cqTail, phase := (t.ring m).phase }

/-- Beside what completions change, only ring `n` changes. -/
def OnlyRing (n : Nat) (s t : State) : Prop :=
  HostOnly { s with hif := { s.hif with rings := t.hif.rings } } t ∧ ∀ m, m ≠ n → RingSame m s t

/-- Beside what completions change, only fields of context `x` change. -/
def OnlyCtx (x : Nat) (s t : State) : Prop := HostOnly { s with ctxs := t.ctxs } t ∧ ∀ y, y ≠ x → t.ctx y = s.ctx y

/-- Beside what completions change, only fields of port SLp change. -/
def OnlyPort (p : Nat) (s t : State) : Prop := HostOnly { s with ports := t.ports } t ∧ ∀ r, r ≠ p → t.port r = s.port r

/-- Every register but `off` reads as before, those of interrupts, records and the error log apart. -/
def OnlyReg (off : Nat) (s t : State) : Prop := ∀ o, o ≠ off → quietReg o → regGet t o = regGet s o

/-- Flag `k` holds `f` in `t`, and every other flag what it held in `s`. -/
def FlagBecomes (k : Nat) (f : Flag) (s t : State) : Prop := flagAt t k = f ∧ ∀ j, j ≠ k → flagAt t j = flagAt s j

/-- No context waits in an FWAIT. -/
def NoSeqWait (s : State) : Prop := ∀ x, (s.ctx x).wait = none

/-- No pre-emption, unload, load, quiesce or step command waits to complete or for its turn. -/
def NoJobs (s : State) : Prop :=
  s.hif.ctxJobs = [] ∧ s.hif.quiescing = false ∧ s.upd.stepWait = [] ∧ s.boot.delayedLoads = []

/-- A step command takes effect at once: no STEP_COMMIT waits, nor anything else (R429). -/
def StepTurn (s : State) : Prop := NoJobs s ∧ s.upd.commits = []

/-- The active arrays of every die cover the REQ of the contexts that hold it (R263). -/
def Enough (s : State) : Prop :=
  ∀ d e, e < 2 → sumNat ((holders s d).map fun y => (s.ctx y).need e) ≤ (s.cmp d).active e

/-- The model has its sixteen contexts and its 64 flag contexts. -/
def Sized (s : State) : Prop := s.ctxs.length = 16 ∧ s.flg.maps.length = 64

/-- Every other context than `x` keeps its state. -/
def OtherStates (x : Nat) (s t : State) : Prop := ∀ y, y ≠ x → (t.ctx y).state = (s.ctx y).state

/-- Nothing that has not come whole keeps flits in a receive buffer. -/
def NoStuck (s : State) : Prop := ∀ p, ∀ r ∈ (s.port p).rxPart, r.stuck = 0

/-- No batch for an expert waits for its assembly, no assembled expert input stands, and no flit stays in a receive buffer. -/
def NoBatches (s : State) : Prop := s.stalled = [] ∧ NoStuck s ∧ ∀ x, (s.ctx x).batches = [] ∧ (s.ctx x).experts = []

/-- Nothing that arrived is held or stands in a queue, and no flit stays in a receive buffer. -/
def NoEntries (s : State) : Prop :=
  s.heldArr = [] ∧ NoStuck s ∧ ∀ x, (s.ctx x).aq.entries = [] ∧ (s.ctx x).gq.entries = []

/-- No entry that a context has produced waits for a queue credit. -/
def NoOutgoing (s : State) : Prop := ∀ x, (s.ctx x).outgoing = []

/-- No wait is held on flag `k`. -/
def NoWaitOn (k : Nat) (s : State) : Prop := ∀ w ∈ s.flg.waits, w.key ≠ k

/-- Every byte of memory outside `n` bytes from `a` reads as before. -/
def MemoryOutside (a n : Nat) (s t : State) : Prop := ∀ b, b < a ∨ a + n ≤ b → memByte t b = memByte s b

/-! ### Instructions of a sequencer -/

/-- The command that issues a tile or vector instruction of context `x`. -/
def seqRow (x : Nat) (st : Stamp) (idx : Nat) : Work → Option Instr
  | .tile 1 w => some (.tmmF x st idx w)
  | .tile 2 w => some (.tmmB x st idx w)
  | .tile 3 w => some (.tmmW x st idx w)
  | .vec 0x80 w => some (.vadd x st idx w)
  | .vec 0x81 w => some (.vsub x st idx w)
  | .vec 0x82 w => some (.vmul x st idx w)
  | .vec 0x83 w => some (.vfma x st idx w)
  | .vec 0x84 w => some (.vdiv x st idx w)
  | .vec 0x85 w => some (.vsqrt x st idx w)
  | .vec 0x86 w => some (.vmin x st idx w)
  | .vec 0x87 w => some (.vmax x st idx w)
  | .vec 0x88 w => some (.vcvt x st idx w)
  | .vec 0x89 w => some (.vfunc x st idx w)
  | .vec 0x90 w => some (.vsum x st idx w)
  | .vec 0x91 w => some (.vmaxr x st idx w)
  | .vec 0x92 w => some (.vlnorm x st idx w)
  | .vec 0x93 w => some (.vrnorm x st idx w)
  | .vec 0x94 w => some (.vsmx x st idx w)
  | .vec 0x95 w => some (.vsmxm x st idx w)
  | .vec 0xA0 w => some (.vtopk x st idx w)
  | .vec 0xA1 w => some (.vcount x st idx w)
  | .vec 0xA2 w => some (.vscan x st idx w)
  | .vec 0xA3 w => some (.vgather x st idx w)
  | .vec 0xA4 w => some (.vscatter x st idx w)
  | .vec 0xA8 w => some (.vialu x st idx w)
  | .vec 0xB0 w => some (.vrand x st idx w)
  | .vec 0xB1 w => some (.vdrop x st idx w)
  | _ => none

/-- The state in which instruction `i` has joined the issued ones of `x`. -/
def issuedAs (x : Nat) (i : Issued) (s : State) : State :=
  modCtx x (fun c => { c with issued := c.issued ++ [i] }) (tempoIssued x i.idx i.stamp (beginCycle s))

/-- Instruction `i`, issued last, starts in the hub cycle in which it is issued. -/
def startsNow (x : Nat) (i : Issued) (s : State) : Bool :=
  mayStart (issuedAs x i s) ((issuedAs x i s).ctx x) (s.ctx x).issued i && inputsThere (issuedAs x i s) x i.work i.stamp

/-- The state in which `i` reads its operands: the uses it reads have ended, poisoned integer elements are counted, and what a
stored pair needs is kept. -/
def atStart (x : Nat) (i : Issued) (s : State) : State :=
  keepOperand x i.stamp i (countPoisoned x i (i.work.reads.foldl (fun s t => endUse x t s) (issuedAs x i s)))

/-- The phase of a slot goes on after one more of its instructions. -/
def GoesOn (s : State) (x : Nat) (st : Stamp) : Prop :=
  st.phase ≠ phW ∧ ∃ w, slotRec? s x st = some w ∧
    (w.done.filter fun d => d.1 == st.phase).length + 1 < ((s.ctx x).phaseList st.phase).length

/-! ### Ports -/

/-- Port `p` has entered DOWN with a cause; a port that was not DOWN has lost its flits, what it had begun to send or receive,
and its credits, and CHANGED is set. Every other port keeps its state. -/
def PortDown (p cause : Nat) (s t : State) : Prop :=
  (t.port p).state = .down ∧ (t.port p).cause = cause ∧ (∀ r, r ≠ p → (t.port r).state = (s.port r).state) ∧
  ((s.port p).state ≠ .down → (t.port p).retry = [] ∧ (∀ x ∈ (t.port p).tx, x.sent = 0) ∧ (t.port p).rxPart = [] ∧
    (t.port p).avail = List.replicate 16 0 ∧ fld t (oLnk p 4) 5 1 = 1)

/-- A flit of port `p` with a header and a body is the next thing that leaves the module. -/
def Sent (p : Nat) (f : FlitHdr → Prop) (body : List Byte) (s t : State) : Prop :=
  ∃ h rest, f h ∧ t.out = s.out ++ .flit p (flitBytes (flitHdrBytes h) body) :: rest

/-- A flit of 256 bytes with a good CRC. -/
def FlitGood (bytes : List Byte) : Prop := bytes.length = 256 ∧ leAt bytes 252 4 = crc32 (bytes.take 252)

/-! ### Reduction and update -/

/-- A reduction partial of a group other than the far one that R331, R47 and R365 let in, with its values. -/
def PartialFits (s : State) (p vc m : Nat) (h : PartialHdr) (data : List Byte) (bk : Bucket) (vals : List RVal) : Prop :=
  (s.port p).carrying = true ∧ windowOk s p (grpWin s h.grp) 5 vc m 0 (64 + roundUp data.length 64) = true ∧
  verdict s h.stamp = .accept ∧ h.resv = false ∧ h.grp ≤ 5 ∧ isFar s h.grp = false ∧ h.kind ≤ 1 ∧ h.ncontrib ≠ 0 ∧
  h.stamp.slot = 0xFFFF ∧ h.stamp.phase = phReduce ∧ bucketOf s h.grp h.bucket = some bk ∧ bk.prec = h.prec ∧
  bk.elems = h.esize ∧ memberMod s h.grp h.src = some m ∧ h.owner < grpSize s h.grp ∧ firstOk s h bk = true ∧
  partialVals s h (segCount bk.elems (segElems s bk.grp) h.first) data = some vals ∧
  s.red.closed.contains (h.grp, h.stamp.step) = false

/-- `q` is the one slot of a segment. -/
def OnlySeg (s : State) (g b n first : Nat) (q : Seg) : Prop := s.red.segs.filter (Seg.isAt g b n first) = [q]

/-- Word 0 of update entry `i` is written with VALID = 1. -/
def entryWritten (i : Nat) (w0 : Word) (s : State) : State :=
  regPut (oEntry i 0) (writeFields s.locked (oEntry i 0) 0xFFFFFFFF (w0.toNat / 2 * 2 + 1)
    (tabGet resetWord s.regs (oEntry i 0))).toNat (beginCycle s)

/-! ### Registers, resets and messages -/

/-- Registers whose write does nothing but store: no command, no state elsewhere, no condition of a ring. -/
def plainReg (off : Nat) : Bool :=
  match blockOf off with
  | (.glb, _, r) => r != 0x020 && r != 0x044 && r != 0x048 && !(decide (0x080 ≤ r) && decide (r < 0x100))
  | (.hif, _, r) => decide (0x200 ≤ r) && r != 0x400 && r != 0x800 && r != 0x804
  | (.lnk, _, r) => r != 0 && !(decide (0x100 ≤ r) && decide (r < 0x140)) && !(decide (0x400 ≤ r) && decide (r < 0x800))
  | (.red, _, _) => true
  | (.flg, _, r) => decide (0x200 ≤ r) && r != 0x408 && r != 0x40C && r != 0x504 && r != 0x508 && r != 0x1000
      && !(decide (0x8000 ≤ r) && decide (r < 0x10000))
  | (.str, _, r) => !(decide (0x100 ≤ r) && decide (r < 0x200))
  | (.ant, _, _) => true
  | (.upd, _, r) => r != 8 && r != 0xC && r != 0x50 && r != 0x74 && !(decide (0x1000 ≤ r) && decide (r < 0x9000))
  | (.pwr, _, r) => !(decide (0x30 ≤ r) && decide (r < 0x48))
  | (.cmp, _, r) => r != 0x100 && r != 0x300 && !(decide (0x10000 ≤ r) && decide (r < 0x90000))
  | (.bse, _, _) => true
  | (.reserved, _, _) => false

/-- Bit of a field after a write (R10, R520): `en` its byte is enabled, `v` the written bit, `old` the bit before. -/
def bitWritten (locked : Bool) (acc : Access) (en v old : Bool) : Bool :=
  match acc with
  | .rw => if en then v else old
  | .rwl => if en && !locked then v else old
  | .w1c => old && !(en && v)
  | .w1s => old || (en && v)
  | .ro => old
  | .rc => old

/-- The error log has taken an entry of an event with an ARG into a slot that was free. -/
def Logged (event arg : Nat) (s t : State) : Prop :=
  ∃ i e, nth none s.glb.log i = none ∧ nth none t.glb.log i = some e ∧ e.event = event ∧ e.arg = arg

/-- The message of `b` bytes is the next thing that leaves the module on transport `tr`. -/
def Answered (tr : Transport) (b : List Byte) (s t : State) : Prop := ∃ rest, t.out = s.out ++ .mctp tr b :: rest

/-- The state with the image in the flash taken. -/
def imaged (s : State) : State := { s with boot := { s.boot with image := some (imageOf (cfgImage s.boot.flash)) } }

/-- What the boot sequence of a kind ends in, from state `s`: in hold with the step and the cause of the first failure, else
READY with the image, its fuse requests done, every port between two Olienuk dies up, and ports with EN = 1 in TRAINING; memory
and contexts stay as the boot found them. (Register defaults act as host writes, so what follows step 11 asks for none.) -/
def BootEnds (kind : Nat) (env : BootEnv) (s t : State) : Prop :=
  (∀ k c, earlyFault env s = some (k, c) → t.boot.hold = true ∧ t.boot.ready = false ∧ t.boot.step = k ∧ t.boot.cause = c ∧
    t.boot.fuses = s.boot.fuses ∧ fld t oRstCause 0 4 = kind % 16 ∧ t.hdm = s.hdm ∧ t.ctxs = s.ctxs) ∧
  (∀ k c d, earlyFault env s = none → lateFault env (imaged s) = some (k, c, d) → (11 < k → cfgDefaults (cfgImage s.boot.flash) = []) →
    t.boot.hold = true ∧ t.boot.ready = false ∧ t.boot.step = k ∧ t.boot.cause = c ∧ t.boot.dieCode = d ∧
    fld t oRstCause 0 4 = kind % 16 ∧ t.hdm = s.hdm ∧ t.ctxs = s.ctxs) ∧
  (earlyFault env s = none → lateFault env (imaged s) = none → cfgDefaults (cfgImage s.boot.flash) = [] →
    t.boot.ready = true ∧ t.boot.hold = false ∧ t.boot.step = 13 ∧ t.boot.image = (imaged s).boot.image ∧
    applyFuses (cfgImage s.boot.flash) s.boot.fuses = some t.boot.fuses ∧ fld t oRstCause 0 4 = kind % 16 ∧
    (∀ k, k < 5 → k < s.dies.length → (t.die k).up = true) ∧
    (∀ p, p < 16 → p < s.ports.length → (s.port p).state = .down → fld t (oLnk p 0) 0 1 = 1 → (t.port p).state = .training) ∧
    t.hdm = s.hdm ∧ t.ctxs = s.ctxs)

/-- The rails are removed: PG_CORE is low, PS_FAULT_N low unless the removal was asked for, the controller keeps the cause, and
nothing else but flash and fuses outlives it. -/
def RailsGone (code agent : Nat) (s t : State) : Prop :=
  t.pwr.powered = false ∧ t.pwr.lastFault = code ∧ t.pwr.tripAgent = agent ∧ t.boot.ready = false ∧ t.boot.hold = false ∧
  t.pwr.pgCore = false ∧ t.pwr.psFaultLow = decide (code < 7) ∧ t.pwr.vinOk = decide (2 < code) ∧
  t.hdm = [] ∧ t.ctxs = List.replicate 16 Ctx.none ∧ (∀ off, regGet t off = (resetWord off).toNat) ∧
  t.boot.fuses = s.boot.fuses ∧ ((∀ q, s.boot.session = some q → q.committing = false) → t.boot.flash = s.boot.flash)

/-- Die port `k` fails: between two Olienuk dies it stops the running module (R439) or ends the boot (R473); a guest port fails
alone (R458). -/
def PortFails (k : Nat) (s t : State) : Prop :=
  (t.die k).up = false ∧ (t.die k).failed = true ∧ (∀ j, j ≠ k → t.die j = s.die j) ∧
  (k < 5 → s.boot.ready = true → t.glb.dieFail = true ∧ t.hif.stopped = true ∧ fld t oIrqRaw 1 1 = 1 ∧ t.hdm = s.hdm ∧
    ∀ x, (t.ctx x).state =
      if (s.ctx x).state = .running ∨ (s.ctx x).state = .preempted then .stopped else (s.ctx x).state) ∧
  (k < 5 → s.boot.ready = false → s.boot.hold = false → t.boot.hold = true ∧ t.boot.step = 8 ∧ t.boot.cause = 0x0A ∧
    t.boot.dieCode = portAgent k) ∧
  (5 ≤ k → (t.die k).openReqs = [] ∧ HostOnly { s with dies := t.dies, flg := { s.flg with waits := t.flg.waits } } t)

/-- Message `h` of a class, with its data, can act: its ports are up, it breaks no rule of the die interface, and it returns no
credits. -/
def Comes (cls : Nat) (h : IxHdr) (data : List Byte) (s : State) : Prop :=
  pathUp s { h with cls := cls } = true ∧ breaks s { h with cls := cls } data = false ∧ h.crcnt = 0

/-- The completion `g` that answers message `h`, with the credits its port owes, those of `h` among them (R445), as it leaves with its
data. -/
def replyOut (h g : IxHdr) (data : List Byte) (s : State) : Out :=
  let r := replyHdr (oweCredits h s) g
  .ix r.mdl (ixHdrBytes r ++ data)

/-- A wait that agent `a` holds under a tag. -/
def dieWait (a tag : Nat) (w : Wait) : Bool := match w.who with | .die b n _ => b == a && n == tag | _ => false

/-- Beside what completions change, only die port `k` changes. -/
def OnlyDie (k : Nat) (s t : State) : Prop := HostOnly { s with dies := t.dies } t ∧ ∀ j, j ≠ k → t.die j = s.die j

end Sys2Proof
end

