-- ==== Sys2Proof/Certificates/Slice0/Obligations.lean ====
section
/-! DEFINITION. The statements about the module, one `Obligations.<Name>` each. -/
open Sys2Proof Sys2Proof.Machine

/-! ### The block as a whole -/

/-- A step runs the command at the front of the queue with the rest of the queue. Readings of the model it rests on:
log 107. -/
def Obligations.StepRunsFront : Prop :=
  ∀ (c : Instr) (rest : List Instr) (s : State),
    Machine.step { s with pending := c :: rest } = Machine.exec c { s with pending := rest }

/-- On an empty queue the module idles: eight hub cycles of 0.625 ns pass in GLB_TIME while it has power (the model's
choice, log 1), and nothing else changes. -/
def Obligations.IdleAdvancesTime : Prop :=
  ∀ s : State, s.pending = [] →
    Machine.step s = .next { s with glb := { s.glb with
      time := if s.pwr.powered then (s.glb.time + 5) % 2 ^ 64 else s.glb.time } }

/-- Every step keeps memory, registers, flags and the flag-map store in their canonical form. -/
def Obligations.TablesStayCanonical : Prop :=
  ∀ s t : State, TablesOk s → Machine.step s = .next t → TablesOk t

/-- At reset every register reads its Reset value, the tables are empty, no ring is enabled, no context is loaded,
STR_NOW is zero, and the module is not READY; and a module that is not READY takes no command of the host. Readings of
the model it rests on: logs 0, 2, 3, 113. -/
def Obligations.ResetValues : Prop :=
  TablesOk State.reset ∧ (∀ off, regGet State.reset off = (resetWord off).toNat) ∧ (∀ n, (State.reset.ring n).en = false) ∧
  (∀ x, (State.reset.ctx x).state = .empty) ∧ (∀ p, (State.reset.port p).state = .down) ∧ State.reset.live = false ∧
  State.reset.str.now = ⟨0, 0, 0, 0⟩ ∧ State.reset.c = 0 ∧ (∀ k, flagAt State.reset k = ⟨false, 0⟩) ∧ State.reset.hdm = [] ∧
  State.reset.bias = [] ∧ State.reset.stalled = [] ∧ State.reset.poison = [] ∧ State.reset.sramPoison = [] ∧ State.reset.pending = [] ∧
  ∀ (h : HostHdr) (x m a n : Nat) (d : List Byte) (o : CopyOps) (s : State), s.live = false →
    ∀ i ∈ [Instr.nop h, .fence h m, .contextStart h x, .contextReset h x, .stepBegin h a n m x, .stepCommit h n, .fill h a n m,
      .copy h o d, .flagSet h a x, .quiesce h, .submissionSlotAccept x, .ringDoorbell x m, .hdmWrite a d, .updatePassStart],
      Machine.exec i s = .next s

/-- Until READY = 1, reads of the global block return their values and every other read of BAR0 returns 0, writes of
BAR0 are dropped, reads of the HDM window return zeros and writes of it are dropped. -/
def Obligations.BeforeReady : Prop :=
  ∀ s : State, s.awake = true → s.boot.ready = false →
    (∀ off, off % 4 = 0 → off < 0x100000 → ∃ t rest, Machine.exec (.registerRead off 1) s = .next t ∧
      t.out = s.out ++ .regData off [if isLatched off then tabGet latchReset s.latches off
        else BitVec.ofNat 32 (liveWord s off)] :: rest) ∧
    (∀ off, off % 4 = 0 → 0x100000 ≤ off → off < barEnd → ∃ t rest, Machine.exec (.registerRead off 1) s = .next t ∧
      t.out = s.out ++ .regData off [0] :: rest ∧ HostOnly s t) ∧
    (∀ off l, Machine.exec (.registerWrite off l) s = .next s) ∧
    (∀ a n, a + n ≤ 2 ^ 40 → ∃ t rest, Machine.exec (.hdmRead a n) s = .next t ∧
      t.out = s.out ++ .hdmData a (List.replicate n 0) false :: rest ∧ HostOnly s t) ∧
    (∀ a d, Machine.exec (.hdmWrite a d) s = .next s)

/-! ### Slots and records as bytes -/

/-- Every host command, written into a slot as R416 and R425 lay it out, is read back as that command with its header.
Stamps, flag records, transfer headers, queue descriptors, batch headers and ring headers are read back from the bytes
they are written as. -/
def Obligations.HostSlotsAndLinkRecordsRoundTrip : Prop :=
  (∀ (i : Instr) (h : HostHdr) (v : Nat), slotOfCommand i = some (h, v) → i.wellFormed = true →
    slotCommand v h = some i ∧ (⟨h.ring, bits v 32 32, bits v 16 16, bit v 8⟩ : HostHdr) = h) ∧
  ((∀ t : Stamp, t.ok = true → unpackStamp (packStamp t) = t) ∧
  (∀ r : FlagRec, r.ok = true → recOf (recBytes r) = r) ∧
  (∀ h : XferHdr, h.ok = true → h.resv = false → xferOf (xferBytes h) = h) ∧
  (∀ d : QDesc, d.ok = true → d.src = 0 → descOf (descBytes d) = d) ∧
  (∀ h : BatchHdr, h.ok = true → batchHdrOf (batchHdrBytes h) = h) ∧
  (∀ h : RingHdr, h.ok = true → ringHdrOf (ringHdrBytes h) = h))

/-! ### Completion records, interrupts, rings -/

/-- NOP completes OK: its record is the next host-bound write, at CQ_BASE + 16 × CQ_TAIL; with no FENCE waiting
CQ_TAIL then advances, PHASE inverts at the wrap, and the command is no longer outstanding. Nothing but completions
changes. -/
def Obligations.NopCompletes : Prop :=
  ∀ (h : HostHdr) (s : State), Recordable h s →
    ∃ t, Machine.exec (.nop h) s = .next t ∧ HostOnly s t ∧ Recorded h stOk (low64 s.str.now) s t ∧
      (s.hif.fences = [] → s.hif.rings.length = 4 →
        t.hif.accepted = dropFirst (· == h) s.hif.accepted ∧
        t.ring (h.ring % 4) = { s.ring (h.ring % 4) with
          cqTail := if (s.ring (h.ring % 4)).cqTail + 1 ≥ cqSlots s (h.ring % 4) then 0 else (s.ring (h.ring % 4)).cqTail + 1,
          phase := if (s.ring (h.ring % 4)).cqTail + 1 ≥ cqSlots s (h.ring % 4) then !(s.ring (h.ring % 4)).phase
            else (s.ring (h.ring % 4)).phase })

/-- A record of a command with IRQ = 1 raises vector 0: RAW bit 0 is set, and with the vector unmasked in GLB_IRQ_MASK
and in the MSI-X table and the holdoff elapsed, the message leaves right after the record; a vector masked in the
MSI-X table waits. A command that completes on a disabled ring writes no record and adds 1 to DISC_CNT. A cleared mask
bit sends the message of a vector whose RAW bit is set; the end of a holdoff sends the one message that it deferred.
Readings of the model it rests on: logs 69, 122. -/
def Obligations.RecordsAndInterruptsFollow : Prop :=
  (∀ (h : HostHdr) (s : State), Recordable h s → TablesOk s → h.irq = true → s.hif.fences = [] →
    bit (fld s oIrqMask 0 16) 0 = false → 0 < s.glb.vecs.length →
    ((s.vec 0).masked = false → holdoffOver s 0 = true → ∃ t, Machine.exec (.nop h) s = .next t ∧
      t.out = s.out ++ [recordOf h stOk (low64 s.str.now) s, .msix 0] ∧ fld t oIrqRaw 0 1 = 1) ∧
    ((s.vec 0).masked = true → ∃ t, Machine.exec (.nop h) s = .next t ∧
      t.out = s.out ++ [recordOf h stOk (low64 s.str.now) s] ∧ fld t oIrqRaw 0 1 = 1 ∧ (t.vec 0).waiting = true)) ∧
  (∀ (h : HostHdr) (s : State), s.live = true → TablesOk s → (s.ring (h.ring % 4)).en = false → s.hif.fences = [] →
    ∃ t, Machine.exec (.nop h) s = .next t ∧ t.out = s.out ∧
      fld t (oSqSize (h.ring % 4)) 16 8 = min 255 (fld s (oSqSize (h.ring % 4)) 16 8 + 1)) ∧
  (∀ s : State, s.live = true → TablesOk s → s.hif.stopped = false →
    (∀ mask, mask < 2 ^ 16 → ∃ t rest, Machine.exec (.irqMaskWrite mask) s = .next t ∧ fld t oIrqMask 0 16 = mask ∧
      OnlyReg oIrqMask s t ∧ HostOnly { s with regs := t.regs } t ∧ t.out = s.out ++ rest ∧
      (∀ v, v < 16 → bit (fld s oIrqMask 0 16) v = true → bit mask v = false → bit (fld s oIrqRaw 0 16) v = true →
        (s.vec v).masked = false → holdoffOver s v = true → .msix v ∈ rest) ∧
      (s.hif.fences = [] → (∀ v, v < 16 → bit (fld s oIrqMask 0 16) v = true → bit (fld s oIrqRaw 0 16) v = true →
        bit mask v = true) → rest = [])) ∧
    (∀ v, bit (fld s oIrqMask 0 16) v = false →
      ((s.vec v).deferred = true → (s.vec v).masked = false → ∃ t rest, Machine.exec (.irqHoldoffExpiry v) s = .next t ∧
        HostOnly s t ∧ t.out = s.out ++ rest ∧ .msix v ∈ rest ∧
        (s.hif.fences = [] → (t.vec v).deferred = false ∧ rest = [.msix v])) ∧
      ((s.vec v).deferred = false → ∃ t, Machine.exec (.irqHoldoffExpiry v) s = .next t ∧ HostOnly s t)))

/-- A FENCE completes at once when nothing accepted before it on its ring and on the rings of RMASK is outstanding;
else it waits, and while it waits its ring accepts no further slot. -/
def Obligations.FenceHoldsItsRing : Prop :=
  (∀ (h : HostHdr) (m : Nat) (s : State), Recordable h s → s.hif.fences = [] →
    (∀ a ∈ s.hif.accepted, a ≠ h → a.ring ≠ h.ring ∧ bit m a.ring = false) →
    ∃ t, Machine.exec (.fence h m) s = .next t ∧ HostOnly s t ∧ Recorded h stOk (low64 s.str.now) s t ∧
      t.hif.fences = []) ∧
  (∀ (h : HostHdr) (m : Nat) (s : State) (a : HostHdr), s.live = true → s.hif.fences = [] → a ∈ s.hif.accepted →
    a ≠ h → (a.ring = h.ring ∨ bit m a.ring = true) →
    ∃ t, Machine.exec (.fence h m) s = .next t ∧ HostOnly s t ∧ t.out = s.out ∧ t.hif.accepted = s.hif.accepted ∧
      ∃ u, Machine.exec (.submissionSlotAccept h.ring) t = .next u ∧ HostOnly s u ∧ u.out = s.out ∧
        (u.ring h.ring).head = (s.ring h.ring).head)

/-- A write of HIF_SQ_TAIL of an enabled ring is a doorbell: reading goes on at HEAD, which stays. EN = 1 enables a
ring whose configuration R414 allows: HEAD, TAIL, CQ_HEAD and CQ_TAIL 0, EXPSTAMP 0x0001, PHASE 1; otherwise EN stays
0 and CFG_ERR is set. EN = 0, written to HIF_SQ_SIZE or by the urgent page, stops slot reads on the ring at once;
accepted commands go on. Readings of the model it rests on: log 76. -/
def Obligations.RingsStartAndStop : Prop :=
  (∀ (n tail : Nat) (s : State), s.live = true → n < s.hif.rings.length → tail < 4096 →
    ∃ t, Machine.exec (.ringDoorbell n tail) s = .next t ∧ OnlyRing n s t ∧ (t.ring n).tail = tail ∧
      (t.ring n).head = (s.ring n).head ∧ (t.ring n).expstamp = (s.ring n).expstamp ∧ (t.ring n).en = (s.ring n).en ∧
      ((s.ring n).en = true → (t.ring n).stopped = false ∧ (t.ring n).stale = none) ∧
      ((s.ring n).en = false → (t.ring n).stopped = (s.ring n).stopped ∧ (t.ring n).stale = (s.ring n).stale)) ∧
  (∀ (n slog : Nat) (s : State), s.live = true → TablesOk s → n < 4 → s.hif.rings.length = 4 → slog < 16 →
    s.hif.fences = [] → (s.ring n).en = false →
    ∃ t, Machine.exec (.ringEnable n slog) s = .next t ∧ fld t (oSqSize n) 0 4 = slog ∧
      (sqBase s n + 64 * (16 * 2 ^ slog) ≤ fastTop ∧ slog ≤ 8 ∧ fld s (oCqSize n) 0 4 ≤ 12 ∧ outst s n = 0 →
        t.ring n = { Ring.reset with en := true, expstamp := 1, phase := true } ∧ t.out = s.out) ∧
      (¬ (sqBase s n + 64 * (16 * 2 ^ slog) ≤ fastTop ∧ slog ≤ 8 ∧ fld s (oCqSize n) 0 4 ≤ 12 ∧ outst s n = 0) →
        (t.ring n).en = false ∧ fld t (oSqSize n) 30 1 = 1 ∧ t.out = s.out)) ∧
  (∀ (n : Nat) (s : State), s.live = true → n < 4 → s.hif.rings.length = 4 → s.hif.fences = [] →
    ∃ t u, Machine.exec (.ringDisable n) s = .next t ∧ Machine.exec (.urgentRingStop n) s = .next u ∧
      OnlyRing n s t ∧ t.hif.accepted = s.hif.accepted ∧ u.hif.accepted = s.hif.accepted ∧
      (t.ring n).en = false ∧ (u.ring n).en = false ∧ (t.ring n).head = (s.ring n).head ∧ (u.ring n).head = (s.ring n).head ∧
      (∀ m, m ≠ n → RingSame m s u) ∧ ringReads t n = false ∧ ringReads u n = false ∧
      u.hif.urgCount = (s.hif.urgCount + 1) % 2 ^ 16)

/-- A new slot is accepted once: HEAD and EXPSTAMP advance, and it produces its record; a slot that R423 refuses
completes with REFUSED_FORMAT and has no other effect, and a NOP completes OK. A slot found stale before is accepted
as a later read finds it new. A stale slot is not accepted: the first read starts the re-reads, and when RETRY_NS has
passed, or at once with RETRY_NS = 0, a DOORBELL_EARLY record with TAG 0, the stamp expected and the slot index is
written, HEAD stays, and reading stops until the next doorbell. Readings of the model it rests on: log 64. -/
def Obligations.SlotsAreRead : Prop :=
  (∀ (n : Nat) (s : State) (h : HostHdr), s.live = true → s.hif.rings.length = 4 → ringReads s n = true →
    slotNew s n = true → s.hif.stopped = false →
    h = ⟨n, bits (slotWord s n) 32 32, bits (slotWord s n) 16 16, bit (slotWord s n) 8⟩ →
    (slotCommand (slotWord s n) h = none ∨ slotCommand (slotWord s n) h = some (.nop h)) →
    (∃ t, Machine.exec (.submissionSlotAccept n) s = .next t ∧ OnlyRing n s t ∧
      (t.ring n).head = ((s.ring n).head + 1) % sqSlots s n ∧ (t.ring n).expstamp = ((s.ring n).expstamp + 1) % 2 ^ 16 ∧
      (t.ring n).en = true ∧
      Recorded h (if slotCommand (slotWord s n) h = none then stFormat else stOk) (low64 s.str.now) s t) ∧
    ((s.ring n).stale.isSome = true → ∃ t, Machine.exec (.staleSlotReread n) s = .next t ∧ OnlyRing n s t ∧
      (t.ring n).head = ((s.ring n).head + 1) % sqSlots s n ∧ (t.ring n).stale = none ∧
      Recorded h (if slotCommand (slotWord s n) h = none then stFormat else stOk) (low64 s.str.now) s t)) ∧
  (∀ (n : Nat) (s : State), s.live = true → s.hif.rings.length = 4 → ringReads s n = true → slotNew s n = false →
    s.hif.stopped = false →
    (fld s oRetry 0 16 ≠ 0 → (s.ring n).stale = none → ∃ t, Machine.exec (.submissionSlotAccept n) s = .next t ∧
      OnlyRing n s t ∧ (t.ring n).head = (s.ring n).head ∧ (t.ring n).stale = some s.glb.time ∧ (t.ring n).stopped = false) ∧
    (fld s oRetry 0 16 = 0 → ∃ t, Machine.exec (.submissionSlotAccept n) s = .next t ∧ OnlyRing n s t ∧
      (t.ring n).head = (s.ring n).head ∧ (t.ring n).expstamp = (s.ring n).expstamp ∧ (t.ring n).stopped = true ∧
      Recorded ⟨n, 0, (s.ring n).expstamp, false⟩ stEarly (s.ring n).head s t) ∧
    ((s.ring n).stale.isSome = true → ∃ t, Machine.exec (.doorbellEarly n) s = .next t ∧ OnlyRing n s t ∧
      (t.ring n).head = (s.ring n).head ∧ (t.ring n).expstamp = (s.ring n).expstamp ∧ (t.ring n).stopped = true ∧
      Recorded ⟨n, 0, (s.ring n).expstamp, false⟩ stEarly (s.ring n).head s t))

/-- A host loss stops host-bound writes in one hub cycle: STOPPED, LOST and CAUSE are set, the MSI-X table is masked,
the loss is logged, and a COPY to the host ends with HOST_LOST, its record held. A new GEN ends the stop, unless a die
port has failed: the held records of the rings still enabled are written in the order of completion, each at the next
place of its ring, then the held messages go. A FLR resets the host interface: its registers, the rings, what a stop
held, the MSI-X table; host waits end, the host's flag contexts are poisoned, and memory and contexts go on. Readings
of the model it rests on: logs 15, 67, 69. -/
def Obligations.HostLossAndFunctionResetAct : Prop :=
  ((∀ (cause : Nat) (s : State), s.live = true → TablesOk s → NoJobs s → cause = 1 ∨ cause = 2 →
    (hostBound s = [] → ∃ t, Machine.exec (.hostLoss cause) s = .next t ∧
      HostOnly { s with regs := t.regs, hif := { s.hif with stopped := true, lossCause := cause } } t ∧
      (∀ v, (t.vec v).masked = true) ∧
      t.out = s.out ∧ fld t oHostLoss 3 1 = 1 ∧ fld t oHostLoss 16 16 = fld s oHostLoss 16 16 ∧
      (∀ o, o ≠ oHostLoss → o ≠ oRstCause → quietReg o → regGet t o = regGet s o) ∧
      (none ∈ s.glb.log → Logged 0x1B cause s t)) ∧
    (∀ j, s.hif.copies = [j] → j.o.kind = 2 → s.upd.snaps = [] → (s.ring (j.h.ring % 4)).en = true →
      ∃ t, Machine.exec (.hostLoss cause) s = .next t ∧ t.hif.stopped = true ∧ t.hif.copies = [] ∧ t.out = s.out ∧
        ⟨j.h, stHostLost, low64 s.str.now⟩ ∈ t.hif.held ∧ t.hdm = s.hdm ∧ t.ctxs = s.ctxs)) ∧
  (∀ (g : Nat) (s : State), s.live = true → g < 2 ^ 16 →
    (s.hif.stopped = true → g ≠ s.hif.gen → s.glb.dieFail = false → ∃ t recs rest, Machine.exec (.hwgenWrite g) s = .next t ∧
      t.hif.stopped = false ∧ t.hif.gen = g ∧ t.hif.held = [] ∧ t.hdm = s.hdm ∧ t.ctxs = s.ctxs ∧
      (∀ v, v < s.glb.vecs.length → (t.vec v).masked = false) ∧ t.out = s.out ++ recs ++ rest ∧
      recs.length = (s.hif.held.filter (keptRec s)).length ∧
      (∀ i r, (s.hif.held.filter (keptRec s))[i]? = some r → (s.ring (r.h.ring % 4)).cqTail < cqSlots s (r.h.ring % 4) →
        recs[i]? = some (releasedRec s (((s.hif.held.filter (keptRec s)).take i).filter fun q =>
          q.h.ring % 4 == r.h.ring % 4).length r)) ∧
      (∀ v ∈ s.hif.heldIrq, v < s.glb.vecs.length → bit (fld s oIrqMask 0 16) v = false → holdoffOver s v = true →
        .msix v ∈ rest)) ∧
    (s.hif.stopped = false ∨ g = s.hif.gen ∨ s.glb.dieFail = true → ∃ t, Machine.exec (.hwgenWrite g) s = .next t ∧
      HostOnly { s with hif := { s.hif with gen := g } } t))) ∧
  (∀ s : State, s.live = true → TablesOk s → NoJobs s → s.hif.quiesceJobs = [] → hostBound s = [] →
    ∃ t, Machine.exec .flr s = .next t ∧ t.hif.rings = List.replicate 4 Ring.reset ∧ t.hif.stopped = false ∧ t.hif.gen = 0 ∧
      t.hif.held = [] ∧ t.hif.heldIrq = [] ∧ (∀ v, (t.vec v).masked = true) ∧
      (∀ off, (blockOf off).1 = .hif → quietReg off → regGet t off = (resetWord off).toNat) ∧
      (∀ w ∈ t.flg.waits, ∀ h us, w.who ≠ .host h us) ∧
      (∀ c, 16 ≤ c → c < 32 → c < s.flg.maps.length → (t.map c).poison = true) ∧
      (∀ x, (t.ctx x).state = (s.ctx x).state) ∧ t.hdm = s.hdm ∧ t.regions = s.regions ∧ t.str.now = s.str.now)

/-! ### Registers and memory -/

/-- A write of a plain register stores the enabled bytes as the access code of each field says, RWL fields only while
LOCK is clear, and every other bit stays; a ring's addresses and sizes store nothing while the ring is enabled; a
write that sets LOCK sets it; an access that is not a run of aligned words in BAR0 does nothing. A read returns the
word its register shows, or, for a later word of a multi-word register, the word that the read of its first word
latched; a read of a first word latches the later ones, and RC fields return to their reset value. Before READY only
the global block answers: every other offset reads 0. Readings of the model it rests on: log 0. -/
def Obligations.RegistersReadAndWrite : Prop :=
  ((∀ (off be : Nat) (w : Word) (s : State), s.live = true → TablesOk s → off % 4 = 0 → plainReg off = true →
    ∃ t, Machine.exec (.registerWrite off [(w, be)]) s = .next t ∧ HostOnly { s with regs := t.regs } t ∧ OnlyReg off s t ∧
      (quietReg off →
        (∀ f ∈ fieldsOf off, ∀ i, f.lo ≤ i → i < f.lo + f.n → bit (regGet t off) i =
          bitWritten s.locked f.acc (bit be (i / 8)) (bit w.toNat i) (bit (regGet s off) i)) ∧
        ∀ i, (∀ f ∈ fieldsOf off, i < f.lo ∨ f.lo + f.n ≤ i) → bit (regGet t off) i = bit (regGet s off) i)) ∧
  (∀ (n off be : Nat) (w : Word) (s : State), s.live = true → n < 4 → (s.ring n).en = true →
    off ∈ [oSqBase n, oSqBase n + 4, oCqBase n, oCqBase n + 4, oCqSize n] →
    ∃ t, Machine.exec (.registerWrite off [(w, be)]) s = .next t ∧ HostOnly s t) ∧
  (∀ s : State, s.live = true → TablesOk s → ∃ t, Machine.exec .cfgLockSet s = .next t ∧ t.locked = true ∧ OnlyReg oCfgLock s t ∧
    HostOnly { s with regs := t.regs } t) ∧
  (∀ (off : Nat) (l : List (Word × Nat)) (s : State), off % 4 ≠ 0 ∨ barEnd < off + 4 * l.length →
    Machine.exec (.registerWrite off l) s = .next s)) ∧
  (∀ (off : Nat) (s : State), s.awake = true → TablesOk s → tabWf latchReset s.latches = true → off % 4 = 0 → off < barEnd →
    (s.boot.ready = true ∨ off < 0x100000 → ∃ t rest, Machine.exec (.registerRead off 1) s = .next t ∧
      t.out = s.out ++ .regData off [if isLatched off then tabGet latchReset s.latches off
        else BitVec.ofNat 32 (liveWord s off)] :: rest ∧
      (∀ o ∈ latchGroup off, tabGet latchReset t.latches o = BitVec.ofNat 32 (liveWord s o)) ∧
      (quietReg off → ∀ f ∈ fieldsOf off, f.acc = .rc → fld t off f.lo f.n = f.reset) ∧
      (off ≠ oUpd 0x074 → OnlyReg off s t) ∧ t.hdm = s.hdm ∧ t.ctxs = s.ctxs ∧ t.str = s.str) ∧
    (s.boot.ready = false → 0x100000 ≤ off → ∃ t rest, Machine.exec (.registerRead off 1) s = .next t ∧
      t.out = s.out ++ .regData off [0] :: rest ∧ HostOnly s t))

/-- FILL repeats the 32-bit VALUE over the range and completes OK; outside the range memory stays. A range that R428
refuses completes REFUSED_FORMAT and nothing moves. A read of the HDM window returns the bytes of memory, zero in a
hole, and tells whether a unit is poisoned; before READY it returns zeros. A write inside one range stores its bytes
and ends the poison of the units it covers whole; a write into a hole is dropped, logged and raises vector 1. The
pages that a host access touches leave device bias, and no others. -/
def Obligations.HostMemoryActs : Prop :=
  (∀ (h : HostHdr) (dst len v : Nat) (s : State), Recordable h s → TablesOk s →
    (badHdm dst len = false → ∃ t, Machine.exec (.fill h dst len v) s = .next t ∧
      HostOnly { s with hdm := t.hdm, poison := t.poison } t ∧ MemoryOutside dst len s t ∧
      (∀ i, i < len → memByte t (dst + i) = BitVec.ofNat 8 (v / 256 ^ (i % 4))) ∧
      Recorded h stOk (low64 s.str.now) s t) ∧
    (badHdm dst len = true → ∃ t, Machine.exec (.fill h dst len v) s = .next t ∧ HostOnly s t ∧
      Recorded h stFormat (low64 s.str.now) s t)) ∧
  (∀ (a n : Nat) (data : List Byte) (s : State), s.awake = true → TablesOk s → a + n ≤ 2 ^ 40 → data.length = n →
    (∃ t rest, Machine.exec (.hdmRead a n) s = .next t ∧ HostOnly { s with bias := t.bias } t ∧
      (s.boot.ready = false → t.bias = s.bias) ∧
      (s.boot.ready = true → ∀ p, p ∈ t.bias ↔ p ∈ s.bias ∧ (n = 0 ∨ p < a / 2 ^ 21 ∨ (a + n - 1) / 2 ^ 21 < p)) ∧
      t.out = s.out ++ (if s.boot.ready then .hdmData a
          ((upto n).map fun i => if (memRange (a + i)).isSome then memByte s (a + i) else 0) (anyPoison s a n)
        else .hdmData a (List.replicate n 0) false) :: rest) ∧
    (s.boot.ready = true → inOneRange a n = true → ∃ t, Machine.exec (.hdmWrite a data) s = .next t ∧ memRead t a n = data ∧
      MemoryOutside a n s t ∧ HostOnly { s with hdm := t.hdm, poison := t.poison, bias := t.bias } t ∧
      (∀ p, p ∈ t.bias ↔ p ∈ s.bias ∧ (n = 0 ∨ p < a / 2 ^ 21 ∨ (a + n - 1) / 2 ^ 21 < p)) ∧
      ∀ u, u ∈ t.poison ↔ u ∈ s.poison ∧ ¬ (a ≤ u ∧ u + 64 ≤ a + n)) ∧
    (s.boot.ready = true → inOneRange a n = false → ∃ t, Machine.exec (.hdmWrite a data) s = .next t ∧ HostOnly s t ∧
      fld t oIrqRaw 1 1 = 1 ∧ (none ∈ s.glb.log → Logged 0x1A a s t)) ∧
    (s.boot.ready = false → Machine.exec (.hdmWrite a data) s = .next s))

/-- COPY inside the module moves LENGTH bytes: started with its data read, its writes visible and its record OK when
it completes; every byte outside the destination stays. COPY from the host stores the bytes read, COPY to the host
writes the module's bytes before its record, and COPY to a peer puts one transfer with DSTMOD = LNK_PEER_MOD.MODID on
VC14. A breach of R428 completes REFUSED_FORMAT, and a peer port that is not carrying or has VC14 disabled
PEER_ABSENT. A COPY of KIND 0x4 takes the buffer that the activation queue of its FIRST context would grant, and its
entry, KIND 0x2, SRC 0x20, TEXP 0 and TOK32, is enqueued when it completes OK. Readings of the model it rests on: logs
63, 68. -/
def Obligations.CopiesAct : Prop :=
  (∀ (h : HostHdr) (o : CopyOps) (s : State), Recordable h s → TablesOk s → copyJob s h = none → o.kind = 0 →
    copyBad s o = false → anyPoison s o.src o.length = false →
    ∃ t, Machine.exec (.copy h o []) s = .next t ∧
      HostOnly { s with hif := { s.hif with copies := s.hif.copies ++ [⟨h, o, memRead s o.src o.length⟩] } } t ∧
      ∃ u, Machine.exec (.copyComplete h) t = .next u ∧
        HostOnly { t with hif := { t.hif with copies := s.hif.copies }, hdm := u.hdm, poison := u.poison } u ∧
        memRead u o.dst o.length = memRead s o.src o.length ∧ MemoryOutside o.dst o.length s u ∧
        Recorded h stOk (low64 s.str.now) t u) ∧
  (∀ (h : HostHdr) (o : CopyOps) (d : List Byte) (s : State), Recordable h s → TablesOk s → copyJob s h = none →
    (copyBad s o = true → ∃ t, Machine.exec (.copy h o d) s = .next t ∧ HostOnly s t ∧
      Recorded h stFormat (low64 s.str.now) s t) ∧
    (copyBad s o = false → o.kind = 1 → d.length = o.length → ∃ t u, Machine.exec (.copy h o d) s = .next t ∧
      HostOnly { s with hif := { s.hif with copies := s.hif.copies ++ [⟨h, o, d⟩] } } t ∧
      Machine.exec (.copyComplete h) t = .next u ∧ memRead u o.dst o.length = d ∧ MemoryOutside o.dst o.length s u ∧
      Recorded h stOk (low64 s.str.now) t u) ∧
    (copyBad s o = false → o.kind = 2 → anyPoison s o.src o.length = false → ∃ t u rest,
      Machine.exec (.copy h o d) s = .next t ∧ Machine.exec (.copyComplete h) t = .next u ∧ u.hdm = s.hdm ∧
      u.out = t.out ++ .hostWrite o.dst (memRead s o.src o.length) :: rest ∧
      RecordIn h stOk (low64 s.str.now) rest) ∧
    (copyBad s o = false → o.kind = 3 → peerReady s o.portCtx = false → ∃ t, Machine.exec (.copy h o d) s = .next t ∧
      HostOnly s t ∧ Recorded h stPeerAbsent (low64 s.str.now) s t) ∧
    (copyBad s o = false → o.kind = 3 → peerReady s o.portCtx = true → o.portCtx < s.ports.length →
      anyPoison s o.src o.length = false → ∃ t body, Machine.exec (.copy h o d) s = .next t ∧
      HostOnly { s with hif := { s.hif with copies := t.hif.copies }, ports := t.ports } t ∧
      (t.port o.portCtx).tx = (s.port o.portCtx).tx ++ [⟨14, (s.port o.portCtx).peerMod, body, 0, none, .copy h⟩] ∧
      xferOf body = ⟨0, o.win % 256, 0, o.dst % 2 ^ 40, o.length % 2 ^ 32, false, o.tflag, 0, 0, 0, false⟩ ∧
      (body.drop 32).take o.length = memRead s o.src o.length)) ∧
  (∀ (h : HostHdr) (o : CopyOps) (b : Nat) (l : List Nat) (s : State), Recordable h s → TablesOk s → copyJob s h = none →
    o.kind = 4 → copyBad s o = false → anyPoison s o.src o.length = false → o.portCtx < s.ctxs.length →
    (s.ctx o.portCtx).grants = true → (s.ctx o.portCtx).aq.free = b :: l →
    (s.ctx o.portCtx).aq.granted.length + (s.ctx o.portCtx).aq.entries.length < (s.ctx o.portCtx).aq.depth →
    ∃ t u, Machine.exec (.copy h o []) s = .next t ∧ Machine.exec (.copyComplete h) t = .next u ∧
      (u.ctx o.portCtx).aq.entries = (s.ctx o.portCtx).aq.entries ++
        [⟨⟨⟨0, 0, 0, 0⟩, 2, 0x20, o.tok32, 0, o.length, b, o.portCtx, 0⟩, false⟩] ∧
      (u.ctx o.portCtx).aq.free = l ∧
      memRead u ((s.ctx o.portCtx).aq.base + b * (s.ctx o.portCtx).aq.bufBytes) o.length = memRead s o.src o.length ∧
      Recorded h stOk (low64 s.str.now) t u)

/-- A SNAPSHOT that R427 allows pins its version slot, or its state slot, and takes its bytes as of acceptance; one to
a peer queues them on VC14. When the last byte has left it ends its pin and writes its record: a version that only the
pin kept becomes free. One that names what is not there is refused with REFUSED_FORMAT, one with no pin free or longer
than DLEN with REFUSED_RESOURCES, one to a peer that cannot take it with PEER_ABSENT. Readings of the model it rests
on: logs 65, 68, 179. -/
def Obligations.SnapshotsAct : Prop :=
  ∀ (h : HostHdr) (o : SnapOps) (s : State), Recordable h s →
    (snapBad s o = true → ∃ t, Machine.exec (.snapshot h o) s = .next t ∧ HostOnly s t ∧
      Recorded h stFormat (low64 s.str.now) s t) ∧
    (snapBad s o = false → o.dlen < (snapBytes s o).length ∨
        (snapVersion o = true ∧ (s.region o.region).pins ≤ (s.region o.region).pinned) →
      ∃ t, Machine.exec (.snapshot h o) s = .next t ∧ HostOnly s t ∧ Recorded h stResources (low64 s.str.now) s t) ∧
    (snapBad s o = false → (snapBytes s o).length ≤ o.dlen →
      (snapVersion o = true → (s.region o.region).pinned < (s.region o.region).pins) →
      (o.dest = 1 → peerReady s o.port = false → ∃ t, Machine.exec (.snapshot h o) s = .next t ∧ HostOnly s t ∧
        Recorded h stPeerAbsent (low64 s.str.now) s t) ∧
      ((o.dest = 1 → peerReady s o.port = true ∧ o.port < s.ports.length) →
        ∃ t j, Machine.exec (.snapshot h o) s = .next t ∧ t.upd = { s.upd with snaps := s.upd.snaps ++ [j] } ∧ j.h = h ∧
        j.o = o ∧ j.data = snapBytes s o ∧ j.slot = (if snapState o then some (s.c % 2) else none) ∧
        (snapVersion o = false → j.regionPin = none ∧ t.regions = s.regions) ∧
        (snapVersion o = true → ∃ i v, (s.region o.region).slots[i]? = some v ∧ v.state = .live ∧ v.gen = o.gen ∧
          j.regionPin = some (o.region, i) ∧ (t.region o.region).slots[i]? = some { v with pins := v.pins + 1 } ∧
          (t.region o.region).pinned = (s.region o.region).pinned + 1 ∧ ∀ r, r ≠ o.region → t.region r = s.region r) ∧
        (o.dest ≠ 1 → t.ports = s.ports) ∧
        (o.dest = 1 → 0 < (snapBytes s o).length → (snapBytes s o).length ≤ 0xFFFFFFC0 → ∃ body,
          (t.port o.port).tx = (s.port o.port).tx ++ [⟨14, (s.port o.port).peerMod, body, 0, none, .snapshot h⟩] ∧
          (body.drop 32).take (snapBytes s o).length = snapBytes s o ∧ xferOf body = ⟨0, o.win % 256, 0, o.daddr % 2 ^ 40,
            roundUp (snapBytes s o).length 64 % 2 ^ 32, false, false, 0, 0, 0, false⟩) ∧
        HostOnly { s with upd := t.upd, regions := t.regions, ports := t.ports, free := t.free } t)) ∧
    (∀ j, s.upd.snaps = [j] → j.h = h →
      (j.o.dest ≠ 1 → NoJobs s → ∃ t rest, Machine.exec (.snapshotComplete h) s = .next t ∧
        t.upd = { s.upd with snaps := [] } ∧
        t.out = s.out ++ .hostWrite j.o.daddr j.data :: recordOf h stOk (low64 s.str.now) s :: rest ∧
        (j.regionPin = none → HostOnly { s with upd := t.upd } t) ∧
        (∀ r i v, j.regionPin = some (r, i) → (s.region r).slots[i]? = some v → 0 < v.pins → (s.region r).sharded = false →
          (s.region r).landed = [] → (t.region r).pinned = (s.region r).pinned - 1 ∧
          (v.state = .live → v.ref = 0 → v.pins = 1 → (v.dying = true ∨ ((s.region r).owned = false ∧
              (s.region r).newest ≠ some v.gen ∧ (s.region r).seqHold = false)) →
            (t.region r).slots[i]? = some { v with pins := 0, state := .free }))) ∧
      (j.o.dest = 1 → ∃ t, Machine.exec (.snapshotComplete h) s = .next t ∧ HostOnly s t) ∧
      (∀ p x b, j.o.dest = 1 → p < s.ports.length → TablesOk s → (s.port p).carrying = true → (s.port p).retrain = false →
        x ∈ (s.port p).tx → x.done = .snapshot h → (∀ q ∈ s.ports, ∀ y ∈ q.tx, y ≠ x → y.done ≠ .snapshot h) →
        (∀ y ∈ (s.port p).tx, y ≠ x → y.lastSeq = none) → (∀ q, q ≠ p → x ∉ (s.port q).tx) → (s.port p).tx.Nodup → FlitGood b → (flitHdrOf b).ftype = 0 →
        (flitHdrOf b).ackv = true → (flitHdrOf b).nak = false → x.lastSeq = some (flitHdrOf b).ackseq →
        (∃ f ∈ (s.port p).retry, f.fseq = (flitHdrOf b).ackseq) →
        ∃ t, Machine.exec (.flitReceive p b false 0 0) s = .next t ∧ Recorded h stOk (low64 s.str.now) s t ∧ t.upd.snaps = []))

/-- An uncorrectable error poisons its unit, counts in the UE field of its memory, is logged and raises vector 1; a
unit already poisoned reports nothing. A corrected error counts in CE, and for a bank of the version store in the
bank, whose slice is marked when 16 have been counted. CLEAR_ALL returns the counts, MAXABS and EVT of every census
entry of a die to 0, and its load entries; CLEAR_ONE those of the entry IDX. WITH_HIST clears the history and last_sat
too; thresholds stay. Readings of the model it rests on: logs 72, 73, 119. -/
def Obligations.MemoryErrorsAndCensusClearsAct : Prop :=
  ((∀ (a : Nat) (who : Option Nat) (e : Nat × Nat × Nat × Nat) (s : State), s.live = true → TablesOk s → eccOf (.hdm a) = some e →
    (poisoned s a = false → ∃ t, Machine.exec (.uncorrectableMemoryError (.hdm a) who) s = .next t ∧
      t.poison = s.poison ++ [a / 64 * 64] ∧ poisoned t a = true ∧ t.hdm = s.hdm ∧ OnlyReg (oBse e.1 e.2.1) s t ∧
      fld t (oBse e.1 e.2.1) 16 8 = min 255 (fld s (oBse e.1 e.2.1) 16 8 + 1) ∧ fld t oIrqRaw 1 1 = 1 ∧
      (none ∈ s.glb.log → Logged 0x05 (a / 64 * 64) s t) ∧ HostOnly { s with regs := t.regs, bses := t.bses, poison := t.poison } t) ∧
    (poisoned s a = true → ∃ t, Machine.exec (.uncorrectableMemoryError (.hdm a) who) s = .next t ∧ HostOnly s t)) ∧
  (∀ (place : MemPlace) (who : Option Nat) (e : Nat × Nat × Nat × Nat) (u : Nat × Nat) (arg : Nat) (s : State), s.live = true →
    TablesOk s → eccOf place = some e → sramUnit place = some (u, arg) → s.sramPoison.contains u = false →
    ∃ t, Machine.exec (.uncorrectableMemoryError place who) s = .next t ∧ t.sramPoison = s.sramPoison ++ [u] ∧
      fld t (oBse e.1 e.2.1) 16 8 = min 255 (fld s (oBse e.1 e.2.1) 16 8 + 1) ∧ fld t oIrqRaw 1 1 = 1 ∧
      HostOnly { s with regs := t.regs, bses := t.bses, sramPoison := t.sramPoison } t) ∧
  (∀ (place : MemPlace) (slice : Option Nat) (e : Nat × Nat × Nat × Nat) (s : State), s.live = true → TablesOk s →
    eccOf place = some e → ∃ t, Machine.exec (.correctedMemoryError place slice) s = .next t ∧
      fld t (oBse e.1 e.2.1) 0 16 = min 65535 (fld s (oBse e.1 e.2.1) 0 16 + 1) ∧ OnlyReg (oBse e.1 e.2.1) s t ∧
      HostOnly { s with regs := t.regs, bses := t.bses } t ∧
      ∀ a d k, place = .hdm a → bankOf a = some (d, k) → d < s.bses.length → tabWf bankDefault (s.bse d).banks = true →
        (tabGet bankDefault (t.bse d).banks k).ce = min 255 ((tabGet bankDefault (s.bse d).banks k).ce + 1) ∧
        ∀ i, slice = some i → i ≤ 9 → 15 ≤ (tabFind (tabGet bankDefault (s.bse d).banks k).sliceCe i).getD 0 →
          i ∈ (tabGet bankDefault (t.bse d).banks k).marks)) ∧
  (∀ (d idx : Nat) (hist : Bool) (s : State), s.live = true → TablesOk s → d < s.cmps.length → idx < 4096 →
    tabWf censusDefault (s.cmp d).census = true → tabWf loadDefault (s.cmp d).load = true →
    ∃ t u, Machine.exec (.censusClearAll d hist) s = .next t ∧ Machine.exec (.censusClearOne d idx hist) s = .next u ∧
      (∀ k, (k = idx → censusAt u d k = censusAt t d k) ∧ (k ≠ idx → censusAt u d k = censusAt s d k) ∧
        (hist = false → censusAt t d k = { censusAt s d k with zero := 0, sat := 0, nf := 0, maxabs := 0, evt := 0 }) ∧
        (hist = true → censusAt t d k =
          { censusAt s d k with zero := 0, sat := 0, nf := 0, maxabs := 0, evt := 0, hist := List.replicate 16 0,
                                histN := 0, histPtr := 0, lastSat := false })) ∧
      (∀ i, loadAt t d i = { loadAt s d i with routed := 0, dropped := 0, peak := 0, evt := false } ∧
        loadAt u d i = loadAt s d i) ∧
      (∀ e, e ≠ d → t.cmp e = s.cmp e ∧ u.cmp e = s.cmp e) ∧ HostOnly { s with cmps := t.cmps } t ∧
      HostOnly { s with cmps := u.cmps, regs := u.regs } u ∧ OnlyReg (oCmp d 0x100) s u ∧ fld u (oCmp d 0x100) 12 12 = idx)

/-! ### Flags -/

/-- FLAG_SET of a clear flag sets it and FLAG_CLEAR of a set flag clears it; with nobody waiting on it every other
flag stays, and the command completes OK. The waits held on the flag for that value complete with OK: those that do
not consume, all of them; of those that do, the oldest, which clears the flag again, and then the waits for 0 complete
too. An FWAIT so released retires. A set of a set flag or a clear of a clear one changes no flag state and adds 1 to
its overrun counter, which stops at 255; on an unmapped ID it adds 1 to MISS_CNT of the context and completes
REFUSED_FORMAT, on a poisoned context OWNER_LOST. Readings of the model it rests on: log 122. -/
def Obligations.FlagCommandsAct : Prop :=
  ((∀ (h : HostHdr) (c v k : Nat) (e val : Bool) (s : State), Recordable h s → TablesOk s → NoSeqWait s →
    findFlag s c v = .at k e → (flagAt s k).set = !val →
    (∀ w ∈ s.flg.waits, w.key = k → ∃ g us, w.who = .host g us ∧ Recordable g s) →
    ∃ t rest, Machine.exec (if val then .flagSet h v c else .flagClear h v c) s = .next t ∧
      HostOnly { s with flg := { s.flg with flags := t.flg.flags, waits := t.flg.waits } } t ∧
      t.out = s.out ++ rest ∧ RecordIn h stOk (low64 s.str.now) rest ∧ (∀ j, j ≠ k → flagAt t j = flagAt s j) ∧
      (∀ w ∈ s.flg.waits, ∀ g us, w.key = k → w.val = val → w.consume = false → w.who = .host g us →
        RecordIn g stOk s.glb.time rest) ∧
      ((∀ w ∈ s.flg.waits, w.key = k → w.val = val → w.consume = false) → flagAt t k = { flagAt s k with set := val } ∧
        t.flg.waits = s.flg.waits.filter fun w => !(w.key == k && !w.consume && w.val == val)) ∧
      (∀ w, val = true → s.flg.waits.find? (fun w => w.key == k && w.consume && w.val) = some w →
        flagAt t k = { flagAt s k with set := false } ∧ (∀ g us, w.who = .host g us → RecordIn g stOk s.glb.time rest) ∧
        (∀ u ∈ s.flg.waits, ∀ g us, u.key = k → u.consume = false → u.who = .host g us → RecordIn g stOk s.glb.time rest) ∧
        t.flg.waits = (dropFirst (· == w) s.flg.waits).filter fun u => !(u.key == k && !u.consume))) ∧
  (∀ (h : HostHdr) (c v k x : Nat) (e val : Bool) (w : Wait) (u : SeqWait) (s : State), Recordable h s → TablesOk s → x < 16 →
    Sized s → findFlag s c v = .at k e → (flagAt s k).set = !val → (s.flg.waits.filter fun w => w.key == k) = [w] →
    w.who = .seq x → w.val = val → (w.consume = true → val = true) → (s.ctx x).wait = some u →
    (∀ y, y ≠ x → (s.ctx y).wait = none) →
    ∃ t, Machine.exec (if val then .flagSet h v c else .flagClear h v c) s = .next t ∧ (t.ctx x).wait = none ∧
      FlagBecomes k { flagAt s k with set := val && !w.consume } s t ∧ t.flg.waits = dropFirst (· == w) s.flg.waits)) ∧
  (∀ (h : HostHdr) (c v k : Nat) (e val : Bool) (s : State), Recordable h s → TablesOk s → NoSeqWait s → NoWaitOn k s →
    findFlag s c v = .at k e → (flagAt s k).set = !val →
    ∃ t, Machine.exec (if val then .flagSet h v c else .flagClear h v c) s = .next t ∧
      FlagBecomes k { flagAt s k with set := val } s t ∧ t.flg = { s.flg with flags := t.flg.flags } ∧
      HostOnly { s with flg := t.flg } t ∧ Recorded h stOk (low64 s.str.now) s t) ∧
  ((∀ (h : HostHdr) (c v k : Nat) (e val : Bool) (s : State), Recordable h s → TablesOk s → NoSeqWait s →
    findFlag s c v = .at k e → (flagAt s k).set = val → (flagAt s k).ovr ≠ 254 →
    ∃ t, Machine.exec (if val then .flagSet h v c else .flagClear h v c) s = .next t ∧
      FlagBecomes k { flagAt s k with ovr := if (flagAt s k).ovr < 255 then (flagAt s k).ovr + 1 else (flagAt s k).ovr } s t ∧
      HostOnly { s with flg := t.flg } t ∧ Recorded h stOk (low64 s.str.now) s t) ∧
  (∀ (h : HostHdr) (c v : Nat) (val : Bool) (s : State), Recordable h s → NoSeqWait s → c < s.flg.maps.length →
    findFlag s c v = .unmapped ∨ findFlag s c v = .poisoned →
    ∃ t, Machine.exec (if val then .flagSet h v c else .flagClear h v c) s = .next t ∧
      t.flg = { s.flg with maps := t.flg.maps } ∧
      t.map c = { s.map c with miss := min 255 ((s.map c).miss + 1) } ∧ (∀ b, b ≠ c → t.map b = s.map b) ∧
      HostOnly { s with flg := t.flg } t ∧
      Recorded h (if findFlag s c v = .poisoned then stOwnerLost else stFormat) (low64 s.str.now) s t))

/-- A FLAG_WAIT whose value the flag holds completes OK at once with GLB_TIME as RESULT, and with CONSUME clears the
flag; one whose value it does not hold is held; the 1,025th completes REFUSED_RESOURCES. A FLAG_WAIT with CANCEL ends
the wait of tag CTAG with ABANDONED and then completes OK, or REFUSED_FORMAT when no such wait is held; a wait whose
nonzero timeout has elapsed ends with TIMEOUT. Readings of the model it rests on: log 110. -/
def Obligations.FlagWaitsActAndEnd : Prop :=
  (∀ (h : HostHdr) (c v k us : Nat) (e val con : Bool) (s : State), Recordable h s → TablesOk s → NoSeqWait s → NoWaitOn k s →
    findFlag s c v = .at k e → (con = true → val = true) →
    (hostWaits s < 1024 → (flagAt s k).set = val →
      ∃ t, Machine.exec (.flagWait h v c val con us) s = .next t ∧
        FlagBecomes k { flagAt s k with set := val && !con } s t ∧ t.flg = { s.flg with flags := t.flg.flags } ∧
        HostOnly { s with flg := t.flg } t ∧ Recorded h stOk s.glb.time s t) ∧
    (hostWaits s < 1024 → (flagAt s k).set = !val →
      ∃ t, Machine.exec (.flagWait h v c val con us) s = .next t ∧
        HostOnly { s with flg := { s.flg with waits := s.flg.waits ++ [⟨.host h us, c, v, k, val, con⟩] } } t) ∧
    (1024 ≤ hostWaits s → ∃ t, Machine.exec (.flagWait h v c val con us) s = .next t ∧ HostOnly s t ∧
      Recorded h stResources (low64 s.str.now) s t)) ∧
  ((∀ (h g : HostHdr) (us tag : Nat) (w : Wait) (s : State), Recordable h s → Recordable g s → w.who = .host g us →
    s.flg.waits.find? (hostTag tag) = some w →
    ∃ t rest a p, Machine.exec (.flagWaitCancel h tag) s = .next t ∧
      HostOnly { s with flg := { s.flg with waits := dropFirst (· == w) s.flg.waits } } t ∧
      t.out = s.out ++ recordOf g stAbandoned (low64 s.str.now) s :: rest ∧
      .hostWrite a (recordBytes h.tag stOk h.sstamp (low64 s.str.now) p) ∈ rest) ∧
  (∀ (h : HostHdr) (tag : Nat) (s : State), Recordable h s → s.flg.waits.find? (hostTag tag) = none →
    ∃ t, Machine.exec (.flagWaitCancel h tag) s = .next t ∧ HostOnly s t ∧ Recorded h stFormat (low64 s.str.now) s t) ∧
  (∀ (h : HostHdr) (us : Nat) (w : Wait) (s : State), Recordable h s → us ≠ 0 → w ∈ s.flg.waits → w.who = .host h us →
    (∀ u ∈ s.flg.waits, ∀ n, u.who = .host h n → u = w) →
    ∃ t, Machine.exec (.hostFlagWaitTimeout h) s = .next t ∧
      HostOnly { s with flg := { s.flg with waits := dropFirst (· == w) s.flg.waits } } t ∧
      Recorded h stTimeout (low64 s.str.now) s t))

/-- FLG_DIRECT_OP names a flag for FLG_DIRECT_Q; OP set and clear act as the commands do without a record, and OP 0x3
returns the overrun counter to 0. A FLAG message of a die sets, clears or waits for the physical flag it names; on a
flag of a poisoned context a set or clear only counts as a miss, and a wait is woken with OWNER_LOST. A cancel takes
the wait away, and a wake closes it. -/
def Obligations.DirectAndDieFlagsAct : Prop :=
  (∀ (c v k : Nat) (e : Bool) (s : State), s.live = true → TablesOk s → NoSeqWait s → NoWaitOn k s →
    findFlag s c v = .at k e →
    (∃ t, Machine.exec (.directQuery v c) s = .next t ∧ HostOnly { s with flg := { s.flg with sel := (v % 2 ^ 24, c % 64) } } t) ∧
    ((flagAt s k).set = false → ∃ t, Machine.exec (.directSet v c) s = .next t ∧
      FlagBecomes k { flagAt s k with set := true } s t ∧
      t.flg = { s.flg with flags := t.flg.flags, sel := (v % 2 ^ 24, c % 64) } ∧ HostOnly { s with flg := t.flg } t) ∧
    ((flagAt s k).set = true → ∃ t, Machine.exec (.directClear v c) s = .next t ∧
      FlagBecomes k { flagAt s k with set := false } s t ∧
      t.flg = { s.flg with flags := t.flg.flags, sel := (v % 2 ^ 24, c % 64) } ∧ HostOnly { s with flg := t.flg } t) ∧
    (∃ t, Machine.exec (.directClearOverrun v c) s = .next t ∧ FlagBecomes k { flagAt s k with ovr := 0 } s t ∧
      t.flg = { s.flg with flags := t.flg.flags, sel := (v % 2 ^ 24, c % 64) } ∧ HostOnly { s with flg := t.flg } t)) ∧
  (∀ (h : IxHdr) (k : Nat) (s : State), s.awake = true → TablesOk s → Comes 4 h [] s → NoSeqWait s → NoWaitOn k s →
    (bit h.addr 39 = false → physicalFlag h = some k →
      ((tabFind s.flg.pageOwner (k / 64)).isSome = true → (s.map (nameOf s k).1).poison = false) →
      (∀ val : Bool, h.sub = (if val then 1 else 2) → (flagAt s k).set = !val → ∃ t, Machine.exec (.iluxaFlag h) s = .next t ∧
        FlagBecomes k { flagAt s k with set := val } s t ∧ HostOnly { s with flg := { s.flg with flags := t.flg.flags }, dies := t.dies } t) ∧
      (∀ val : Bool, h.sub = (if val then 3 else 4) → (flagAt s k).set = !val → ∃ t c v con,
        Machine.exec (.iluxaFlag h) s = .next t ∧ con = (val && bit h.addr 36) ∧
        t.flg = { s.flg with waits := s.flg.waits ++ [⟨.die h.srca h.tid h.dsta, c, v, k, val, con⟩] } ∧
        HostOnly { s with flg := t.flg, dies := t.dies } t)) ∧
    (∀ c, bit h.addr 39 = false → physicalFlag h = some k → (tabFind s.flg.pageOwner (k / 64)).isSome = true →
      c = (nameOf s k).1 → c < s.flg.maps.length → (s.map c).poison = true →
      (h.sub = 1 ∨ h.sub = 2 → ∃ t, Machine.exec (.iluxaFlag h) s = .next t ∧ t.flg = { s.flg with maps := t.flg.maps } ∧
        t.map c = { s.map c with miss := min 255 ((s.map c).miss + 1) } ∧ (∀ b, b ≠ c → t.map b = s.map b) ∧
        HostOnly { s with flg := t.flg, dies := t.dies } t) ∧
      (h.sub = 3 ∨ h.sub = 4 → ∃ t, Machine.exec (.iluxaFlag h) s = .next t ∧ HostOnly { s with dies := t.dies } t ∧
        ((∀ j, agentPort h.srca = some j → creditsOf (s.die j).credits 0 2 ≠ 0) →
          ∃ rest, t.out = s.out ++ .ix 0 (ixHdrBytes (wakeMsg h.dsta h.srca h.tid stOwnerLost)) :: rest))) ∧
    (h.sub = 5 → ∃ t, Machine.exec (.iluxaFlag h) s = .next t ∧ HostOnly { s with flg := t.flg, dies := t.dies } t ∧
      t.flg = { s.flg with waits := dropFirst (dieWait h.srca h.tid) s.flg.waits }) ∧
    (h.sub = 6 → ∃ t, Machine.exec (.iluxaFlag h) s = .next t ∧ HostOnly { s with dies := t.dies } t ∧
      ∀ j, openPort h.dsta h.srca = some j → (t.die j).openReqs = dropFirst (· == (h.dsta, h.srca, h.tid, 2)) (s.die j).openReqs))

/-- VALID = 1 of a driver's flag context takes its run when R281 allows it, and clears the flags of its pages;
otherwise CFG_ERR is set. VALID = 0 poisons the flags and frees the run. A write to FLG_OWNERLOST ends the poison and
clears the flags of the pages that the context holds. Readings of the model it rests on: log 83. -/
def Obligations.FlagMapsAct : Prop :=
  ∀ (c owner : Nat) (s : State), s.live = true → c < s.flg.maps.length →
    (driverMap c = true → (s.map c).valid = false →
      ((s.map c).poison = false → runOk (mapRun s c) = true → runFree s c (s.map c).first (mapRun s c) = true →
        (s.map c).first + (s.map c).nent ≤ 4096 → ∃ t, Machine.exec (.flagMapValidate c owner) s = .next t ∧
        t.map c = { s.map c with valid := true, owner := if 40 ≤ c then owner % 32 else (s.map c).owner } ∧
        (∀ d, d ≠ c → t.map d = s.map d) ∧
        (∀ k, (∃ e ∈ mapRun s c, entHolds e k = true) → flagAt t k = ⟨false, 0⟩) ∧
        (∀ k, (∀ e ∈ mapRun s c, entHolds e k = false) → flagAt t k = flagAt s k) ∧
        HostOnly { s with flg := t.flg } t) ∧
      ((s.map c).poison = true ∨ runOk (mapRun s c) = false ∨ runFree s c (s.map c).first (mapRun s c) = false ∨
        4096 < (s.map c).first + (s.map c).nent → ∃ t, Machine.exec (.flagMapValidate c owner) s = .next t ∧
        (t.map c).valid = false ∧ (t.map c).cfgErr = true ∧ t.flg.flags = s.flg.flags ∧
        HostOnly { s with flg := { s.flg with maps := t.flg.maps } } t)) ∧
    (driverMap c = true → (s.map c).valid = true → ∃ t rest, Machine.exec (.flagMapInvalidate c) s = .next t ∧
      t.out = s.out ++ rest ∧ t.map c = { s.map c with valid := false, poison := true } ∧
      (∀ o ∈ t.flg.pageOwner, o.2 ≠ c) ∧ (∀ o ∈ t.flg.storeOwner, o.2 ≠ c) ∧ t.flg.flags = s.flg.flags ∧
      t.flg.waits = s.flg.waits.filter (fun w => !waitsOn s c w) ∧
      (∀ w ∈ s.flg.waits, ∀ g us, w.fctx = c → w.who = .host g us → Recordable g s →
        RecordIn g stOwnerLost (low64 s.str.now) rest) ∧
      (∀ w ∈ s.flg.waits, ∀ x, w.fctx = c → w.who = .seq x → (s.ctx x).wait.isSome = true →
        ∃ u, (t.ctx x).wait = some u ∧ u.status = some stOwnerLost) ∧
      ((∀ w ∈ s.flg.waits, waitsOn s c w = false) → HostOnly { s with flg := t.flg } t) ∧
      (none ∈ s.glb.log → (∀ w ∈ s.flg.waits, waitsOn s c w = false) → Logged 0x0F (c % 64 * 2 ^ 24) s t)) ∧
    ((s.map c).poison = true → ∃ t, Machine.exec (.ownerlostClear c) s = .next t ∧
      t.map c = { s.map c with poison := false } ∧ (∀ d, d ≠ c → t.map d = s.map d) ∧
      (∀ k, ownsFlag s c k = true → flagAt t k = ⟨false, 0⟩) ∧
      (∀ k, ownsFlag s c k = false → flagAt t k = flagAt s k) ∧
      HostOnly { s with flg := { s.flg with flags := t.flg.flags, maps := t.flg.maps } } t)

/-- A set or a clear record of a peer acts on an exported flag at once, or, fenced, when the markers its VCMASK names
have come and the transfers before them are committed; records behind a fenced one wait for it, in sending order. A
flag not exported stays, and the record counts in MISS_CNT of its context and in LNK_ERR.DROP_CNT and is logged; one
that finds no token counts in DROP_CNT alone. A wait of a peer on an exported flag is answered with a wake when the
flag has its value, and held until then; a set or clear that gives it sends the wake. A cancel removes the wait
without a wake. A wake of a peer completes the FWAIT of its wait tag with the status it carries. Readings of the model
it rests on: log 176. -/
def Obligations.RemoteFlagsAndWaitsAct : Prop :=
  (∀ (p k : Nat) (r : FlagRec) (val e : Bool) (c : Instr) (s : State), s.live = true → TablesOk s → p < 16 →
    (s.port p).carrying = true → NoSeqWait s → NoWaitOn k s → findFlag s r.fctx r.vflag = .at k e → r.op = (if val then 1 else 2) →
    c = (if val then .remoteFlagSet p r else .remoteFlagClear p r) →
    (recordCaps p r s = true → (tokenTake p s).2 = true → r.fence = false → (s.port p).pendingRecs = [] → e = true →
      (flagAt s k).set = !val →
      ∃ t, Machine.exec c s = .next t ∧ FlagBecomes k { flagAt s k with set := val } s t ∧
        t.flg = { s.flg with flags := t.flg.flags } ∧ HostOnly { s with flg := t.flg, ports := t.ports } t) ∧
    (recordCaps p r s = true → (tokenTake p s).2 = true →
      ((s.port p).pendingRecs = [] ∧ r.fence = true) ∨ (∃ u l, (s.port p).pendingRecs = u :: l ∧ u.2.fence = true) →
      ∃ t, Machine.exec c s = .next t ∧ HostOnly { s with ports := t.ports } t ∧
        (t.port p).pendingRecs = (s.port p).pendingRecs ++ [((s.port p).peerMod, r)]) ∧
    (∀ m l, (s.port p).pendingRecs = (m, r) :: l → r.fence = true → (∀ u, l.head? = some u → u.2.fence = true) →
      fenceMet (s.port p) r = true → e = true → (flagAt s k).set = !val →
      ∃ t, Machine.exec (.fencedRecordApply p r) s = .next t ∧ FlagBecomes k { flagAt s k with set := val } s t ∧
        (t.port p).pendingRecs = l ∧
        HostOnly { s with flg := t.flg, ports := t.ports } t) ∧
    (fenceMet (s.port p) r = false ∨ (∀ u, (s.port p).pendingRecs.head? = some u → u.2 ≠ r) →
      ∃ t, Machine.exec (.fencedRecordApply p r) s = .next t ∧ HostOnly s t) ∧
    (recordCaps p r s = true → (tokenTake p s).2 = false → fld s (oLnk p 0x30) 1 1 = 0 →
      ∃ t, Machine.exec c s = .next t ∧ t.flg = s.flg ∧ fld t (oLnk p 0x200) 2 1 = 1 ∧
        fld t (oLnk p 0x200) 16 16 = min 65535 (fld s (oLnk p 0x200) 16 16 + 1) ∧ OnlyReg (oLnk p 0x200) s t ∧
        HostOnly { s with regs := t.regs, ports := t.ports } t) ∧
    (recordCaps p r s = true → (tokenTake p s).2 = true → r.fence = false → (s.port p).pendingRecs = [] → e = false →
      fld s (oLnk p 0x30) 1 1 = 0 → r.fctx < s.flg.maps.length →
      ∃ t, Machine.exec c s = .next t ∧ t.flg = { s.flg with maps := t.flg.maps } ∧
        t.map r.fctx = { s.map r.fctx with miss := min 255 ((s.map r.fctx).miss + 1) } ∧
        (∀ b, b ≠ r.fctx → t.map b = s.map b) ∧ fld t (oLnk p 0x200) 1 1 = 1 ∧
        fld t (oLnk p 0x200) 16 16 = min 65535 (fld s (oLnk p 0x200) 16 16 + 1) ∧ OnlyReg (oLnk p 0x200) s t ∧
        (none ∈ s.glb.log → Logged 0x0E (r.vflag % 2 ^ 24 + r.fctx % 64 * 2 ^ 24) s t) ∧
        HostOnly { s with regs := t.regs, flg := t.flg, ports := t.ports } t) ∧
    (∀ vc n, vc ≤ 14 → bit (s.port p).ncap 5 = true → ∃ t, Machine.exec (.fenceMarker p vc n) s = .next t ∧
      HostOnly { s with ports := t.ports } t ∧ (t.port p).fences = ((s.port p).fences.filter fun f => f.1 != vc) ++
        [(vc, n % 2 ^ 16, ((s.port p).inWrite.filter fun w => w.1 == vc).length)])) ∧
  (∀ (p : Nat) (r : FlagRec) (s : State), s.live = true → TablesOk s → p < 16 → Sized s → (s.port p).carrying = true →
    bit (s.port p).ncap 6 = true → r.fence = false → (s.port p).pendingRecs = [] → (tokenTake p s).2 = true →
    (∀ k (one : Bool) (c : Instr), NoSeqWait s → NoWaitOn k s → findFlag s r.fctx r.vflag = .at k true → (s.port p).remoteWaits < 256 →
      c = (if one then .remoteWaitFor1 p r else .remoteWaitFor0 p r) →
      ((flagAt s k).set = one → ∃ t, Machine.exec c s = .next t ∧
        FlagBecomes k { flagAt s k with set := one && !r.consume } s t ∧ HostOnly { s with flg := t.flg, ports := t.ports } t ∧
        t.flg.waits = s.flg.waits ∧ (t.port p).ctl = (s.port p).ctl ++
          [(2, (s.port p).peerMod, recBytes (wakeRec stOk r.wtag), .nothing)] ∧ (t.port p).remoteWaits = (s.port p).remoteWaits) ∧
      ((flagAt s k).set = !one → ∃ t, Machine.exec c s = .next t ∧ HostOnly { s with flg := t.flg, ports := t.ports } t ∧
        t.flg = { s.flg with waits := s.flg.waits ++
          [⟨.remote p (s.port p).peerMod r.wtag, r.fctx, r.vflag, k, one, one && r.consume⟩] } ∧
        (t.port p).ctl = (s.port p).ctl ∧ (t.port p).remoteWaits = (s.port p).remoteWaits + 1)) ∧
    (∀ tag w, s.flg.waits.find? (fun w => w.who == .remote p (s.port p).peerMod tag) = some w →
      ∃ t, Machine.exec (.remoteWaitCancel p tag) s = .next t ∧ HostOnly { s with flg := t.flg, ports := t.ports } t ∧
        t.flg = { s.flg with waits := dropFirst (· == w) s.flg.waits } ∧ (t.port p).ctl = (s.port p).ctl) ∧
    (∀ f w, s.flg.farWaits.find? (fun f => f.port == p && f.mod == (s.port p).peerMod && f.wtag == r.wtag) = some f →
      f.ctx < 16 → (s.ctx f.ctx).wait = some w → (∀ z, z ≠ f.ctx → (s.ctx z).wait = none) →
      ∃ t, Machine.exec (.remoteWake p r) s = .next t ∧ t.flg = { s.flg with farWaits := dropFirst (· == f) s.flg.farWaits } ∧
        (t.ctx f.ctx).wait = (if r.status = stOk then none else some { w with status := some r.status })) ∧
    (∀ k q m tag (val : Bool) (c : Instr) (w : Wait), NoSeqWait s → findFlag s r.fctx r.vflag = .at k true →
      c = (if val then .remoteFlagSet p r else .remoteFlagClear p r) → (flagAt s k).set = !val →
      (s.flg.waits.filter fun w => w.key == k) = [w] → w.who = .remote q m tag → w.val = val → w.consume = false →
      q < s.ports.length → ∃ t, Machine.exec c s = .next t ∧ FlagBecomes k { flagAt s k with set := val } s t ∧
        t.flg.waits = dropFirst (· == w) s.flg.waits ∧
        (t.port q).ctl = (s.port q).ctl ++ [(2, m, recBytes (wakeRec stOk tag), .nothing)] ∧
        (t.port q).remoteWaits = (s.port q).remoteWaits - 1 ∧ HostOnly { s with flg := t.flg, ports := t.ports } t))

/-- FSET and FCLR of a context whose earlier instructions have completed change their flag, and wait while one has
not; with a remote DEST a record is queued on VC15. A fenced one first queues one marker of its SEQ on each VC that
VCMASK names, and its record joins VC15 when they have left, or at once when it names none; behind another fenced one,
or while the port cannot carry markers, it waits, and it waits to issue while 32,767 fences are outstanding. The
instruction retires when its record leaves. FWAIT completes when the flag has its value, and with CONSUME clears it;
else the context waits and issues nothing. Readings of the model it rests on: logs 84, 112, 149. -/
def Obligations.FlagInstructionsAct : Prop :=
  (∀ (x idx pos p m : Nat) (st : Stamp) (b : List Byte) (s : State), s.live = true → x < 16 → Sized s → p < s.ports.length →
    (s.port p).carrying = true → (s.port p).retrain = false → (s.port p).replayFrom = none → (s.port p).retry.length < 1024 →
    (s.port p).ctl = [(2, m, b, .flagOp x idx pos st)] → maySend (s.port p).ncap (2, m, b, .flagOp x idx pos st) = true →
    vcEnabled s p 15 = true → 0 < nth 0 (s.port p).avail 15 → (s.ctx x).remoteOps = [(idx, pos, st)] → GoesOn s x st →
    ∃ t, Machine.exec (.flitTransmit p) s = .next t ∧ (t.port p).ctl = [] ∧ (t.ctx x).remoteOps = [] ∧
      Sent p (fun h => h.ftype = 2 ∧ h.vc = 15 ∧ h.fseq = (s.port p).txSeq ∧ h.fill = 16 ∧ h.dst = m) (padTo 16 b) s t ∧
      (∀ w, slotRec? s x st = some w → ∃ v ∈ (t.ctx x).slots, v.stamp = slotOf st ∧ v.done = w.done ++ [(st.phase, pos)]) ∧
      (t.port p).tx = (s.port p).tx ++ (if isFenced 2 b then [⟨15, m, [], 1, some (s.port p).txSeq, .fenced⟩] else [])) ∧
  ∀ (x idx pos : Nat) (st : Stamp) (w : FlagWords) (val : Bool) (c : Instr) (s : State), s.live = true → TablesOk s → x < 16 →
    Sized s → NoSeqWait s → flagPos s x st idx = some pos → c = (if val then .fset x st idx w else .fclr x st idx w) →
    (isRemote s w = false → allDone s x = false → ∃ t, Machine.exec c s = .next t ∧ HostOnly s t) ∧
    (∀ k e, isRemote s w = false → findFlag s w.fctx w.vflag = .at k e → NoWaitOn k s →
      (allDone s x = true → (flagAt s k).set = !val → ∃ t, Machine.exec c s = .next t ∧
        FlagBecomes k { flagAt s k with set := val } s t ∧ t.flg = { s.flg with flags := t.flg.flags } ∧
        (GoesOn s x st → tempoLate (s.ctx x) idx st = false → HostOnly { s with flg := t.flg, ctxs := t.ctxs } t ∧
          ∀ y, y ≠ x → t.ctx y = s.ctx y)) ∧
      ((w.fctx < 40 ∨ (s.map w.fctx).owner = x) → (w.consume = true → w.val = true) →
        ((flagAt s k).set = w.val → ∃ t, Machine.exec (.fwait x st idx w) s = .next t ∧ (t.ctx x).wait = none ∧
          FlagBecomes k { flagAt s k with set := w.val && !w.consume } s t ∧ t.flg = { s.flg with flags := t.flg.flags }) ∧
        ((flagAt s k).set = !w.val → ∃ t, Machine.exec (.fwait x st idx w) s = .next t ∧
          (t.ctx x).wait = some ⟨idx, st, pos, w, none⟩ ∧ mayIssue t x = false ∧
          t.flg = { s.flg with waits := s.flg.waits ++ [⟨.seq x, w.fctx, w.vflag, k, w.val, w.consume⟩] } ∧
          (tempoLate (s.ctx x) idx st = false → HostOnly { s with flg := t.flg, ctxs := t.ctxs } t) ∧
          ∀ y, y ≠ x → t.ctx y = s.ctx y))) ∧
    (∀ p m y, isRemote s w = true → destOf s w.dest = some (p, m, y) → p < s.ports.length → p ≤ 15 →
      (w.fence = false → ∃ t, Machine.exec c s = .next t ∧ (t.port p).ctl = (s.port p).ctl ++
        [(2, m, recBytes ⟨if val then 1 else 2, 0, w.fctx, w.vflag, false, false, 0, 0, 0⟩, .flagOp x idx pos st)] ∧
        (t.ctx x).remoteOps = (s.ctx x).remoteOps ++ [(idx, pos, st)]) ∧
      (∀ seq r, w.fence = true → (s.port p).fencesOut < 32767 → seq = ((s.port p).fenceSeq + 1) % 2 ^ 16 →
        r = ⟨if val then 1 else 2, 0, w.fctx, w.vflag, true, false, w.vcmask, seq, 0⟩ →
        ∃ t, Machine.exec c s = .next t ∧ (t.port p).fenceSeq = seq ∧
        (t.ctx x).remoteOps = (s.ctx x).remoteOps ++ [(idx, pos, st)] ∧
        ((s.port p).fenced = [] → (s.port p).carrying = true → bit (s.port p).ncap 5 = true →
          (t.port p).tx = (s.port p).tx ++ ((upto 15).filter (bit w.vcmask)).map (fun v =>
            ⟨v, m, leBytes 32 (7 + seq * 2 ^ 16), 0, none, .marker seq⟩) ∧
          ((∃ v, v < 15 ∧ bit w.vcmask v = true) → (t.port p).fenced = [⟨r, m, true, .flagOp x idx pos st⟩] ∧
            (t.port p).ctl = (s.port p).ctl) ∧
          ((∀ v, v < 15 → bit w.vcmask v = false) → (∀ y ∈ (s.port p).tx, y.done ≠ .marker seq) → (t.port p).fenced = [] ∧
            (t.port p).ctl = (s.port p).ctl ++ [(2, m, recBytes r, .flagOp x idx pos st)])) ∧
        (((s.port p).fenced = [] ∧ ((s.port p).carrying = false ∨ bit (s.port p).ncap 5 = false)) ∨
            (∃ f l, (s.port p).fenced = f :: l ∧ f.marked = true ∧ markersLeft (s.port p) f.record.seq = false) →
          (t.port p).tx = (s.port p).tx ∧ (t.port p).ctl = (s.port p).ctl ∧
          (t.port p).fenced = (s.port p).fenced ++ [⟨r, m, false, .flagOp x idx pos st⟩])) ∧
      (w.fence = true → 32767 ≤ (s.port p).fencesOut → ∃ t, Machine.exec c s = .next t ∧ HostOnly s t) ∧
      ((s.port p).carrying = true → ∃ t, Machine.exec (.fwait x st idx w) s = .next t ∧
        (t.ctx x).wait = some ⟨idx, st, pos, w, none⟩ ∧ t.flg = { s.flg with
          nextTag := (s.flg.nextTag + 1) % 2 ^ 16, farWaits := s.flg.farWaits ++ [⟨p, m, s.flg.nextTag, x⟩] } ∧
        (t.port p).ctl = (s.port p).ctl ++ [(2, m, recBytes ⟨if w.val then 3 else 4, 0, w.fctx, w.vflag, false, w.consume,
          0, 0, s.flg.nextTag⟩, .nothing)]) ∧
      ((s.port p).carrying = false → ∃ t, Machine.exec (.fwait x st idx w) s = .next t ∧
        (t.ctx x).wait = some ⟨idx, st, pos, w, some stPeerAbsent⟩))

/-! ### Steps and events -/

/-- A STEP_BEGIN that R44 refuses completes REFUSED_FORMAT and changes nothing; one that repeats an accepted
STEP_BEGIN completes OK and changes nothing, whatever M and η it carries. RESULT is (E, n, 0x0000, F) for both. An
accepted STEP_BEGIN is held with its M, η and the hyperparameters of that moment, and sets EPOCH and VALID. With the
epoch unchanged it offers (E, n, 0x0000, F) to STR_NOW; as the first since reset it sets STR_NOW to it exactly. Behind
a STEP_COMMIT that waits, a step command waits for its turn, but for a STEP_ABANDON that ends the wait. Readings of
the model it rests on: logs 104, 153. -/
def Obligations.StepsBegin : Prop :=
  (∀ (h : HostHdr) (e n m eta : Nat) (s : State), Recordable h s → StepTurn s →
    ((n = 0xFFFFFFFFFF ∨ m = 0 ∨ f32finite eta = false ∨ (bit eta 31 = true ∧ eta % 2 ^ 31 ≠ 0)) →
      ∃ t, Machine.exec (.stepBegin h e n m eta) s = .next t ∧ HostOnly s t ∧
        Recorded h stFormat (low64 ⟨e, n, 0, 0⟩) s t) ∧
    (n ≠ 0xFFFFFFFFFF → m ≠ 0 → f32finite eta = true → bit eta 31 = false → s.str.valid = true →
      (∃ r ∈ s.str.steps, r.epoch = e ∧ r.step = n) →
      ∃ t, Machine.exec (.stepBegin h e n m eta) s = .next t ∧ HostOnly s t ∧ Recorded h stOk (low64 ⟨e, n, 0, 0⟩) s t) ∧
    (n ≠ 0xFFFFFFFFFF → m ≠ 0 → f32finite eta = true → bit eta 31 = false →
      (∀ r ∈ s.str.steps, ¬ (r.epoch = e ∧ r.step = n)) →
      (n < s.upd.committed + 1 ∨ s.upd.committed + 2 < n ∨
        (n = s.upd.committed + 2 ∧ ∀ r ∈ s.str.steps, ¬ (r.epoch = e ∧ r.step = s.upd.committed + 1))) →
      ∃ t, Machine.exec (.stepBegin h e n m eta) s = .next t ∧ HostOnly s t ∧
        Recorded h stFormat (low64 ⟨e, n, 0, 0⟩) s t)) ∧
  (∀ (h : HostHdr) (e n m eta : Nat) (s : State), Recordable h s → StepTurn s → NoEntries s →
    n ≠ 0xFFFFFFFFFF → m ≠ 0 → f32finite eta = true → bit eta 31 = false →
    (∀ r ∈ s.str.steps, ¬ (r.epoch = e ∧ r.step = n)) →
    (n = s.upd.committed + 1 ∨ (n = s.upd.committed + 2 ∧ ∃ r ∈ s.str.steps, r.epoch = e ∧ r.step = s.upd.committed + 1)) →
    (s.str.valid = false ∨ e = s.str.epoch) →
    ∃ t r, Machine.exec (.stepBegin h e n m eta) s = .next t ∧ Recorded h stOk (low64 ⟨e, n, 0, 0⟩) s t ∧
      t.str.epoch = e ∧ t.str.valid = true ∧ r ∈ t.str.steps ∧ r.epoch = e ∧ r.step = n ∧ r.m = m ∧ r.eta = eta ∧
      r.hyper = [regGet s (oUpd 0x020), regGet s (oUpd 0x024), regGet s (oUpd 0x028), regGet s (oUpd 0x02C), regGet s (oUpd 0x030)] ∧
      (s.str.valid = true → t.str.now = if strideAhead ⟨e, n, 0, phF⟩ s.str.now then ⟨e, n, 0, phF⟩ else s.str.now) ∧
      (s.str.valid = false → t.str.now = ⟨e, n, 0, phF⟩ ∧ t.str.steps = [r]) ∧
      t.str.adv = (if t.str.now = s.str.now then s.str.adv else (s.str.adv + 1) % 2 ^ 32) ∧
      HostOnly { s with str := t.str, ctxs := t.ctxs, red := { s.red with landedStep := t.red.landedStep } } t) ∧
  (∀ (h : HostHdr) (e n m eta : Nat) (i : Instr) (s : State), s.live = true → s.hif.ctxJobs = [] → s.hif.quiescing = false →
    s.upd.commits ≠ [] →
    (i = .stepBegin h e n m eta ∨ i = .stepCommit h n ∨
      (i = .stepAbandon h n ∧ (∀ w ∈ s.upd.commits, w.2 ≠ n) ∧ (n ≠ s.upd.committed ∨ s.upd.rollbackOk = false))) →
    ∃ t, Machine.exec i s = .next t ∧ HostOnly { s with upd := { s.upd with stepWait := s.upd.stepWait ++ [i] } } t)

/-- STEP_COMMIT: of step c it completes OK with no change; of c + 1 once READY it sets UPD_COMMITTED_STEP and
ROLLBACK_OK, turns PENDING versions LIVE with their generation and LANDING ones with that of the step, each the newest
of its region, ends the step's STEP_BEGIN and offers the commit stamp to STR_NOW; while the pass runs or waits it
waits; else REFUSED_FORMAT. STEP_ABANDON of c + 1 or c + 2 completes OK, ends the step's STEP_BEGIN and its READY, and
ends the event slots armed for it, c unchanged: a slot whose condition is true fires, any other fires or is aborted;
of c with ROLLBACK_OK it completes OK, makes c − 1 the committed step and clears ROLLBACK_OK; anything else is
REFUSED_FORMAT with no change. The driver writes UPD_COMMITTED_STEP while every context is empty: c is the value,
ROLLBACK_OK and READY clear, and the statistics of every valid entry read zero. While a context is not empty the write
has no effect. Readings of the model it rests on: logs 58, 130, 147, 153. -/
def Obligations.StepsEnd : Prop :=
  (∀ (h : HostHdr) (n : Nat) (s : State), Recordable h s → StepTurn s →
    (n = s.upd.committed → ∃ t, Machine.exec (.stepCommit h n) s = .next t ∧ t.upd = s.upd ∧
      Recorded h stOk (low64 ⟨s.str.epoch, n, 0xFFFF, phCommit⟩) s t ∧ (NoBatches s → HostOnly s t)) ∧
    (n = s.upd.committed + 1 → s.upd.ready = true → s.upd.readyStep = n →
      ∃ t, Machine.exec (.stepCommit h n) s = .next t ∧ t.upd.committed = n ∧ t.upd.rollbackOk = true ∧
        t.upd.ready = false ∧ (∀ r ∈ t.str.steps, n < r.step) ∧
        ((∀ e ∈ s.regions, e.2.sharded = false) →
          ∀ e ∈ t.regions, ∀ v ∈ e.2.slots, v.state ≠ .pending ∧ v.state ≠ .landing) ∧
        (∀ k e v g, s.region? k = some e → (e.sharded = true → e.owned = true) → e.landed = [] → v ∈ e.slots → v.dying = false →
          (v.state = .pending ∧ g = v.gen) ∨ (v.state = .landing ∧ g = n % 4096) →
          (∀ u ∈ e.slots, u ≠ v → u.state = .free ∨ (u.state = .live ∧ (u.dying = true ∨ genNewer g u.gen = true))) →
          (t.region k).newest = some g ∧ ∃ w ∈ (t.region k).slots, w.state = .live ∧ w.gen = g ∧ w.loc = v.loc) ∧
        (NoBatches s → s.str.valid = true → t.str.now =
          if strideAhead ⟨s.str.epoch, n, 0xFFFF, phCommit⟩ s.str.now then ⟨s.str.epoch, n, 0xFFFF, phCommit⟩ else s.str.now) ∧
        Recorded h stOk (low64 ⟨s.str.epoch, n, 0xFFFF, phCommit⟩) s t) ∧
    (n = s.upd.committed + 1 → ¬ (s.upd.ready = true ∧ s.upd.readyStep = n) → updBusy s = true →
      ∃ t, Machine.exec (.stepCommit h n) s = .next t ∧ t.upd = { s.upd with commits := s.upd.commits ++ [(h, n)] } ∧
        (NoBatches s → HostOnly { s with upd := t.upd } t)) ∧
    (n ≠ s.upd.committed → (n ≠ s.upd.committed + 1 ∨ (¬ (s.upd.ready = true ∧ s.upd.readyStep = n) ∧ updBusy s = false)) →
      ∃ t, Machine.exec (.stepCommit h n) s = .next t ∧ t.upd = s.upd ∧ Recorded h stFormat (low64 s.str.now) s t ∧
        (NoBatches s → HostOnly s t))) ∧
  (∀ (h : HostHdr) (n : Nat) (s : State), Recordable h s → TablesOk s → NoJobs s →
    (s.upd.commits = [] ∨ (∃ w ∈ s.upd.commits, w.2 = n)) →
    (n = s.upd.committed + 1 ∨ n = s.upd.committed + 2 → ∃ t rest v, Machine.exec (.stepAbandon h n) s = .next t ∧
      t.out = s.out ++ rest ∧ RecordIn h stOk v rest ∧ (NoSeqWait s → NoOutgoing s → v = low64 s.str.now) ∧
      t.upd.committed = s.upd.committed ∧ (∀ w ∈ t.upd.commits, w.2 ≠ n) ∧ (∀ r ∈ t.str.steps, r.step ≠ n) ∧ ¬ (t.upd.ready = true ∧ t.upd.readyStep = n) ∧
      (∀ k, k < 16 → fld s (oEvt k 0) 16 1 = 1 → nth 0 s.str.evtStep k = n →
        fld t (oEvt k 0) 16 1 = 0 ∧ (fld t (oEvt k 0) 17 1 = 1 ∨ fld t (oEvt k 0) 18 1 = 1) ∧
        (eventTrue s k = true → fld t (oEvt k 0) 17 1 = 1))) ∧
    (n = s.upd.committed → s.upd.rollbackOk = true → ∃ t rest v, Machine.exec (.stepAbandon h n) s = .next t ∧
      t.out = s.out ++ rest ∧ RecordIn h stOk v rest ∧
      t.upd.committed = n - 1 ∧ t.upd.rollbackOk = false ∧ t.upd.ready = false ∧
      (∀ r ∈ t.str.steps, r.step ≠ n + 1 ∧ r.step ≠ n + 2)) ∧
    (s.upd.commits = [] → n ≠ s.upd.committed + 1 → n ≠ s.upd.committed + 2 → ¬ (n = s.upd.committed ∧ s.upd.rollbackOk = true) →
      ∃ t, Machine.exec (.stepAbandon h n) s = .next t ∧ HostOnly s t ∧ Recorded h stFormat (low64 s.str.now) s t)) ∧
  (∀ (n : Nat) (s : State), s.live = true → n < 2 ^ 40 →
    ((∀ c ∈ s.ctxs, c.state = .empty) → ∃ t, Machine.exec (.committedStepWrite n) s = .next t ∧
      t.upd.committed = n ∧ t.upd.rollbackOk = false ∧ t.upd.ready = false ∧
      HostOnly { s with upd := t.upd, sramPoison := t.sramPoison } t ∧
      ∀ i rows slot w nr nc, tabFind s.upd.statRows i = some rows → slot < 2 → w < 2 ^ 22 → statLayout (uentry s i) rows = (nr, nc) →
        statUnit i slot w ∉ s.sramPoison ∨ (0 < nr + nc ∧ w < nr + nc + 2 ∧ Config.sramWhole agUd (statUnit i slot w).2
          (statWords i 0 (nr + nc + 2) ++ statWords i 1 (nr + nc + 2)) = true) → statGet t i slot w = 0) ∧
    ((∃ c ∈ s.ctxs, c.state ≠ .empty) → ∃ t, Machine.exec (.committedStepWrite n) s = .next t ∧ HostOnly s t))

/-- Writing EN = 1 to a disarmed event slot stores its fields, arms it and resolves its step in the window c + 1 to c
+ 2; a reserved KIND does not arm. While EN = 1 only EN and the W1C bits change; EN = 0 disarms and sets neither FIRED
nor ABORTED. An armed slot whose condition is true fires: EN clears, FIRED is set, ACT_IRQ raises vector 3 and
ACT_FLAG sets the flag it names. A slot that is not armed, or whose condition is false, does nothing. -/
def Obligations.EventSlotsArmAndFire : Prop :=
  (∀ (k : Nat) (ctl : Word) (s : State), s.live = true → TablesOk s → k < 16 → s.str.evtStep.length = 16 →
    (fld s (oEvt k 0) 16 1 = 0 → ∃ t, Machine.exec (.strEvtArm k ctl) s = .next t ∧ OnlyReg (oEvt k 0) s t ∧
      HostOnly { s with regs := t.regs, str := { s.str with evtStep := t.str.evtStep } } t ∧
      fld t (oEvt k 0) 0 14 = bits ctl.toNat 0 14 ∧
      (1 ≤ bits ctl.toNat 0 4 → bits ctl.toNat 0 4 ≤ 5 → ¬ (bits ctl.toNat 0 4 = 4 ∧ 5 < fld s (oEvt k 8) 0 3) →
        fld t (oEvt k 0) 16 1 = 1 ∧
        nth 0 t.str.evtStep k = (if (s.upd.committed + 1) % 2 ^ 32 = regGet s (oEvt k 4) then s.upd.committed + 1
          else if (s.upd.committed + 2) % 2 ^ 32 = regGet s (oEvt k 4) then s.upd.committed + 2
          else s.upd.committed / 2 ^ 32 * 2 ^ 32 + regGet s (oEvt k 4))) ∧
      (5 < bits ctl.toNat 0 4 → fld t (oEvt k 0) 16 1 = 0 ∧ t.str.evtStep = s.str.evtStep)) ∧
    (fld s (oEvt k 0) 16 1 = 1 → ∃ t u, Machine.exec (.strEvtArm k ctl) s = .next t ∧
      Machine.exec (.strEvtDisarm k ctl) s = .next u ∧ OnlyReg (oEvt k 0) s t ∧ OnlyReg (oEvt k 0) s u ∧
      HostOnly { s with regs := t.regs } t ∧ HostOnly { s with regs := u.regs } u ∧
      fld t (oEvt k 0) 0 16 = fld s (oEvt k 0) 0 16 ∧ fld u (oEvt k 0) 0 16 = fld s (oEvt k 0) 0 16 ∧
      fld t (oEvt k 0) 16 1 = 1 ∧ fld u (oEvt k 0) 16 1 = 0 ∧
      (bit ctl.toNat 17 = false → bit ctl.toNat 18 = false → fld u (oEvt k 0) 17 2 = fld s (oEvt k 0) 17 2))) ∧
  (∀ (k : Nat) (s : State), s.live = true → TablesOk s → k < 16 → NoSeqWait s →
    (fld s (oEvt k 0) 16 1 = 1 → eventTrue s k = true →
      (fld s (oEvt k 0) 13 1 = 0 → ∃ t, Machine.exec (.strEvtFire k) s = .next t ∧
        fld t (oEvt k 0) 16 2 = 2 ∧ OnlyReg (oEvt k 0) s t ∧ HostOnly { s with regs := t.regs } t ∧
        (fld s (oEvt k 0) 12 1 = 1 → fld t oIrqRaw 3 1 = 1)) ∧
      (∀ g e, fld s (oEvt k 0) 13 1 = 1 → findFlag s (fld s (oEvt k 12) 24 6) (fld s (oEvt k 12) 0 24) = .at g e →
        NoWaitOn g s → (flagAt s g).set = false → ∃ t, Machine.exec (.strEvtFire k) s = .next t ∧
        fld t (oEvt k 0) 16 2 = 2 ∧ FlagBecomes g { flagAt s g with set := true } s t ∧
        HostOnly { s with regs := t.regs, flg := t.flg } t)) ∧
    (¬ (fld s (oEvt k 0) 16 1 = 1 ∧ eventTrue s k = true) → ∃ t, Machine.exec (.strEvtFire k) s = .next t ∧ HostOnly s t))

/-! ### Contexts -/

/-- PATTERN_LOAD of an image that every check of R257 passes leaves the context loaded on the die the checks chose,
with its ranges at the bases of the command and empty queues; it completes OK with the load result word. A failing
check completes with its status and the load result word, and nothing changes. Readings of the model it rests on: logs
52, 53, 54, 55, 56, 57, 105, 120, 148, 154, 156. -/
def Obligations.PatternLoadActs : Prop :=
  ∀ (h : HostHdr) (x im vs fast slow : Nat) (s : State), Recordable h s → x < 16 → Sized s → NoJobs s → s.boot.session = none →
    ((vet s x im vs fast slow).status = stOk → ∃ t, Machine.exec (.patternLoad h x im vs fast slow) s = .next t ∧
      (t.ctx x).state = .loaded ∧ (t.ctx x).die = (vet s x im vs fast slow).die ∧ (t.ctx x).vsBase = vs ∧
      (t.ctx x).fastBase = fast ∧ (t.ctx x).slowBase = slow ∧ (t.ctx x).slots = [] ∧ (t.ctx x).aq.entries = [] ∧
      (t.ctx x).gq.entries = [] ∧ OtherStates x s t ∧
      Recorded h stOk (loadResult x (vet s x im vs fast slow)) s t) ∧
    ((vet s x im vs fast slow).status ≠ stOk → ∃ t, Machine.exec (.patternLoad h x im vs fast slow) s = .next t ∧
      HostOnly s t ∧ Recorded h (vet s x im vs fast slow).status (loadResult x (vet s x im vs fast slow)) s t) ∧
    ((im % 64 ≠ 0 ∨ fastTop < im + 320) → (vet s x im vs fast slow).status = stFormat ∧
      bits (loadResult x (vet s x im vs fast slow)) 0 8 = 0x01)

/-- CONTEXT_START takes a loaded context to running and completes OK; from another state it is REFUSED_FORMAT, on a
poisoned flag context OWNER_LOST, and else while a die port has failed PEER_ABSENT, and then nothing changes. At
CONTEXT_START a queue whose producer lies on another module grants the credits R216 allows, each naming a free buffer.
Readings of the model it rests on: log 131. -/
def Obligations.ContextsStart : Prop :=
  (∀ (h : HostHdr) (x : Nat) (s : State), Recordable h s → x < 16 → Sized s → NoJobs s → NoBatches s →
    ((s.ctx x).state = .loaded → (s.map x).poison = false → s.glb.dieFail = true → ∃ t, Machine.exec (.contextStart h x) s = .next t ∧
      HostOnly s t ∧ Recorded h stPeerAbsent (low64 s.str.now) s t) ∧
    ((s.ctx x).state = .loaded → NoOutgoing s → s.glb.dieFail = false → (s.map x).poison = false → startShort s x = false →
      (∀ e, e < 2 → sumNat ((holders s (s.ctx x).die).map fun y => (s.ctx y).need e) + (s.ctx x).need e
        ≤ (s.cmp (s.ctx x).die).active e) →
      ∃ t, Machine.exec (.contextStart h x) s = .next t ∧ (t.ctx x).state = .running ∧ (t.ctx x).cause = 0 ∧
        OtherStates x s t ∧ Recorded h stOk (low64 s.str.now) s t) ∧
    ((s.ctx x).state = .loaded → (s.map x).poison = true → ∃ t, Machine.exec (.contextStart h x) s = .next t ∧
      HostOnly s t ∧ Recorded h stOwnerLost (low64 s.str.now) s t) ∧
    ((s.ctx x).state ≠ .loaded → ∃ t, Machine.exec (.contextStart h x) s = .next t ∧
      HostOnly s t ∧ Recorded h stFormat (low64 s.str.now) s t)) ∧
  (∀ (h : HostHdr) (x p m y : Nat) (s : State), Recordable h s → x < 16 → Sized s → NoJobs s → NoBatches s →
    (s.ctx x).state = .loaded → s.glb.dieFail = false → (s.map x).poison = false → startShort s x = false →
    (∀ e, e < 2 → sumNat ((holders s (s.ctx x).die).map fun y => (s.ctx y).need e) + (s.ctx x).need e
      ≤ (s.cmp (s.ctx x).die).active e) →
    producerOf s x 0 = .away p m y → NoOutgoing s → (s.ctx x).aq.free.Nodup →
    ∃ t, Machine.exec (.contextStart h x) s = .next t ∧
      (t.ctx x).aq.granted = (s.ctx x).aq.granted ++ (s.ctx x).aq.free.take (grantable (s.ctx x).aq) ∧
      (t.ctx x).aq.free = (s.ctx x).aq.free.drop (grantable (s.ctx x).aq) ∧
      ((t.ctx x).aq.granted.length + (t.ctx x).aq.entries.length ≤
        max (s.ctx x).aq.depth ((s.ctx x).aq.granted.length + (s.ctx x).aq.entries.length)))

/-- CONTEXT_PREEMPT of a running context completes when every issued instruction and open chain has completed, at once
when there is none; until then the context stays running and the command waits. From pre-empted it completes OK, from
any other state REFUSED_FORMAT, with no change of state. CONTEXT_PREEMPT of the urgent page on a running context with
nothing issued pre-empts it at once, writes no record and counts; on a pre-empted one it only counts. CONTEXT_RESUME
takes a pre-empted context back to running, with its work as it was, and completes OK; from running it completes OK
with no change, from any other state REFUSED_FORMAT. A context command accepted behind one of the same context that
has not completed waits for its turn: a CONTEXT_RESUME behind a CONTEXT_PREEMPT acts when that ends. Readings of the
model it rests on: logs 51, 154. -/
def Obligations.ContextsPreemptAndResume : Prop :=
  (∀ (h : HostHdr) (x : Nat) (s : State), Recordable h s → x < 16 → Sized s → NoJobs s → NoSeqWait s →
    ((s.ctx x).state = .running → allDone s x = true → ∃ t, Machine.exec (.contextPreempt h x) s = .next t ∧
      t.ctx x = { s.ctx x with state := .preempted } ∧ OnlyCtx x s t ∧ Recorded h stOk (low64 s.str.now) s t) ∧
    ((s.ctx x).state = .running → allDone s x = false → ∃ t, Machine.exec (.contextPreempt h x) s = .next t ∧
      HostOnly { s with hif := { s.hif with ctxJobs := [⟨x, .preempt, false, some h⟩] } } t ∧ mayIssue t x = false) ∧
    ((s.ctx x).state = .preempted → ∃ t, Machine.exec (.contextPreempt h x) s = .next t ∧
      (t.ctx x).state = .preempted ∧ OnlyCtx x s t ∧ Recorded h stOk (low64 s.str.now) s t) ∧
    ((s.ctx x).state ≠ .running → (s.ctx x).state ≠ .preempted → ∃ t, Machine.exec (.contextPreempt h x) s = .next t ∧
      HostOnly s t ∧ Recorded h stFormat (low64 s.str.now) s t)) ∧
  (∀ (x : Nat) (s : State), s.live = true → x < 16 → Sized s → NoJobs s → NoSeqWait s → s.hif.fences = [] →
    ((s.ctx x).state = .running ∧ allDone s x = true ∨ (s.ctx x).state = .preempted) →
    ∃ t, Machine.exec (.urgentPreempt x) s = .next t ∧ (t.ctx x).state = .preempted ∧ OtherStates x s t ∧
      t.hif.urgCount = (s.hif.urgCount + 1) % 2 ^ 16 ∧ t.hif.accepted = s.hif.accepted ∧
      ∀ a d, Out.hostWrite a d ∈ t.out → Out.hostWrite a d ∈ s.out) ∧
  (∀ (h : HostHdr) (x : Nat) (s : State), Recordable h s → x < 16 → Sized s → NoJobs s → NoSeqWait s → Enough s →
    ((s.ctx x).state = .preempted → NoBatches s → NoOutgoing s → (s.ctx x).pat.seqd = none → ∃ t, Machine.exec (.contextResume h x) s = .next t ∧
      (t.ctx x).state = .running ∧ (t.ctx x).slots = (s.ctx x).slots ∧ (t.ctx x).issued = (s.ctx x).issued ∧
      (t.ctx x).pairs = (s.ctx x).pairs ∧ (t.ctx x).aq.entries = (s.ctx x).aq.entries ∧ t.bindings = s.bindings ∧
      OtherStates x s t ∧ Recorded h stOk (low64 s.str.now) s t) ∧
    ((s.ctx x).state = .running → ∃ t, Machine.exec (.contextResume h x) s = .next t ∧
      HostOnly s t ∧ Recorded h stOk (low64 s.str.now) s t) ∧
    ((s.ctx x).state ≠ .running → (s.ctx x).state ≠ .preempted → ∃ t, Machine.exec (.contextResume h x) s = .next t ∧
      HostOnly s t ∧ Recorded h stFormat (low64 s.str.now) s t)) ∧
  (∀ (h : HostHdr) (x im vs fast slow : Nat) (i : Instr) (s : State), s.live = true →
    (∃ j ∈ s.hif.ctxJobs, j.x = x ∧ j.h.isSome = true) →
    i ∈ [Instr.patternLoad h x im vs fast slow, .patternUnload h x, .contextStart h x, .contextPreempt h x, .contextResume h x,
      .contextReset h x] →
    ∃ t, Machine.exec i s = .next t ∧
      HostOnly { s with hif := { s.hif with ctxJobs := s.hif.ctxJobs ++ [⟨x, .later i, false, some h⟩] } } t) ∧
  (∀ (g h : HostHdr) (x idx : Nat) (st : Stamp) (s : State), s.live = true → x < 16 → Sized s → NoSeqWait s → Enough s → NoBatches s →
    NoOutgoing s → (s.ctx x).pat.seqd = none → s.hif.quiescing = false → s.upd.stepWait = [] → s.boot.delayedLoads = [] →
    s.hif.ctxJobs = [⟨x, .preempt, false, some h⟩, ⟨x, .later (.contextResume g x), false, some g⟩] →
    (s.ctx x).state = .running → (s.ctx x).issued = [] → (s.ctx x).chain = none →
    ∃ t, Machine.exec (.instructionComplete x st idx) s = .next t ∧ (t.ctx x).state = .running ∧ t.hif.ctxJobs = [] ∧
      OtherStates x s t)

/-- CONTEXT_RESET, from a ring or the urgent page, leaves the context loaded and discards its entries, slots, stored
pairs, block inputs, chains and bindings; it poisons its flag context, whose waits end, and keeps its region table.
PATTERN_UNLOAD empties a context whose regions no snapshot pins: its regions, bindings, buckets and flag map are free
and its poison ends. While a pin holds a region of it the command waits. A context command from a state that its row
does not list completes REFUSED_FORMAT and changes nothing; the urgent page skips it and logs event 0x22. Readings of
the model it rests on: logs 66, 83. -/
def Obligations.ContextsResetAndUnload : Prop :=
  (∀ (h : HostHdr) (x : Nat) (s : State), s.live = true → TablesOk s → x < 16 → Sized s → NoJobs s → (s.ctx x).state ≠ .empty →
    ∃ t u, Machine.exec (.contextReset h x) s = .next t ∧ Machine.exec (.urgentReset x) s = .next u ∧
      ∀ v, v = t ∨ v = u → (v.ctx x).state = .loaded ∧ (v.ctx x).slots = [] ∧ (v.ctx x).pairs = [] ∧ (v.ctx x).issued = [] ∧
        (v.ctx x).chain = none ∧ (v.ctx x).aq.entries = [] ∧ (v.ctx x).gq.entries = [] ∧
        (∀ b ∈ (s.ctx x).aq.granted, b ∈ (v.ctx x).aq.granted) ∧ ((s.ctx x).aq.entries = [] → (v.ctx x).aq.granted = (s.ctx x).aq.granted) ∧
        (∀ b ∈ v.bindings, b.ctx ≠ x) ∧ (v.map x).poison = true ∧
        (∀ w ∈ v.flg.waits, w.fctx ≠ x) ∧ v.regions.map (·.1) = s.regions.map (·.1) ∧
        fld v oRstCause 4 4 = 7 ∧ fld v oRstCause 10 1 = 1 ∧ fld v oRstCause 16 4 = x) ∧
  (∀ (h : HostHdr) (x : Nat) (s : State), s.live = true → x < 16 → Sized s → NoJobs s → (s.ctx x).state ≠ .empty →
    (ctxPinned s x = false → ∃ t, Machine.exec (.patternUnload h x) s = .next t ∧ (t.ctx x).state = .empty ∧
      (∀ e ∈ t.regions, e.2.ctx ≠ x) ∧ (∀ b ∈ t.bindings, b.ctx ≠ x) ∧ (∀ b ∈ t.red.buckets, b.ctx ≠ x) ∧
      (t.map x).valid = false ∧ (t.map x).poison = false ∧ (∀ o ∈ t.flg.pageOwner, o.2 ≠ x) ∧ t.hif.ctxJobs = []) ∧
    (ctxPinned s x = true → ∃ t, Machine.exec (.patternUnload h x) s = .next t ∧ (t.ctx x).state = .loaded ∧
      t.hif.ctxJobs = [⟨x, .unload, false, some h⟩])) ∧
  (∀ (h : HostHdr) (x : Nat) (s : State), Recordable h s → x < 16 → (s.ctx x).state = .empty → s.hif.fences = [] → NoJobs s →
    (∀ c, c = Instr.contextStart h x ∨ c = .contextPreempt h x ∨ c = .contextResume h x ∨ c = .contextReset h x ∨
      c = .patternUnload h x → ∃ t, Machine.exec c s = .next t ∧ HostOnly s t ∧ Recorded h stFormat (low64 s.str.now) s t) ∧
    (∀ c a, (c = Instr.urgentPreempt x ∧ a = 1) ∨ (c = .urgentReset x ∧ a = 2) → ∀ i, findIdxN (·.isNone) s.glb.log 0 = some i →
      ∃ t, Machine.exec c s = .next t ∧ HostOnly s t ∧ t.out = s.out ∧
        nth none t.glb.log i = some ⟨s.glb.seq, 0x22, stFormat, agHub, s.glb.time, none, 0x10, x, a⟩))

/-- QUIESCE, from a ring or the urgent page, pre-empts every running context and marks it as its own: when each has
nothing issued and no update pass runs, it completes at once; RESUME_ALL brings back those it pre-empted and leaves
those of CONTEXT_PREEMPT. When a wait reaches a nonzero WARN_MS, ANT_STAT.TIMEOUT is set and the context's vector
raised, once per wait: a wait that has been reported is not reported again; when it reaches a nonzero STOP_MS the
context stops with cause 0x0A. A context that does not wait is left alone. Readings of the model it rests on: logs 51,
110. -/
def Obligations.QuiesceAndWaitLimitsAct : Prop :=
  ((∀ (h : HostHdr) (s : State), Recordable h s → Sized s → NoJobs s → s.hif.quiesceJobs = [] → NoSeqWait s →
    s.upd.pass = none → (∀ x, (s.ctx x).state = .running → allDone s x = true) →
    ∃ t u, Machine.exec (.quiesce h) s = .next t ∧ Machine.exec .urgentQuiesce s = .next u ∧
      Recorded h stOk (low64 s.str.now) s t ∧ u.hif.urgCount = (s.hif.urgCount + 1) % 2 ^ 16 ∧
      ∀ v, v = t ∨ v = u → v.hif.quiesced = true ∧ v.hif.quiesceJobs = [] ∧
        ∀ x, (v.ctx x).state = (if (s.ctx x).state = .running then .preempted else (s.ctx x).state) ∧
          (v.ctx x).byQuiesce = (if (s.ctx x).state = .running then true else (s.ctx x).byQuiesce)) ∧
  (∀ (h : HostHdr) (s : State), Recordable h s → Sized s → NoJobs s → s.hif.quiesceJobs = [] → NoSeqWait s → Enough s →
    NoBatches s → NoOutgoing s → ∃ t u, Machine.exec (.resumeAll h) s = .next t ∧ Machine.exec .urgentResumeAll s = .next u ∧
      Recorded h stOk (low64 s.str.now) s t ∧ u.hif.urgCount = (s.hif.urgCount + 1) % 2 ^ 16 ∧
      ∀ v, v = t ∨ v = u → v.hif.quiesced = false ∧
        ∀ x, (v.ctx x).state = (if (s.ctx x).state = .preempted ∧ (s.ctx x).byQuiesce = true then .running
          else (s.ctx x).state))) ∧
  (∀ (x : Nat) (s : State), s.live = true → TablesOk s → x < 16 → Sized s → NoJobs s →
    (isWaiting s x = true → fld s (oAnt 0) 0 16 ≠ 0 → (s.ctx x).warned = false →
      ∃ t, Machine.exec (.contextWaitWarn x) s = .next t ∧ fld t (oAnt 4) 2 1 = 1 ∧ fld t oIrqRaw (ctxVec x) 1 = 1 ∧
        t.ctx x = { s.ctx x with warned := true } ∧ OtherStates x s t) ∧
    (isWaiting s x = true → fld s (oAnt 0) 16 16 ≠ 0 →
      ∃ t, Machine.exec (.contextWaitStop x) s = .next t ∧ fld t (oAnt 4) 2 1 = 1 ∧ fld t oIrqRaw (ctxVec x) 1 = 1 ∧
        t.ctx x = { s.ctx x with state := .stopped, cause := 0x0A } ∧ OtherStates x s t) ∧
    ((s.ctx x).warned = true ∨ fld s (oAnt 0) 0 16 = 0 → ∃ t, Machine.exec (.contextWaitWarn x) s = .next t ∧ HostOnly s t) ∧
    (fld s (oAnt 0) 16 16 = 0 → ∃ t, Machine.exec (.contextWaitStop x) s = .next t ∧ HostOnly s t) ∧
    (isWaiting s x = false → ∃ t u, Machine.exec (.contextWaitWarn x) s = .next t ∧ HostOnly s t ∧
      Machine.exec (.contextWaitStop x) s = .next u ∧ HostOnly s u))

/-! ### Sequencers -/

/-- A tile or vector instruction (`seqRow`: TMM_F, TMM_B, TMM_W, VADD, VSUB, VMUL, VFMA, VDIV, VSQRT, VMIN, VMAX,
VCVT, VFUNC, VSUM, VMAXR, VLNORM, VRNORM, VSMX, VSMXM, VTOPK, VCOUNT, VSCAN, VGATHER, VSCATTER, VIALU, VRAND and
VDROP) that comes next in its phase joins the issued instructions of its context, with its arrays. It starts when no
earlier issued one still writes what it reads or writes and what it waits for is there: then its result is formed from
the operands as they are, and one that reads an operand demoted counts in DEMOTE_CNT. No byte of memory changes. One
that may not issue changes nothing. INSTRUCTION_COMPLETE makes the result of a started instruction visible: its bytes,
and nothing else in memory while its phase goes on. The first non-finite element since the flag was cleared is
recorded with its place. A TMM_W that holds its result keeps its accumulators in the chain. Where no such instruction
has started, nothing changes. Readings of the model it rests on: logs 42, 43, 112, 118, 136, 138, 140. -/
def Obligations.InstructionsIssueAndComplete : Prop :=
  (∀ (c : Instr) (x idx : Nat) (st : Stamp) (w : Work) (s : State), s.live = true → x < 16 → Sized s →
    seqRow x st idx w = some c →
    (∀ (pos : Nat) (l : List Nat) (i : Issued), tempoOpen (s.ctx x) idx st = true → issuePos s x st idx = some pos →
      (mayIssue s x = true ∨ (preempting s x = true ∧ (s.ctx x).state = .running ∧
        ∃ v, w = .tile 3 v ∧ v.cont = true ∧ (s.ctx x).chain.isSome = true)) →
      issueArrays s x st idx pos w = some l → (∀ v, w = .tile 3 v → wHeldBack s x v = false) →
      (∀ j ∈ (s.ctx x).issued, j.started = true) → tempoLate (s.ctx x) idx st = false →
      i = ⟨idx, pos, w, st, l, demotedOperands s (atOf s x st) idx w, false, Result.none⟩ →
      ∃ t, Machine.exec c s = .next t ∧
        HostOnly { (if startsNow x i s = true ∧ i.demoted ≠ [] then bump (oPwr 0x44) 16 16 1 s else s) with
          ctxs := t.ctxs, cmps := t.cmps } t ∧
        (∀ y, y ≠ x → t.ctx y = s.ctx y) ∧
        (startsNow x i s = false → HostOnly (issuedAs x i s) t) ∧
        (startsNow x i s = true →
          (t.ctx x).issued = (s.ctx x).issued ++
            [{ i with started := true, result := startResult (atStart x i s) (atOf (atStart x i s) x st) i }])) ∧
    (issuePos s x st idx = none ∨ (s.ctx x).state ≠ .running ∨ tempoOpen (s.ctx x) idx st = false ∨
        (∃ pos, issuePos s x st idx = some pos ∧ issueArrays s x st idx pos w = none) ∨
        (∃ v, w = .tile 3 v ∧ wHeldBack s x v = true) →
      ∃ t, Machine.exec c s = .next t ∧ HostOnly s t)) ∧
  (∀ (x idx : Nat) (st : Stamp) (s : State), s.live = true → TablesOk s → x < 16 → Sized s → NoJobs s → NoBatches s →
    (s.ctx x).pat.seqd = none →
    (∀ i, (s.ctx x).issued.find? (fun i => i.idx == idx && i.stamp == st && i.started) = some i →
      GoesOn s x st → (st.phase = phB → (s.ctx x).firstDx ≠ some idx ∨ (s.ctx x).first = true) →
      (∀ v, i.work ≠ .tile 3 v) →
      ∃ t, Machine.exec (.instructionComplete x st idx) s = .next t ∧ t.hdm = (applyWrites x i.result.writes s).hdm ∧
        (∀ b, (∀ w ∈ i.result.writes, b < w.1 ∨ w.1 + w.2.length ≤ b) → memByte t b = memByte s b) ∧
        (t.cmp (s.ctx x).die).sram = ((applyWrites x i.result.writes s).cmp (s.ctx x).die).sram ∧
        (∀ y, y ≠ x → t.ctx y = s.ctx y) ∧
        (t.ctx x).issued.map (fun j => (j.idx, j.stamp)) =
          (dropFirst (· == i) (s.ctx x).issued).map (fun j => (j.idx, j.stamp)) ∧
        (∀ w, slotRec? s x st = some w → ∃ v ∈ (t.ctx x).slots, v.stamp = slotOf st ∧ v.done = w.done ++ [(st.phase, i.pos)]) ∧
        (∀ slot row col kind l, i.result.bad = (slot, row, col, kind) :: l → (s.ctx x).die < s.cmps.length →
          fld s (oCmp (s.ctx x).die 0x200) 0 1 = 0 →
          fld t (oCmp (s.ctx x).die 0x200) 0 1 = 1 ∧ (t.cmp (s.ctx x).die).nfRow = row ∧
          (t.cmp (s.ctx x).die).nfCol = col ∧ (t.cmp (s.ctx x).die).nfTid = dTid ((s.ctx x).desc slot) ∧
          (t.cmp (s.ctx x).die).nfKind = kind)) ∧
    (∀ i v, (s.ctx x).issued.find? (fun i => i.idx == idx && i.stamp == st && i.started) = some i → st.phase = phW →
      i.work = .tile 3 v → v.hold = true → NoOutgoing s →
      ∃ t l, Machine.exec (.instructionComplete x st idx) s = .next t ∧ (t.ctx x).chain = some ⟨l, i.result.acc, i.arrays⟩ ∧
        (idx, st) ∈ l ∧ t.hdm = (applyWrites x i.result.writes s).hdm) ∧
    ((s.ctx x).issued.find? (fun i => i.idx == idx && i.stamp == st && i.started) = none →
      ∃ t, Machine.exec (.instructionComplete x st idx) s = .next t ∧ HostOnly s t))

/-- F of a context starts with the entry of lowest stride key: the entry is popped, the slot holds its buffer and its
stamp, every region that F reads binds, and STR_NOW is offered the stamp. When no entry can start, nothing changes. X
of the slot whose gradient entry comes next starts for a context that recomputes; B pops that entry and takes its
buffer; each waits for a mate of its group on the same engine whose key is lower, and for the W that WPLACE puts
before it. W of a window starts with no unit done. Each needs its conditions; without them, or while a mate comes
first, nothing changes. Readings of the model it rests on: logs 20, 40, 41, 85, 88, 89. -/
def Obligations.PhasesStart : Prop :=
  (∀ (x : Nat) (s : State), s.live = true → x < 16 → Sized s →
    (∀ e st, NoBatches s → NoOutgoing s → (s.ctx x).pat.seqd = none → fCandidate s x = some (e, st) → fReady s x e st = true → fYields s x st = false →
      (s.ctx x).phaseList phF ≠ [] → slotRec? s x st = none →
      ∃ t, Machine.exec (.phaseFStart x) s = .next t ∧
        (t.ctx x).slots = (s.ctx x).slots ++ [newSlot (s.ctx x) st e.desc] ∧
        (t.ctx x).aq.entries = dropFirst (· == e) (s.ctx x).aq.entries ∧
        (∀ r ∈ readRegions s x, ∃ g, bindGen s x st r = some g ∧ ⟨slotOf st, x, r, g⟩ ∈ t.bindings) ∧
        (∀ b ∈ s.bindings, b ∈ t.bindings) ∧ OtherStates x s t ∧ (t.ctx x).state = .running ∧
        t.str.now = (if strideAhead { st with phase := phF } s.str.now then { st with phase := phF } else s.str.now) ∧
        ((s.ctx x).first = true → (t.ctx x).injected =
          ((s.ctx x).injected.filter fun i => i.1 != st.step) ++ [(st.step, injectedOf (s.ctx x) st.step + 1)]) ∧
        t.hdm = s.hdm) ∧
    ((∀ e st, fCandidate s x = some (e, st) → fReady s x e st = false ∨ fYields s x st = true) →
      ∃ t, Machine.exec (.phaseFStart x) s = .next t ∧ HostOnly s t)) ∧
  (∀ (x : Nat) (s : State), s.live = true → x < 16 → Sized s →
    (∀ st w v key fwd, NoBatches s → NoOutgoing s → (s.ctx x).pat.seqd = none → slotRec? s x st = some w → bCandidate s x = some v →
      v.stamp = slotOf st → nextBack s x = some (key, true, fwd) → mateFirst s x key fwd = false →
      (w.done.filter fun d => d.1 == phX).length < ((s.ctx x).phaseList phX).length →
      ∃ t, Machine.exec (.phaseXStart x st) s = .next t ∧ OtherStates x s t ∧
        (t.ctx x).slots = (s.ctx x).slots.map (fun v => if v.stamp = slotOf st then { v with xStarted := true } else v) ∧
        (t.ctx x).gq = (s.ctx x).gq ∧ t.hdm = s.hdm) ∧
    (∀ w e key fwd, NoBatches s → NoOutgoing s → (s.ctx x).pat.seqd = none → bCandidate s x = some w → gradEntry (s.ctx x) w.stamp = some e →
      nextBack s x = some (key, false, fwd) → mateFirst s x key fwd = false →
      slotRec? s x w.stamp = some w → (w.done.filter fun d => d.1 == phB).length < ((s.ctx x).phaseList phB).length →
      ∃ t, Machine.exec (.phaseBStart x) s = .next t ∧ OtherStates x s t ∧ t.hdm = s.hdm ∧
        (t.ctx x).slots = (s.ctx x).slots.map (fun v => if v.stamp = slotOf w.stamp then
          { v with bStarted := true, gBuf := some e.desc.buf, gTexp := e.desc.texp } else v) ∧
        (t.ctx x).gq.entries = dropFirst (· == e) (s.ctx x).gq.entries) ∧
    (∀ n k, (s.ctx x).state = .running → preempting s x = false → wReady s x n k = true →
      (s.ctx x).units (stepM s n) k ≠ [] →
      ∃ t, Machine.exec (.phaseWStart x n k) s = .next t ∧ (t.ctx x).wActive = some (n, k) ∧ (t.ctx x).wDone = [] ∧
        HostOnly { s with ctxs := t.ctxs, str := t.str } t ∧ ∀ y, y ≠ x → t.ctx y = s.ctx y) ∧
    (∀ key fwd, nextBack s x = some (key, true, fwd) → ∃ u, Machine.exec (.phaseBStart x) s = .next u ∧ HostOnly s u ∧
      ∀ st, (∀ v, bCandidate s x = some v → v.stamp ≠ slotOf st) ∨ mateFirst s x key fwd = true →
        ∃ t, Machine.exec (.phaseXStart x st) s = .next t ∧ HostOnly s t) ∧
    (∀ key fwd, nextBack s x = some (key, false, fwd) → (∀ st, ∃ t, Machine.exec (.phaseXStart x st) s = .next t ∧ HostOnly s t) ∧
      ((∀ w, bCandidate s x = some w → gradEntry (s.ctx x) w.stamp = none) ∨ mateFirst s x key fwd = true →
        ∃ u, Machine.exec (.phaseBStart x) s = .next u ∧ HostOnly s u)) ∧
    (nextBack s x = none → ∀ st, ∃ t u, Machine.exec (.phaseXStart x st) s = .next t ∧ HostOnly s t ∧
      Machine.exec (.phaseBStart x) s = .next u ∧ HostOnly s u) ∧
    (∀ n k, (s.ctx x).state ≠ .running ∨ preempting s x = true ∨ wReady s x n k = false →
      ∃ t, Machine.exec (.phaseWStart x n k) s = .next t ∧ HostOnly s t))

/-- An offloaded block input leaves its buffer when its copy to the slow tier is whole; its fetch-back starts when a
slot LOOKAHEAD before it has started B or its own gradient entry has come, and completes. Readings of the model it
rests on: log 40. -/
def Obligations.OffloadActs : Prop :=
  ∀ (x : Nat) (st : Stamp) (w : SlotWork) (s : State), s.live = true → x < 16 → Sized s → slotRec? s x st = some w →
    (∀ b, NoOutgoing s → w.input = .offloading → w.aBuf = some b → ∃ t, Machine.exec (.offloadComplete x st) s = .next t ∧ t.hdm = s.hdm ∧
      (t.ctx x).slots = (s.ctx x).slots.map (fun v => if v.stamp = slotOf st then
        { v with input := .slow, aBuf := none, inBytes := memRead s (bufAddr (s.ctx x).aq b) (s.ctx x).aq.bufBytes,
                 inBad := (upto (cdiv (s.ctx x).aq.bufBytes 64)).filter fun k => poisoned s (bufAddr (s.ctx x).aq b + 64 * k) }
        else v) ∧
      (b ∈ (t.ctx x).aq.free ∨ b ∈ (t.ctx x).aq.granted)) ∧
    (w.input = .slow → (s.ctx x).state = .running → ((gradEntry (s.ctx x) st).isSome = true ∨ ∃ v ∈ (s.ctx x).slots, v.stamp.step = st.step ∧
        v.stamp.slot + (s.ctx x).lookahead = st.slot ∧ v.bStarted = true) →
      ∃ t, Machine.exec (.offloadFetchBack x st) s = .next t ∧ OnlyCtx x s t ∧ t.ctx x = { s.ctx x with
        slots := (s.ctx x).slots.map fun v => if v.stamp = slotOf st then { v with input := .fetching } else v }) ∧
    (w.input = .fetching → ∃ t, Machine.exec (.fetchBackComplete x st) s = .next t ∧ OnlyCtx x s t ∧
      t.ctx x = { s.ctx x with slots := (s.ctx x).slots.map fun v => if v.stamp = slotOf st then { v with input := .back } else v }) ∧
    (w.input = .fast → ∃ t u v, Machine.exec (.offloadComplete x st) s = .next t ∧ HostOnly s t ∧
      Machine.exec (.offloadFetchBack x st) s = .next u ∧ HostOnly s u ∧
      Machine.exec (.fetchBackComplete x st) s = .next v ∧ HostOnly s v)

/-- An active array that fails its check is replaced by a spare of its engine, which takes its logical index, and no
context stops or changes, but that the open tempo blocks of a context that executes something again may go on late;
the failure is recorded and vector 1 raised. A failed spare is lost and nothing else changes. A tempo block takes its
origin at the array cycle given, once what its instructions read is there and no update instruction of a vector-site
pass is in progress; a block of the same run that stands already bars it. Readings of the model it rests on: logs 42,
144, 145. -/
def Obligations.ArrayChecksAct : Prop :=
  (∀ (d p cause q : Nat) (l : List Nat) (s : State), s.live = true → TablesOk s → d < 4 → p < 39 → Sized s → s.cmps.length = 4 →
    (∀ c ∈ s.cmps, c.arrays.length = 39) → Enough s →
    (((s.cmp d).arr p).state = .active → (s.cmp d).inState (physEngine p) .spare = q :: l →
      ∃ t, Machine.exec (.arrayCheckFail d p cause) s = .next t ∧ (t.cmp d).arr p = ⟨.failed, 31, cause⟩ ∧
        (t.cmp d).arr q = ⟨.active, ((s.cmp d).arr p).logical, 0⟩ ∧ (∀ r, r ≠ p → r ≠ q → (t.cmp d).arr r = (s.cmp d).arr r) ∧
        (∀ x, t.ctx x = if x ∈ usersOf s d (physEngine p * 32 + ((s.cmp d).arr p).logical) ∧ (s.ctx x).tempo = true
          then { s.ctx x with tempos := (s.ctx x).tempos.map fun b => { b with hit := true } } else s.ctx x) ∧
        fld t (oCmp d 4) 24 1 = 1 ∧ fld t oIrqRaw 1 1 = 1) ∧
    (((s.cmp d).arr p).state = .spare → ∃ t, Machine.exec (.spareCheckFail d p cause) s = .next t ∧
        (t.cmp d).arr p = ⟨.failed, 31, cause⟩ ∧ (∀ r, r ≠ p → (t.cmp d).arr r = (s.cmp d).arr r) ∧
        HostOnly { s with cmps := t.cmps, regs := t.regs } t ∧ fld t (oCmp d 4) 24 1 = 1 ∧ fld t oIrqRaw 1 1 = 1) ∧
    (((s.cmp d).arr p).state = .failed → ∃ t u, Machine.exec (.arrayCheckFail d p cause) s = .next t ∧ HostOnly s t ∧
        Machine.exec (.spareCheckFail d p cause) s = .next u ∧ HostOnly s u)) ∧
  (∀ (x idx cycle : Nat) (s : State), s.live = true → x < 16 → Sized s →
    (∀ st, (s.ctx x).tempo = true → (s.ctx x).state = .running → bit (nth 0 (s.ctx x).pat.tempo idx) 0 = true →
      tempoStamp s x idx = some st → (∀ b ∈ (s.ctx x).tempos, b.holds (s.ctx x) idx st = false) → originMet s x idx st = true →
      (vectorPass s (s.ctx x).die = true → Config.updateBusy s.free = false) →
      ∃ t, Machine.exec (.tempoBlockOrigin x idx cycle) s = .next t ∧
        OnlyCtx x { s with free := if vectorPass s (s.ctx x).die then s.free + 1 else s.free } t ∧
        t.ctx x = { s.ctx x with tempos := (s.ctx x).tempos ++ [⟨idx, st, cycle, idx, false⟩] }) ∧
    (vectorPass s (s.ctx x).die = true → Config.updateBusy s.free = true →
      ∃ t, Machine.exec (.tempoBlockOrigin x idx cycle) s = .next t ∧ HostOnly { s with free := t.free } t) ∧
    ((s.ctx x).tempo = false ∨ (s.ctx x).state ≠ .running ∨ tempoStamp s x idx = none ∨
        (∃ st, tempoStamp s x idx = some st ∧ (originMet s x idx st = false ∨
          ∃ b ∈ (s.ctx x).tempos, b.holds (s.ctx x) idx st = true)) →
      ∃ t, Machine.exec (.tempoBlockOrigin x idx cycle) s = .next t ∧ HostOnly s t))

/-! ### What arrives for contexts -/

/-- A queue entry that passes R218 is enqueued with the port as SRC and its data in its buffer, held when R47 holds
it; the credit it used is gone. One that R47 discards, or R218 refuses, counts, and its buffer serves further credits.
Queue credits that return go to the context that sends to that queue; an entry that waited for one leaves with the
first of them, as a transfer of TKIND 0x1 that names its buffer. A queue entry of a die joins the queue its descriptor
names, its data standing in the buffer already. Readings of the model it rests on: log 87. -/
def Obligations.QueueEntriesAndCreditsArrive : Prop :=
  (∀ (p srcmod b x q : Nat) (d : QDesc) (data : List Byte) (s : State), s.live = true → TablesOk s → p < 16 → x < 16 → Sized s →
    q < 2 → (s.port p).carrying = true →
    (entryBad (s.ctx x) q b d = false → d.kind ≠ 2 → d.bytes ≤ data.length →
      verdict s d.stamp = .hold ∨ (verdict s d.stamp = .accept ∧ ((s.ctx x).queue q).seen.contains d.stamp = false) →
      ∃ t, Machine.exec (.queueEntryArrival p srcmod b x q d data) s = .next t ∧
        ((t.ctx x).queue q).entries = ((s.ctx x).queue q).entries ++
          [⟨{ d with src := p, ctx := x, q := q }, decide (verdict s d.stamp = .hold)⟩] ∧
        ((t.ctx x).queue q).granted = dropFirst (· == b) ((s.ctx x).queue q).granted ∧
        memRead t (((s.ctx x).queue q).base + b * ((s.ctx x).queue q).bufBytes) d.bytes = data.take d.bytes ∧
        MemoryOutside (((s.ctx x).queue q).base + b * ((s.ctx x).queue q).bufBytes) d.bytes s t ∧
        (∀ y, y ≠ x → t.ctx y = s.ctx y) ∧
        HostOnly { s with ctxs := t.ctxs, str := t.str, hdm := t.hdm, poison := t.poison, bias := t.bias } t ∧
        t.str.now = (if verdict s d.stamp = .accept ∧ strideAhead d.stamp s.str.now then d.stamp else s.str.now)) ∧
    (entryBad (s.ctx x) q b d = false → d.kind ≠ 2 → (∃ r, verdict s d.stamp = .discard r) →
      ∃ t, Machine.exec (.queueEntryArrival p srcmod b x q d data) s = .next t ∧
        ((t.ctx x).queue q).entries = ((s.ctx x).queue q).entries ∧ t.str = s.str ∧
        (b ∈ ((t.ctx x).queue q).free ∨ b ∈ ((t.ctx x).queue q).granted) ∧
        fld t oStrCfg 16 16 = min 65535 (fld s oStrCfg 16 16 + 1)) ∧
    (entryBad (s.ctx x) q b d = true ∨ (d.kind ≠ 2 ∧ verdict s d.stamp = .accept ∧
        ((s.ctx x).queue q).seen.contains d.stamp = true) → fld s (oLnk p 0x30) 1 1 = 0 →
      ∃ t, Machine.exec (.queueEntryArrival p srcmod b x q d data) s = .next t ∧
        ((t.ctx x).queue q).entries = ((s.ctx x).queue q).entries ∧ t.str = s.str ∧ fld t (oLnk p 0x200) 4 1 = 1 ∧
        fld t oStrCfg 16 16 = min 65535 (fld s oStrCfg 16 16 + 1))) ∧
  (∀ (p m z q y : Nat) (bufs : List Nat) (s : State), s.live = true → p < s.ports.length → Sized s → (s.port p).carrying = true →
    q < 2 → creditTaker s p m z q = some y →
    (NoOutgoing s → ∃ t, Machine.exec (.queueCreditReturn p m z q bufs) s = .next t ∧
      HostOnly { s with ctxs := t.ctxs } t ∧ (∀ x, x ≠ y → t.ctx x = s.ctx x) ∧
      t.ctx y = (if q = 0 then { s.ctx y with downCredits := (s.ctx y).downCredits ++ bufs }
        else { s.ctx y with upCredits := (s.ctx y).upCredits ++ bufs })) ∧
    (∀ o b l, (∀ x, x ≠ y → (s.ctx x).outgoing = []) → (s.ctx y).outgoing = [o] → o.q = q → bufs = b :: l →
      (s.ctx y).downCredits = [] → (s.ctx y).upCredits = [] →
      ∃ t body, Machine.exec (.queueCreditReturn p m z q bufs) s = .next t ∧ (t.ctx y).outgoing = [] ∧
        HostOnly { s with ctxs := t.ctxs, ports := t.ports } t ∧
        (if q = 0 then (t.ctx y).downCredits = l else (t.ctx y).upCredits = l) ∧
        body = xferBytes ⟨1, 0, 0, 0, o.data.length, true, false, z, q, b, false⟩ ++ o.data
          ++ descBytes { o.desc with buf := b, ctx := z, q := q } ∧
        (t.port p).tx = (s.port p).tx ++ [⟨sendVc (s.ctx y) q, m, body, 0, none, .entry y o⟩])) ∧
  (∀ (h : IxHdr) (data : List Byte) (x q : Nat) (d : QDesc) (s : State), s.live = true → TablesOk s → Comes 5 h data s →
    data.length = 64 → d = descOf data → x = d.ctx → q = d.q → x < 16 → q < 2 → Sized s →
    entryBad (s.ctx x) q d.buf d = false → d.kind ≠ 2 →
    verdict s d.stamp = .hold ∨ (verdict s d.stamp = .accept ∧ ((s.ctx x).queue q).seen.contains d.stamp = false) →
    ∃ t, Machine.exec (.qent h data) s = .next t ∧
      ((t.ctx x).queue q).entries = ((s.ctx x).queue q).entries ++
        [⟨{ d with src := 0x20, ctx := x, q := q }, decide (verdict s d.stamp = .hold)⟩] ∧
      ((t.ctx x).queue q).granted = dropFirst (· == d.buf) ((s.ctx x).queue q).granted ∧ (∀ y, y ≠ x → t.ctx y = s.ctx y) ∧
      HostOnly { s with ctxs := t.ctxs, str := t.str, dies := t.dies } t ∧
      t.str.now = (if verdict s d.stamp = .accept ∧ strideAhead d.stamp s.str.now then d.stamp else s.str.now))

/-- The owner of a shard answers a gather request with the bytes of the generation asked for while it is LIVE, keeps
the request while it is PENDING, and else answers that it is absent; R47 holds or discards it before that. A gather
response lands its shard in a receive window that admits it and in the gathered slot, which turns LIVE, and the
newest, with the last shard; one that tells that the generation is absent stops the context with EXHAUSTED. Readings
of the model it rests on: logs 21, 60, 127. -/
def Obligations.GathersAct : Prop :=
  (∀ (p m : Nat) (h : GatherHdr) (s : State), s.live = true → p < s.ports.length → (s.port p).carrying = true →
    (gatherClass s h = .accept →
    (∀ v, (s.region h.region).owned = true → (s.region h.region).liveSlot h.gen = some v →
      ∃ t win, Machine.exec (.gatherRequest p m h) s = .next t ∧
        HostOnly { s with ports := t.ports, free := t.free, str := t.str } t ∧
        t.str.now = (if strideAhead h.stamp s.str.now then h.stamp else s.str.now) ∧
        win < 64 ∧ (t.port p).tx = (s.port p).tx ++ [⟨7, m, xferBytes ⟨4, win, 0, h.offset, h.bytes, true, false, 0, 0, 0, false⟩
          ++ versionData s (s.region h.region) v (slotFrom s (s.region h.region)) h.bytes ++ gatherBytes { h with kind := 1 }, 0,
          none, .nothing⟩]) ∧
    ((s.region h.region).owned = true → (s.region h.region).liveSlot h.gen = none →
      (∃ v ∈ (s.region h.region).slots, v.state = .pending ∧ v.gen = h.gen) →
      ∃ t, Machine.exec (.gatherRequest p m h) s = .next t ∧
        HostOnly { s with heldGathers := s.heldGathers ++ [⟨p, m, h⟩], str := t.str } t) ∧
    ((s.region h.region).owned = false ∨ ((s.region h.region).liveSlot h.gen = none ∧
        ∀ v ∈ (s.region h.region).slots, ¬ (v.state = .pending ∧ v.gen = h.gen)) →
      ∃ t win, Machine.exec (.gatherRequest p m h) s = .next t ∧
        HostOnly { s with ports := t.ports, free := t.free, str := t.str } t ∧
        (t.port p).tx = (s.port p).tx ++ [⟨7, m, xferBytes ⟨4, win, 0, h.offset, 0, true, false, 0, 0, 0, false⟩
          ++ gatherBytes { h with kind := 2 }, 0, none, .nothing⟩])) ∧
    (gatherClass s h = .hold → ∃ t, Machine.exec (.gatherRequest p m h) s = .next t ∧
      HostOnly { s with heldArr := s.heldArr ++ [(0, .gatherRequest p m h)] } t) ∧
    (∀ row, gatherClass s h = .discard row → TablesOk s → ∃ t, Machine.exec (.gatherRequest p m h) s = .next t ∧
      HostOnly { s with regs := t.regs } t ∧ OnlyReg oStrCfg s t ∧
      fld t oStrCfg 16 16 = min 65535 (fld s oStrCfg 16 16 + 1))) ∧
  (∀ (p m k r : Nat) (h : GatherHdr) (data : List Byte) (v : VSlot) (s : State), s.live = true → TablesOk s →
    (s.port p).carrying = true → gatherClass s h = .accept → gatherEntry s m h = some (r, k) → NoBatches s → NoJobs s → Sized s →
    (s.region r).slots.find? (fun v => (v.state == .pending || v.state == .restoring) && v.gen == h.gen) = some v →
    (s.region r).ctx < 16 → (s.region r).landed ≠ [] →
    (h.kind = 1 → h.offset + data.length ≤ versionBytes s (s.region r).ctx (s.region r).localIdx → v.dying = false →
      (s.region (r + 1)).newest = some h.gen →
      ∃ t, Machine.exec (.gatherResponse p m h data) s = .next t ∧ memRead t (v.loc + h.offset) data.length = data ∧
        (gatherWindow s p m h data = none → MemoryOutside (v.loc + h.offset) data.length s t) ∧
        (∀ w a, gatherWindow s p m h data = some w → a = windowAddr s p w h.offset →
          (∀ b, (b < v.loc + h.offset ∨ v.loc + h.offset + data.length ≤ b) → (b < a ∨ a + data.length ≤ b) →
            memByte t b = memByte s b) ∧
          (a + data.length ≤ v.loc + h.offset ∨ v.loc + h.offset + data.length ≤ a → memRead t a data.length = data)) ∧
        t.str.now = (if strideAhead h.stamp s.str.now then h.stamp else s.str.now) ∧
        (¬ (∀ j ∈ members s (s.region r).grp, j.1 = k ∨ j.1 ∈ (s.region r).landed) →
          k ∈ (t.region r).landed ∧ (t.region r).slots = (s.region r).slots) ∧
        ((∀ j ∈ members s (s.region r).grp, j.1 = k ∨ j.1 ∈ (s.region r).landed) →
          (∀ u ∈ (s.region r).slots, u = v ∨ u.state = .free) →
          (t.region r).landed = [] ∧ (t.region r).newest = some h.gen)) ∧
    (h.kind = 2 → ∃ t, Machine.exec (.gatherResponse p m h data) s = .next t ∧ t.hdm = s.hdm ∧ t.regions = s.regions ∧
      (t.ctx (s.region r).ctx).state = .stopped ∧ (t.ctx (s.region r).ctx).cause = stExhausted ∧
      OtherStates (s.region r).ctx s t ∧ fld t (oAnt 4) 1 1 = 1 ∧ fld t oIrqRaw (ctxVec (s.region r).ctx) 1 = 1))

/-- MOE_DISPATCH of phase F assigns the tokens of a micro-batch to experts, none above its capacity, and sends one
batch to each of its experts, here all on other modules. A batch that passes R189 and R47 waits in its partition until
every source's has come, and in the receive buffer while its partition is full. With one source the expert's input is
assembled at once, padded to a multiple of 32 rows, and its regions bind; when nothing more of F forms the expert's
output, the combine batch leaves on VC5. A combine batch waits for the others. A batch that R47 holds is kept; one
that R189 refuses only counts. Readings of the model it rests on: logs 21, 45, 46, 47, 48, 61, 146. -/
def Obligations.ExpertBatchesTravel : Prop :=
  (∀ (x r : Nat) (st : Stamp) (w : SlotWork) (s : State), s.live = true → x < 16 → Sized s → (s.ctx x).state = .running →
    preempting s x = false → slotRec? s x st = some w → r < (s.ctx x).pat.routers.length → st.phase = phF → w.fDone = false →
    writtenFor (s.ctx x) w phF [(s.ctx x).tIdx r, (s.ctx x).tGate r, (s.ctx x).tTok r] = true → routeOf w r = none →
    (∀ e, e < (s.ctx x).nExperts r → ∃ m p, memberAt s (expertKind x) ((s.ctx x).expertAt r e).1 = some (m, p) ∧ p ≤ 15) →
    ∃ t q, Machine.exec (.moeDispatch x r st) s = .next t ∧ q.router = r ∧
      q.choices = (assignGo ((s.ctx x).nExperts r) ((s.ctx x).capacity r w.tokens) (choicesOf ((s.ctx x).nRanks r) w.tokens
        ((readFlat s (atOf s x st) ((s.ctx x).tIdx r) 0).map intOf)) (List.replicate ((s.ctx x).nExperts r) 0)).1 ∧
      (∀ e, e < (s.ctx x).nExperts r → (q.keptOf e).length ≤ (s.ctx x).capacity r w.tokens) ∧
      (t.ctx x).slots = (s.ctx x).slots.map (fun v => if v.stamp = slotOf st then { v with routes := v.routes ++ [q] } else v) ∧
      HostOnly { s with ctxs := t.ctxs, cmps := t.cmps, ports := t.ports, free := s.free + (s.ctx x).nExperts r } t ∧
      ∀ p, p < s.ports.length → ∃ l, (t.port p).tx = (s.port p).tx ++ l ∧
        l.length = ((upto ((s.ctx x).nExperts r)).filter fun e =>
          (memberAt s (expertKind x) ((s.ctx x).expertAt r e).1).map (·.2) == some p).length ∧ ∀ b ∈ l, b.vc = 4) ∧
  (∀ (p x m : Nat) (h : BatchHdr) (idxs : List Nat) (rows : List Byte) (s : State), s.live = true → TablesOk s → x < 16 → Sized s →
    NoBatches s → (h.stamp.phase = phF ∨ h.stamp.phase = phB) →
    (batchBad s x m h idxs = false → verdict s h.stamp = .accept → h.dir = 0 → 1 < (s.ctx x).nSources h.router →
      partitionFull s x h = false →
      ∃ t, Machine.exec (.moeBatchArrival (some p) x m h idxs rows) s = .next t ∧
        (t.ctx x).batches = [⟨m, h, idxs.map (· % 2 ^ 23), rows⟩] ∧
        (t.ctx x).batchSeen = (s.ctx x).batchSeen ++ [(m, h)] ∧ HostOnly { s with ctxs := t.ctxs, str := t.str } t ∧
        ∀ y, y ≠ x → t.ctx y = s.ctx y) ∧
    (batchBad s x m h idxs = false → verdict s h.stamp = .accept → h.dir = 0 → h.stamp.phase = phF →
      partitionFull s x h = false → (s.ctx x).state = .running → (s.ctx x).nSources h.router = 1 → h.stamp.slot = 0 →
      canBindAll s x h.stamp (unbound s x h) = true →
      (slotRec? s x h.stamp = none → ∃ t, Machine.exec (.moeBatchArrival (some p) x m h idxs rows) s = .next t ∧
        (t.ctx x).batches = [] ∧
        (t.ctx x).experts = [⟨h.router, h.expert, h.stamp, [(m, h.src, idxs.map (· % 2 ^ 23))],
          padTo (inputRows (s.ctx x) h.router h.count * h.rowbytes) rows, h.rowbytes, inputRows (s.ctx x) h.router h.count,
          false, false⟩] ∧
        (∀ r ∈ unbound s x h, ∃ g, bindGen s x h.stamp r = some g ∧ ⟨slotOf h.stamp, x, r, g⟩ ∈ t.bindings)) ∧
      (∀ w sm sp, slotRec? s x h.stamp = some w →
        writtenFor (s.ctx x) w phF [(s.ctx x).moeSlot (h.router, h.expert) 1] = true →
        memberAt s (expertKind x) h.src = some (sm, sp) → sp ≤ 15 → sp < s.ports.length →
        ∃ t body, Machine.exec (.moeBatchArrival (some p) x m h idxs rows) s = .next t ∧ (t.ctx x).batches = [] ∧
          (t.ctx x).experts.map (fun r => (r.placed, r.returned)) = [(true, true)] ∧
          (t.port sp).tx = (s.port sp).tx ++ [⟨5, sm, body, 0, none, .nothing⟩] ∧ (xferOf body).tkind = 2 ∧
          (body.drop 32).take 32 = batchHdrBytes ⟨h.stamp, h.router, h.expert, h.src, 1, idxs.length,
            slotSpan (s.ctx x) ((s.ctx x).tOut h.router)⟩)) ∧
    (batchBad s x m h idxs = false → verdict s h.stamp = .accept → h.dir = 1 → (s.ctx x).combines = [] →
      (∃ e, e < (s.ctx x).nExperts h.router ∧ ((s.ctx x).expertAt h.router e).2.1 ≠ h.expert) →
      ∃ t, Machine.exec (.moeBatchArrival (some p) x m h idxs rows) s = .next t ∧
        (t.ctx x).combines = [⟨m, h, idxs.map (· % 2 ^ 23), rows⟩] ∧
        (t.ctx x).slots = (s.ctx x).slots ∧ HostOnly { s with ctxs := t.ctxs, str := t.str } t) ∧
    (batchBad s x m h idxs = false → verdict s h.stamp = .hold →
      ∃ t, Machine.exec (.moeBatchArrival (some p) x m h idxs rows) s = .next t ∧
        HostOnly { s with heldArr := s.heldArr ++ [(0, .moeBatchArrival (some p) x m h idxs rows)] } t) ∧
    (batchBad s x m h idxs = true → ∃ t, Machine.exec (.moeBatchArrival (some p) x m h idxs rows) s = .next t ∧
      HostOnly { s with regs := t.regs } t ∧ OnlyReg oStrCfg s t ∧
      fld t oStrCfg 16 16 = min 65535 (fld s oStrCfg 16 16 + 1))) ∧
  (∀ (p x m : Nat) (h : BatchHdr) (idxs : List Nat) (rows : List Byte) (s : State), s.live = true →
    (h.stamp.phase = phF ∨ h.stamp.phase = phB) → batchBad s x m h idxs = false → verdict s h.stamp = .accept →
    partitionFull s x h = true → ∃ t, Machine.exec (.moeBatchArrival (some p) x m h idxs rows) s = .next t ∧
      HostOnly { s with stalled := s.stalled ++ [(0, .moeBatchArrival (some p) x m h idxs rows)] } t)

/-- A ring block that R202 accepts is kept until its slot of work has begun the phase and the hop before it is merged;
then it takes its place, and in phase F goes on to the next member on VC6 with its hop one higher. A refused block
only counts. Readings of the model it rests on: logs 49, 61. -/
def Obligations.RingBlocksArrive : Prop :=
  ∀ (p x m : Nat) (h : RingHdr) (data : List Byte) (s : State), s.live = true → TablesOk s → x < 16 → Sized s →
    (ringBad s x h = false → verdict s h.stamp = .accept → (s.ctx x).slots = [] → (∀ j ∈ (s.ctx x).issued, j.started = true) →
      ∃ t, Machine.exec (.ringBlockArrival p x m h data) s = .next t ∧
        (t.ctx x).ringHeld = (s.ctx x).ringHeld ++ [⟨h, data⟩] ∧ (t.ctx x).ringSeen = (s.ctx x).ringSeen ++ [h] ∧
        (t.ctx x).ringMerged = (s.ctx x).ringMerged ∧ HostOnly { s with ctxs := t.ctxs, str := t.str } t ∧
        (∀ y, y ≠ x → t.ctx y = s.ctx y) ∧
        t.str.now = (if strideAhead h.stamp s.str.now then h.stamp else s.str.now)) ∧
    (∀ w nm np, ringBad s x h = false → verdict s h.stamp = .accept → (s.ctx x).ringHeld = [] → h.stamp.phase = phF →
      (s.ctx x).slots = [w] → w.stamp = h.stamp → w.xStarted = false → w.bStarted = false → h.hop + 1 < seqSize (s.ctx x) →
      hopDone (s.ctx x) w h.stamp h.layer (h.hop - 1) = true → (s.ctx x).ringPlaced h.layer h.hop h.stamp = false →
      (h.layer, h.stamp, h.hop) ∉ (s.ctx x).ringSent →
      (members s (seqKind x)).find? (fun k => k.1 == (ownMember s (seqKind x) + 1) % seqSize (s.ctx x)) = some nm →
      nm.2.2 = np → np ≤ 15 → np < s.ports.length →
      ∃ t, Machine.exec (.ringBlockArrival p x m h data) s = .next t ∧ (h.layer < (s.ctx x).ringLayers →
        (h.layer, h.stamp, h.origin, h.hop) ∈ (t.ctx x).ringMerged ∧ (h.layer, h.stamp, h.hop) ∈ (t.ctx x).ringSent ∧
        ∃ y ∈ (t.port np).tx, y.vc = 6 ∧ y.dstmod = nm.2.1 ∧
          (y.body.drop 32).take 32 = ringHdrBytes { h with hop := h.hop + 1 })) ∧
    (ringBad s x h = false → verdict s h.stamp = .hold → ∃ t, Machine.exec (.ringBlockArrival p x m h data) s = .next t ∧
      HostOnly { s with heldArr := s.heldArr ++ [(0, .ringBlockArrival p x m h data)] } t) ∧
    (ringBad s x h = true → phaseRank h.stamp.phase ≠ 7 → ∃ t, Machine.exec (.ringBlockArrival p x m h data) s = .next t ∧
      HostOnly { s with regs := t.regs } t ∧ OnlyReg oStrCfg s t ∧ fld t oStrCfg 16 16 = min 65535 (fld s oStrCfg 16 16 + 1))

/-- A window write that R331 takes stores its bytes in the window and nowhere else; one it refuses, or one for another
module, stores nothing and sets its bit of LNK_ERR. The oldest write of a VC commits, and then its tail record
applies, with a token of the port. -/
def Obligations.WindowWritesCommit : Prop :=
  ∀ (p vc m : Nat) (h : XferHdr) (data : List Byte) (s : State), s.live = true → TablesOk s → p < 16 →
    (s.port p).carrying = true →
    (h.tkind = 0 → xferOk vc h = true → windowOk s p h.win 0 vc m h.offset h.bytes = true → data.length = h.bytes →
      inOneRange (windowAddr s p h.win h.offset) h.bytes = true →
      ∃ t, Machine.exec (.windowWrite p vc m (modId s) h data) s = .next t ∧
        memRead t (windowAddr s p h.win h.offset) h.bytes = data ∧
        MemoryOutside (windowAddr s p h.win h.offset) h.bytes s t ∧
        (t.port p).inWrite = (s.port p).inWrite ++ [(vc, h.win, true)] ∧
        HostOnly { s with hdm := t.hdm, poison := t.poison, bias := t.bias, ports := t.ports } t) ∧
    (h.tkind = 0 → (xferOk vc h = false ∨ windowOk s p h.win 0 vc m h.offset h.bytes = false) → fld s (oLnk p 0x30) 1 1 = 0 →
      ∃ t, Machine.exec (.windowWrite p vc m (modId s) h data) s = .next t ∧ fld t (oLnk p 0x200) 0 1 = 1 ∧
        OnlyReg (oLnk p 0x200) s t ∧ HostOnly { s with regs := t.regs, ports := t.ports } t) ∧
    (∀ dst, dst ≠ modId s → fld s (oLnk p 0x30) 1 1 = 0 → ∃ t, Machine.exec (.windowWrite p vc m dst h data) s = .next t ∧
      fld t (oLnk p 0x200) 3 1 = 1 ∧ OnlyReg (oLnk p 0x200) s t ∧ HostOnly { s with regs := t.regs, ports := t.ports } t) ∧
    (∀ w, (s.port p).inWrite.find? (fun v => v.1 == vc) = some w →
      (∃ t, Machine.exec (.transferCommit p vc none none) s = .next t ∧ HostOnly { s with ports := t.ports } t ∧
        (t.port p).inWrite = dropFirst (fun v => v.1 == vc) (s.port p).inWrite) ∧
      (∀ (r : FlagRec) k, w.2.2 = true → (tokenTake p s).2 = true → (r.op = 1 ∨ r.op = 2) → findFlag s r.fctx r.vflag = .at k true → NoSeqWait s →
        NoWaitOn k s → (flagAt s k).set = !(r.op == 1) →
        ∃ t, Machine.exec (.transferCommit p vc none (some r)) s = .next t ∧
          FlagBecomes k { flagAt s k with set := r.op == 1 } s t ∧ HostOnly { s with flg := t.flg, ports := t.ports } t))

/-! ### Stage links -/

/-- The driver's writes to LNK_CTL: EN = 1 only lets the port train; EN = 0 takes it DOWN with cause 0x01; a retrain
starts on a carrying port and stays in its state; a port reset takes it DOWN with cause 0x0B and records itself in
GLB_RST_CAUSE. The events that take a port DOWN, each with its cause: the end of a retrain's 250 ms (0x0C, or 0x0A
with a partner without capability bit 2), of the time in TRAINING and in AUTH, the delivery bound, and REFCLK_SL lost.
In a state where an event does not apply it changes nothing. Readings of the model it rests on: log 110. -/
def Obligations.PortsGoDownAndReset : Prop :=
  (∀ (p : Nat) (s : State), s.live = true → TablesOk s → p < 16 → s.ports.length = 16 →
    (∃ t, Machine.exec (.linkEnable p) s = .next t ∧ HostOnly { s with regs := t.regs } t ∧ OnlyReg (oLnk p 0) s t ∧
      fld t (oLnk p 0) 0 1 = 1) ∧
    (∃ t, Machine.exec (.linkDisable p) s = .next t ∧ fld t (oLnk p 0) 0 1 = 0 ∧ PortDown p 0x01 s t) ∧
    (∃ t, Machine.exec (.portReset p) s = .next t ∧ PortDown p 0x0B s t ∧ fld t oRstCause 4 4 = 8 ∧
      fld t oRstCause 11 1 = 1 ∧ fld t oRstCause 20 4 = p) ∧
    ((s.port p).carrying = true → (s.port p).retrain = false → ∃ t b rest, Machine.exec (.linkRetrain p) s = .next t ∧
      (t.port p).retrain = true ∧ (t.port p).state = (s.port p).state ∧ (∀ r, r ≠ p → t.port r = s.port r) ∧
      t.out = s.out ++ .flit p b :: rest ∧ fld t (oLnk p 0x204) 16 16 = min 65535 (fld s (oLnk p 0x204) 16 16 + 1)) ∧
    ((s.port p).carrying = false → ∃ t, Machine.exec (.linkRetrain p) s = .next t ∧ HostOnly s t)) ∧
  (∀ (p : Nat) (s : State), s.live = true → TablesOk s → p < 16 → s.ports.length = 16 →
    (∀ c cause, (c = Instr.retrainTimeout p ∧ (s.port p).carrying = true ∧ (s.port p).retrain = true ∧
          cause = if bit (s.port p).ncap 2 then 0x0C else 0x0A) ∨
        (c = .trainingTimeout p ∧ (s.port p).state = .training ∧ cause = 0x02) ∨
        (c = .trainingTimeout p ∧ (s.port p).state = .auth ∧ cause = 0x05) ∨
        (c = .authTimeout p ∧ (s.port p).state = .auth ∧ cause = 0x05) ∨
        (c = .deliveryBoundExpiry p ∧ (s.port p).carrying = true ∧ (s.port p).retry ≠ [] ∧ cause = 0x09) →
      ∃ t, Machine.exec c s = .next t ∧ PortDown p cause s t) ∧
    (∀ c, (c = Instr.retrainTimeout p ∧ (s.port p).retrain = false) ∨
        (c = .trainingTimeout p ∧ (s.port p).carrying = true) ∨ (c = .authTimeout p ∧ (s.port p).state ≠ .auth) ∨
        (c = .deliveryBoundExpiry p ∧ (s.port p).retry = []) → ∃ t, Machine.exec c s = .next t ∧ HostOnly s t) ∧
    (∃ t, Machine.exec .refclkSlLoss s = .next t ∧ ∀ r, r < 16 →
      ((s.port r).carrying = true → (t.port r).state = .down ∧ (t.port r).cause = 0x03 ∧ (t.port r).retry = []) ∧
      ((s.port r).carrying = false → (t.port r).state = (s.port r).state ∧ (t.port r).cause = (s.port r).cause)))

/-- LINK_CONTROL queues one record on VC15 of a carrying port with bit 13 common, and completes when that record is
acknowledged; CMD other than PAUSE and RESUME is REFUSED_FORMAT, and a port that cannot carry it PEER_ABSENT. PAUSE
and RESUME of the partner stop and let go the VCs that VCMASK names, with CTRL_RATE = 0 or while fewer than CTRL_RATE
records have come in the last millisecond; above that rate the record is dropped and counted. A port that does not
carry takes none. Readings of the model it rests on: log 149. -/
def Obligations.LinkControlActs : Prop :=
  ∀ (h : HostHdr) (p cmd mask : Nat) (s : State), Recordable h s → TablesOk s → p < 16 → s.ports.length = 16 →
    (cmd ≠ 1 → cmd ≠ 2 → ∃ t, Machine.exec (.linkControl h p cmd mask) s = .next t ∧ HostOnly s t ∧
      Recorded h stFormat (low64 s.str.now) s t) ∧
    ((cmd = 1 ∨ cmd = 2) → (s.port p).carrying = false ∨ bit (s.port p).ncap 13 = false →
      ∃ t, Machine.exec (.linkControl h p cmd mask) s = .next t ∧ HostOnly s t ∧
        Recorded h stPeerAbsent (low64 s.str.now) s t) ∧
    ((cmd = 1 ∨ cmd = 2) → (s.port p).carrying = true → bit (s.port p).ncap 13 = true →
      ∃ t, Machine.exec (.linkControl h p cmd mask) s = .next t ∧ OnlyPort p s t ∧
        t.port p = { s.port p with ctl := (s.port p).ctl ++ [(3, (s.port p).peerMod,
          leBytes 16 (cmd + mask % 2 ^ 16 * 2 ^ 16), .control h)] }) ∧
    (∀ x, (s.port p).carrying = true → (s.port p).retrain = false → x ∈ (s.port p).tx → x.done = .control h →
      (∀ y ∈ (s.port p).tx, y ≠ x → y.lastSeq = none) → (s.port p).tx.Nodup → ∀ b, FlitGood b → (flitHdrOf b).ftype = 0 →
      (flitHdrOf b).ackv = true → (flitHdrOf b).nak = false → x.lastSeq = some (flitHdrOf b).ackseq →
      (∃ f ∈ (s.port p).retry, f.fseq = (flitHdrOf b).ackseq) →
      ∃ t, Machine.exec (.flitReceive p b false 0 0) s = .next t ∧ Recorded h stOk (low64 s.str.now) s t ∧ x ∉ (t.port p).tx) ∧
    ((s.port p).carrying = true →
      fld s (oLnk p 0x30) 16 8 = 0 ∨ (recent s (s.port p).ctlTimes).length < fld s (oLnk p 0x30) 16 8 →
      ∃ t u, Machine.exec (.linkPause p mask) s = .next t ∧ Machine.exec (.linkResume p mask) s = .next u ∧
        OnlyPort p s t ∧ OnlyPort p s u ∧
        t.port p = { s.port p with paused := (t.port p).paused, ctlTimes := recent s (s.port p).ctlTimes ++ [s.glb.time] } ∧
        u.port p = { s.port p with paused := (u.port p).paused, ctlTimes := recent s (s.port p).ctlTimes ++ [s.glb.time] } ∧
        ∀ v, (bit (t.port p).paused v = (bit (s.port p).paused v || (decide (v < 15) && bit mask v))) ∧
          bit (u.port p).paused v = (bit (s.port p).paused v && !(decide (v < 15) && bit mask v))) ∧
    ((s.port p).carrying = true → fld s (oLnk p 0x30) 16 8 ≠ 0 → fld s (oLnk p 0x30) 1 1 = 0 →
      fld s (oLnk p 0x30) 16 8 ≤ (recent s (s.port p).ctlTimes).length →
      ∃ t u, Machine.exec (.linkPause p mask) s = .next t ∧ Machine.exec (.linkResume p mask) s = .next u ∧
        ∀ v, v = t ∨ v = u → (v.port p).paused = (s.port p).paused ∧ fld v (oLnk p 0x200) 2 1 = 1 ∧
          fld v (oLnk p 0x200) 16 16 = min 65535 (fld s (oLnk p 0x200) 16 16 + 1) ∧ v.hdm = s.hdm) ∧
    ((s.port p).carrying = false → ∃ t u, Machine.exec (.linkPause p mask) s = .next t ∧ HostOnly s t ∧
      Machine.exec (.linkResume p mask) s = .next u ∧ HostOnly s u)

/-- A lane pair that fails under a logical lane starts a retrain in place, and takes the port DOWN with cause 0x03
when fewer than three pairs stay healthy; a failed spare is only lost. Training starts from DOWN with EN = 1 and sends
this module's record; the partner's record is checked row by row, and an accepted one sets the port up or, with bit 3
common, starts AUTH. Readings of the model it rests on: logs 11, 12, 62. -/
def Obligations.LinksTrain : Prop :=
  ∀ (p : Nat) (s : State), s.live = true → TablesOk s → p < 16 → s.ports.length = 16 →
    (∀ lane, (s.port p).carrying = true → (s.port p).retrain = false → bit (s.port p).failed lane = false → lane < 5 →
      (lane ∈ (s.port p).lanes → 3 ≤ (laneList (0x1F - ((s.port p).failed ||| 2 ^ lane))).length →
        ∃ t, Machine.exec (.laneFail p lane) s = .next t ∧ (t.port p).retrain = true ∧ (t.port p).state = (s.port p).state ∧
          (t.port p).failed = (s.port p).failed ||| 2 ^ lane) ∧
      (lane ∈ (s.port p).lanes → (laneList (0x1F - ((s.port p).failed ||| 2 ^ lane))).length < 3 →
        ∃ t, Machine.exec (.laneFail p lane) s = .next t ∧ PortDown p 0x03 s t) ∧
      (lane ∉ (s.port p).lanes → (s.port p).spare = lane → ∃ t, Machine.exec (.laneFail p lane) s = .next t ∧
        OnlyPort p s t ∧ t.port p = { s.port p with failed := (s.port p).failed ||| 2 ^ lane, spare := 7 })) ∧
    (∀ rx inv, fld s (oLnk p 0) 0 1 = 1 → s.boot.hold = false → (s.port p).state = .down →
      ∃ t rest, Machine.exec (.linkTrainingStart p rx inv) s = .next t ∧ (t.port p).state = .training ∧
        (t.port p).ownRec = trainingRec s p (rx &&& 0x1F) 0 (nonceOf s) ∧ (t.port p).rxMask = rx &&& 0x1F ∧
        (t.port p).lastRec = none ∧ (∀ r, r ≠ p → t.port r = s.port r) ∧ t.free = s.free + 1 ∧
        (fld s (oLnk p 0) 3 1 = 0 → t.out = s.out ++
          .flit p (flitBytes (plainHeader s 4 236 0) (trainingRec s p (rx &&& 0x1F) 0 (nonceOf s))) :: rest)) ∧
    (∀ r, (s.port p).state = .training → (s.port p).ownRec ≠ [] →
      (recMajor r ≠ 1 → ∃ t, Machine.exec (.trainingRecordReceived p r) s = .next t ∧ PortDown p 0x04 s t) ∧
      (recMajor r = 1 → (laneList (recMask r &&& (s.port p).rxMask)).length < 3 →
        ∃ t, Machine.exec (.trainingRecordReceived p r) s = .next t ∧ PortDown p 0x03 s t) ∧
      (recMajor r = 1 → 4 ≤ (laneList (recMask r &&& (s.port p).rxMask)).length →
        (grantsBad (recGrants r) = true → ∃ t, Machine.exec (.trainingRecordReceived p r) s = .next t ∧ PortDown p 0x07 s t) ∧
        (grantsBad (recGrants r) = false → (peerModBad s p r = true ∨
            ((bit (recPolicy r) 0 = true ∨ bit (leAt (s.port p).ownRec 12 1) 0 = true) ∧ bit (recCaps r &&& ownCaps) 3 = false)) →
          ∃ t, Machine.exec (.trainingRecordReceived p r) s = .next t ∧ PortDown p 0x05 s t) ∧
        (grantsBad (recGrants r) = false → peerModBad s p r = false →
          (bit (recCaps r &&& ownCaps) 3 = false → bit (recPolicy r) 0 = false → bit (leAt (s.port p).ownRec 12 1) 0 = false →
            ∃ t, Machine.exec (.trainingRecordReceived p r) s = .next t ∧ (t.port p).state = .up ∧
              (t.port p).peerMod = recMod r ∧ (t.port p).peerId = recId r ∧ (t.port p).ncap = recCaps r &&& ownCaps ∧
              (t.port p).avail = recGrants r ∧ (t.port p).txSeq = 0 ∧ (t.port p).rxSeq = 0) ∧
          (bit (recCaps r &&& ownCaps) 3 = true →
            ∃ t, Machine.exec (.trainingRecordReceived p r) s = .next t ∧ (t.port p).state = .auth ∧
              (t.port p).lastRec = some r ∧ (t.port p).ncap = recCaps r &&& ownCaps ∧ (t.port p).authed = (s.port p).authed))))

/-- In AUTH the pieces of the partner's chain are gathered in order; its signature over its record and this module's
makes the port carry with AUTHED = 1 when it verifies, and takes the port DOWN with cause 0x05 when it does not, or
comes before the chain. Readings of the model it rests on: logs 11, 12, 16. -/
def Obligations.AuthenticationActs : Prop :=
  ∀ (p : Nat) (m : List Byte) (r : List Byte) (s : State), s.live = true → TablesOk s → p < 16 → s.ports.length = 16 →
    (s.port p).state = .auth → (s.port p).lastRec = some r →
    (leAt m 0 1 = 1 → leAt m 2 2 * 228 = (s.port p).certBuf.length →
      (s.port p).certBuf.length + min 228 (m.length - 8) < leAt m 4 4 →
      ∃ t, Machine.exec (.authMessageReceived p m) s = .next t ∧ OnlyPort p s t ∧
        t.port p = { s.port p with certBuf := (s.port p).certBuf ++ (m.drop 8).take 228 }) ∧
    (leAt m 0 1 = 1 → leAt m 2 2 * 228 ≠ (s.port p).certBuf.length →
      ∃ t, Machine.exec (.authMessageReceived p m) s = .next t ∧ PortDown p 0x05 s t) ∧
    (leAt m 0 1 = 2 → (s.port p).leaf = none → ∃ t, Machine.exec (.authMessageReceived p m) s = .next t ∧ PortDown p 0x05 s t) ∧
    (∀ k, leAt m 0 1 = 2 → (s.port p).leaf = some k →
      (ecdsaVerify k ((m.drop 8).take 96) (r ++ (s.port p).ownRec) = false →
        ∃ t, Machine.exec (.authMessageReceived p m) s = .next t ∧ PortDown p 0x05 s t) ∧
      (ecdsaVerify k ((m.drop 8).take 96) (r ++ (s.port p).ownRec) = true →
        ∃ t, Machine.exec (.authMessageReceived p m) s = .next t ∧ (t.port p).carrying = true ∧ (t.port p).authed = true))

/-- A carrying port sends a replay first, with its FSEQ; then up to 14 records of VC15 that the partner takes, under
one FSEQ; then a piece of the transfer that deficit round robin picks, which uses one credit and is kept for replay;
and else an idle flit. In TRAINING it sends its record again, in AUTH an idle flit, in DOWN nothing. Readings of the
model it rests on: logs 102, 125, 126, 149. -/
def Obligations.FlitsSent : Prop :=
  (∀ (p : Nat) (s : State), s.live = true → p < s.ports.length → (s.port p).retrain = false →
    ((s.port p).state = .training → (s.port p).ownRec ≠ [] → ∃ t rest, Machine.exec (.flitTransmit p) s = .next t ∧ HostOnly s t ∧
      t.out = s.out ++ .flit p (flitBytes (plainHeader s 4 236 0) (s.port p).ownRec) :: rest) ∧
    ((s.port p).state = .auth → ∃ t, Machine.exec (.flitTransmit p) s = .next t ∧ OnlyPort p s t ∧
      Sent p (fun h => h.ftype = 0 ∧ h.ackseq = ((s.port p).rxSeq + 4095) % 4096) [] s t) ∧
    ((s.port p).state = .down → ∃ t, Machine.exec (.flitTransmit p) s = .next t ∧ HostOnly s t)) ∧
  ∀ (p : Nat) (s : State), s.live = true → p < s.ports.length → (s.port p).carrying = true → (s.port p).retrain = false →
    (∀ f n, (s.port p).replayFrom = some n → (s.port p).retry.find? (fun f => f.fseq == n) = some f →
      ∃ t, Machine.exec (.flitTransmit p) s = .next t ∧ (t.port p).retry = (s.port p).retry ∧ (t.port p).tx = (s.port p).tx ∧
        (t.port p).txSeq = (s.port p).txSeq ∧ (t.port p).avail = (s.port p).avail ∧
        Sent p (fun h => h.fseq = (flitHdrOf f.bytes).fseq ∧ h.ackseq = ((s.port p).rxSeq + 4095) % 4096 ∧ h.ackv = true)
          (f.bytes.drop 16) s t) ∧
    ((s.port p).replayFrom = none → (s.port p).retry.length < 1024 →
      (sendable (s.port p) ≠ [] → vcEnabled s p 15 = true → 0 < nth 0 (s.port p).avail 15 →
        ∃ t l, Machine.exec (.flitTransmit p) s = .next t ∧ l = recordRun (sendable (s.port p)) ∧ l ≠ [] ∧ l.length ≤ 14 ∧
          (t.port p).ctl = l.foldl (fun c r => dropFirst (· == r) c) (s.port p).ctl ∧ (t.port p).txSeq = ((s.port p).txSeq + 1) % 4096 ∧
          (t.port p).retry.length = (s.port p).retry.length + 1 ∧
          Sent p (fun h => h.vc = 15 ∧ h.fseq = (s.port p).txSeq ∧ h.fill = 16 * l.length ∧
            h.ackseq = ((s.port p).rxSeq + 4095) % 4096) (l.flatMap fun x => padTo 16 x.2.2.1) s t) ∧
      (sendable (s.port p) = [] ∨ vcEnabled s p 15 = false ∨ nth 0 (s.port p).avail 15 = 0 → ∀ v left x, drrPick s p = some (v, left) → txNext (s.port p) v = some x → v < 16 →
        ∃ t, Machine.exec (.flitTransmit p) s = .next t ∧ (t.port p).txSeq = ((s.port p).txSeq + 1) % 4096 ∧
          (t.port p).avail = modNth (· - 1) (s.port p).avail v ∧ (t.port p).retry.length = (s.port p).retry.length + 1 ∧
          (∃ y ∈ (t.port p).tx, y.body = x.body ∧ y.sent = x.sent + ((x.body.drop x.sent).take 236).length) ∧
          Sent p (fun h => h.ftype = 1 ∧ h.vc = v ∧ h.fseq = (s.port p).txSeq ∧ h.first = (x.sent == 0) ∧
            h.last = decide (x.body.length ≤ x.sent + 236) ∧ h.dst = x.dstmod) ((x.body.drop x.sent).take 236) s t) ∧
      (sendable (s.port p) = [] ∨ vcEnabled s p 15 = false ∨ nth 0 (s.port p).avail 15 = 0 → drrPick s p = none →
        ∃ t, Machine.exec (.flitTransmit p) s = .next t ∧
        (t.port p).txSeq = (s.port p).txSeq ∧ (t.port p).retry = (s.port p).retry ∧ (t.port p).avail = (s.port p).avail ∧
        Sent p (fun h => h.ftype = 0 ∧ h.ackseq = ((s.port p).rxSeq + 4095) % 4096) [] s t))

/-- A flit with a bad CRC owes a NAK and has no other effect; one out of sequence has none; the one expected advances
the sequence number, uses a credit and returns it, unless a held batch keeps its content in the receive buffer.
Codewords corrected and uncorrectable count in LNK_FEC_CNT. Its acknowledgement frees the flits it covers. The bytes
of a window write land as they come. A retry timer starts a replay from the oldest flit; a VC without credit for 10 ms
is reported once per stall. Readings of the model it rests on: logs 77, 110. -/
def Obligations.FlitsReceived : Prop :=
  ∀ (p : Nat) (b : List Byte) (s : State), s.live = true → TablesOk s → p < 16 → s.ports.length = 16 →
    (s.port p).carrying = true → (s.port p).retrain = false →
    (¬ FlitGood b → (flitHdrOf b).ftype ≠ 0 → ∃ t, Machine.exec (.flitReceive p b false 0 0) s = .next t ∧ OnlyPort p s t ∧
      (t.port p).nakFor = some (s.port p).rxSeq ∧ (t.port p).rxSeq = (s.port p).rxSeq ∧ (t.port p).retry = (s.port p).retry) ∧
    (FlitGood b → (flitHdrOf b).ftype = 1 → flitBreaks s p (flitHdrOf b) = false → (flitHdrOf b).fseq ≠ (s.port p).rxSeq →
      ∃ t, Machine.exec (.flitReceive p b false 0 0) s = .next t ∧ HostOnly s t) ∧
    (FlitGood b → flitBreaks s p (flitHdrOf b) = false → (flitHdrOf b).fseq = (s.port p).rxSeq → (flitHdrOf b).nak = false →
      (flitHdrOf b).ackv = false → 0 < nth 0 (s.port p).held (flitHdrOf b).vc → (s.port p).held.length = 16 →
      (s.port p).returned.length = 16 →
      (((flitHdrOf b).ftype = 2 ∨ (flitHdrOf b).ftype = 3) → (flitHdrOf b).fill < 16 →
        ∃ t, Machine.exec (.flitReceive p b false 0 0) s = .next t ∧ OnlyPort p s t ∧
          (t.port p).rxSeq = ((s.port p).rxSeq + 1) % 4096 ∧
          nth 0 (t.port p).held (flitHdrOf b).vc = nth 0 (s.port p).held (flitHdrOf b).vc - 1 ∧
          nth 0 (t.port p).returned (flitHdrOf b).vc = (nth 0 (s.port p).returned (flitHdrOf b).vc + 1) % 4096) ∧
      (∀ x a, (flitHdrOf b).ftype = 1 → (flitHdrOf b).first = true → (flitHdrOf b).last = false → (flitHdrOf b).fill = 236 →
        (s.port p).rxPart.find? (fun r => r.vc == (flitHdrOf b).vc) = none → x = xferOf ((b.drop 16).take 236) → x.tkind = 0 →
        xferOk (flitHdrOf b).vc x = true → windowOk s p x.win 0 (flitHdrOf b).vc (flitHdrOf b).src x.offset x.bytes = true →
        (x.tflag = false ∨ bit (s.port p).ncap 4 = true) → (flitHdrOf b).dst = modId s → a = windowAddr s p x.win x.offset → 204 ≤ x.bytes → inOneRange a 204 = true →
        ∃ t, Machine.exec (.flitReceive p b false 0 0) s = .next t ∧ (t.port p).rxSeq = ((s.port p).rxSeq + 1) % 4096 ∧
          nth 0 (t.port p).returned (flitHdrOf b).vc = (nth 0 (s.port p).returned (flitHdrOf b).vc + 1) % 4096 ∧
          memRead t a 204 = (b.drop 48).take 204 ∧ MemoryOutside a 204 s t) ∧
      (∀ x h, (flitHdrOf b).ftype = 1 → (flitHdrOf b).first = true → (flitHdrOf b).last = false → (flitHdrOf b).fill = 236 →
        (s.port p).rxPart.find? (fun r => r.vc == (flitHdrOf b).vc) = none → x = xferOf ((b.drop 16).take 236) → x.tkind = 2 →
        x.tflag = false ∨ bit (s.port p).ncap 4 = true → (admitXfer p (flitHdrOf b).vc (flitHdrOf b).src (flitHdrOf b).dst x s).2 = true →
        h = batchHdrOf (((b.drop 16).take 236).drop 32) → verdict s h.stamp = .hold →
        ∃ t r, Machine.exec (.flitReceive p b false 0 0) s = .next t ∧ (t.port p).rxSeq = ((s.port p).rxSeq + 1) % 4096 ∧
          r ∈ (t.port p).rxPart ∧ r.vc = (flitHdrOf b).vc ∧ r.stuck = 1 ∧ r.body = (b.drop 16).take 236 ∧
          nth 0 (t.port p).returned (flitHdrOf b).vc = nth 0 (s.port p).returned (flitHdrOf b).vc)) ∧
    (FlitGood b → (flitHdrOf b).ftype = 0 → (flitHdrOf b).ackv = true → (flitHdrOf b).nak = false → (s.port p).tx = [] →
      (∃ f ∈ (s.port p).retry, f.fseq = (flitHdrOf b).ackseq) →
      ∃ t, Machine.exec (.flitReceive p b false 0 0) s = .next t ∧ OnlyPort p s t ∧
        (t.port p).retry = (s.port p).retry.filter (fun f => !covers (flitHdrOf b).ackseq f.fseq) ∧
        (t.port p).ackSeq = (flitHdrOf b).ackseq ∧ (t.port p).rxSeq = (s.port p).rxSeq) ∧
    (∀ bad c u, ∃ r, r = { s with regs := r.regs } ∧
      fld r (oLnk p 0x208) 0 20 = min 0xFFFFF (fld s (oLnk p 0x208) 0 20 + c) ∧
      fld r (oLnk p 0x208) 20 12 = min 0xFFF (fld s (oLnk p 0x208) 20 12 + u) ∧
      (∀ o, o ≠ oLnk p 0x208 → regGet r o = regGet s o) ∧
      Machine.exec (.flitReceive p b bad c u) s = Machine.exec (.flitReceive p b bad 0 0) r) ∧
    (∀ f l, (s.port p).retry = f :: l → (s.port p).replays < 63 → ∃ t, Machine.exec (.replayTimer p) s = .next t ∧
      (t.port p).replayFrom = some f.fseq ∧ (t.port p).retry = (s.port p).retry ∧ (t.port p).retrain = false ∧
      fld t (oLnk p 0x204) 0 16 = min 65535 (fld s (oLnk p 0x204) 0 16 + 1)) ∧
    (∀ vc x, vc < 15 → x ∈ (s.port p).tx → x.vc = vc → x.lastSeq = none → nth 0 (s.port p).avail vc = 0 →
      bit (s.port p).stalls vc = false → ∃ t, Machine.exec (.creditStall p vc) s = .next t ∧
        fld t (oLnk p (0x180 + 4 * vc)) 23 1 = 1 ∧ fld t oIrqRaw 2 1 = 1 ∧ bit (t.port p).stalls vc = true ∧
        HostOnly { s with regs := t.regs, ports := t.ports } t ∧
        ∃ u, Machine.exec (.creditStall p vc) t = .next u ∧ HostOnly t u)

/-! ### Reduction and update -/

/-- The sum of reduction values depends on no order, and a value of the accumulator's range is read back from its XW
record, whatever follows it. -/
def Obligations.ReductionValues : Prop :=
  (∀ (l m : List RVal) (p : RVal), l.Perm m → (l.foldl RVal.add p).finish = (m.foldl RVal.add p).finish) ∧
  (∀ (p : RVal) (l : List Byte), p.a.natAbs < 2 ^ 308 → xwDecode (xwEncode p ++ l) = some (p, l))

/-- The first partial of a segment opens its slot with its values and offers its stamp to STR_NOW; the last input of a
segment of this module's shard lands the finished sums in the landing slot, and of another's sends the sums on to
NEXT; an element of a poisoned unit of the staging SRAM that has been written counts as NaN there, until writes cover
the unit whole. A partial that R365 refuses, or R47 holds, adds nothing. Readings of the model it rests on: logs 86,
133. -/
def Obligations.PartialsArrive : Prop :=
  ∀ (p vc m : Nat) (h : PartialHdr) (data : List Byte) (bk : Bucket) (vals : List RVal) (s : State), s.live = true → TablesOk s →
    PartialFits s p vc m h data bk vals →
    (segAt s h.grp h.bucket h.stamp.step h.first = none → 0 < routeIn s h.grp h.owner → vals.filter escapes = [] →
      ∃ t sp, Machine.exec (.reductionPartialArrival p vc m h data) s = .next t ∧
        t.red = { s.red with segs := s.red.segs ++ [⟨h.grp, h.bucket, h.stamp.step, h.first, vals,
          List.replicate vals.length true, List.replicate vals.length 0, 0, [h.src], h.ncontrib, false, false, false, sp, false⟩] } ∧
        t.str.now = (if strideAhead h.stamp s.str.now then h.stamp else s.str.now) ∧
        HostOnly { s with red := t.red, str := t.str, regs := t.regs, sramPoison := t.sramPoison } t) ∧
    (∀ q added es sums, OnlySeg s h.grp h.bucket h.stamp.step h.first q → q.sent = false → q.landed = false → q.localIn = true →
      h.src ∉ q.inputs → q.inputs.length + 1 = routeIn s h.grp h.owner → q.vals.length = vals.length →
      h.owner = ownerOf bk.elems (grpSize s h.grp) (segElems s h.grp) h.first →
      added = addVals (q.read s 0 vals.length).vals 0 vals → added.filter escapes = [] →
      es = (if q.spilled then [] else (upto vals.length).map fun i => [h.grp, h.bucket, h.stamp.step, h.first + i]) →
      sums = (Seg.seen (freshUnits agHub es s) { q with vals := added } (nanPrec bk.prec)).vals →
      (h.owner = grpMember s h.grp → routeOut s h.grp h.owner = 0x1F → q.ncontrib + h.ncontrib = grpSize s h.grp →
        ∃ t, Machine.exec (.reductionPartialArrival p vc m h data) s = .next t ∧
          memRead t (landAddr s bk h.stamp.step h.first) (4 * q.vals.length) = sums.flatMap (fun v => leBytes 4 v.finish) ∧
          MemoryOutside (landAddr s bk h.stamp.step h.first) (4 * q.vals.length) s t ∧
          (∃ u ∈ t.red.segs, Seg.isAt h.grp h.bucket h.stamp.step h.first u = true ∧ u.landed = true) ∧
          HostOnly { s with hdm := t.hdm, poison := t.poison, red := t.red, str := t.str, regs := t.regs,
                            sramPoison := t.sramPoison } t) ∧
      (h.owner ≠ grpMember s h.grp → routeOut s h.grp h.owner ≤ 15 → routeOut s h.grp h.owner < s.ports.length →
        ∃ t body, Machine.exec (.reductionPartialArrival p vc m h data) s = .next t ∧
          (t.port (routeOut s h.grp h.owner)).tx = (s.port (routeOut s h.grp h.owner)).tx ++ [⟨8 + h.grp,
            (memberMod s h.grp (routeNext s h.grp h.owner)).getD 0, body, 0, none,
            .partialOf h.grp h.bucket h.first h.stamp.step⟩] ∧
          (body.drop 96).take (sums.flatMap xwEncode).length = sums.flatMap xwEncode ∧
          (∃ u ∈ t.red.segs, Seg.isAt h.grp h.bucket h.stamp.step h.first u = true ∧ u.sent = true) ∧ t.hdm = s.hdm)) ∧
    (∀ k : PartialHdr, k.stamp = h.stamp → k.grp = h.grp → (k.resv = true ∨ k.ncontrib = 0) →
      ∃ t, Machine.exec (.reductionPartialArrival p vc m k data) s = .next t ∧ HostOnly { s with regs := t.regs } t ∧
        OnlyReg oStrCfg s t ∧ fld t oStrCfg 16 16 = min 65535 (fld s oStrCfg 16 16 + 1)) ∧
    (∀ k : PartialHdr, k.grp = h.grp → verdict s k.stamp = .hold →
      ∃ t, Machine.exec (.reductionPartialArrival p vc m k data) s = .next t ∧
        HostOnly { s with heldArr := s.heldArr ++ [(0, .reductionPartialArrival p vc m k data)] } t)

/-- The first contribution to a segment opens its slot with the values of the message, zeros for the marker of an
empty tile, and offers its reduce stamp to STR_NOW; a message whose PREC is not the bucket's adds nothing. A segment
that has waited TIMEOUT_MS is reported in GRP_STAT and logged once a step and group, and one given to a port that does
not carry is reported and logged as stranded, once; TIMEOUT_MS = 0 reports nothing. Readings of the model it rests on:
logs 110, 130. -/
def Obligations.SegmentsFillAndTimeOut : Prop :=
  (∀ (h : IxHdr) (data : List Byte) (marker : Bool) (bk : Bucket) (n k m first : Nat) (codes : List Nat) (s : State),
    s.live = true → TablesOk s → Comes 6 { h with sub := if marker then 1 else 0 } data s →
    bucketOf s (bits h.addr 32 3) (h.ext % 65536) = some bk → bk.grp = bits h.addr 32 3 → bk.id = h.ext % 65536 →
    isFar s bk.grp = false → s.str.valid = true → (unpackStamp (leAt data 0 10)).epoch = s.str.epoch →
    n = (unpackStamp (leAt data 0 10)).step → k = bits h.addr 0 32 → m = leAt data 12 2 → 0 < m →
    (if marker then 16 else 16 + (if bk.prec = 0 then 2 else 4) * m) ≤ data.length →
    codes = (if marker then List.replicate m 0
      else (upto m).map fun i => leAt data (16 + (if bk.prec = 0 then 2 else 4) * i) (if bk.prec = 0 then 2 else 4)) →
    (bits h.addr 35 1 = bk.prec → stepOpen s bk.grp n = true → segAt s bk.grp bk.id n first = none →
      first = segStart (segElems s bk.grp) k → k + m ≤ first + segElems s bk.grp → k + m ≤ bk.elems →
      m < segCount bk.elems (segElems s bk.grp) first * rounds s bk n →
      (addVals (List.replicate (segCount bk.elems (segElems s bk.grp) first) RVal.zero) (k - first)
        (codes.map (widenPrec bk.prec))).filter escapes = [] →
      ∃ t u, Machine.exec (if marker then .redEmptyTileMarker h data else .redData h data) s = .next t ∧ u ∈ t.red.segs ∧
        Seg.isAt bk.grp bk.id n first u = true ∧ u.locals_ = m ∧ u.localIn = false ∧
        u.vals = addVals (List.replicate (segCount bk.elems (segElems s bk.grp) first) RVal.zero) (k - first)
          (codes.map (widenPrec bk.prec)) ∧
        (∀ q ∈ s.red.segs, q ∈ t.red.segs) ∧
        t.str.now = (if strideAhead (reduceStamp s n) s.str.now then reduceStamp s n else s.str.now) ∧
        HostOnly { s with red := t.red, str := t.str, regs := t.regs, sramPoison := t.sramPoison, dies := t.dies } t) ∧
    (bits h.addr 35 1 ≠ bk.prec → ∃ t, Machine.exec (if marker then .redEmptyTileMarker h data else .redData h data) s = .next t ∧
      HostOnly { s with dies := t.dies } t)) ∧
  (∀ (g b first newer n : Nat) (q : Seg) (s : State), s.live = true → TablesOk s → g < 6 → n = s.upd.committed + 1 + newer % 2 →
    segAt s g b n first = some q →
    (fld s (oGrp g 4) 0 16 ≠ 0 → q.sent = false → q.landed = false → (q.locals_ ≠ 0 ∨ q.inputs ≠ []) →
      ∃ t, Machine.exec (.segmentTimeout g b first newer) s = .next t ∧ fld t (oGrp g 0x14) 1 1 = 1 ∧ OnlyReg (oGrp g 0x14) s t ∧
        HostOnly { s with regs := t.regs, red := t.red } t ∧ (givenOut s q = false → t.red.segs = s.red.segs) ∧
        (g, n) ∈ t.red.timeoutLogged ∧
        ((g, n) ∉ s.red.timeoutLogged → none ∈ s.glb.log → Logged 0x16 (redArg b g 0) s t) ∧
        ((g, n) ∈ s.red.timeoutLogged → strandedOn s g b n first = none → t.glb.log = s.glb.log)) ∧
    (∀ p, fld s (oGrp g 4) 0 16 ≠ 0 → givenOut s q = true → q.timedOut = false → strandedOn s g b n first = some p →
      ∃ t, Machine.exec (.segmentTimeout g b first newer) s = .next t ∧ fld t (oGrp g 0x14) 6 1 = 1 ∧
        HostOnly { s with regs := t.regs, red := t.red } t ∧
        (∃ u ∈ t.red.segs, Seg.isAt g b n first u = true ∧ u.timedOut = true) ∧
        (q.sent = true → none ∈ s.glb.log → Logged 0x17 (redArg b g 0) s t)) ∧
    (fld s (oGrp g 4) 0 16 ≠ 0 → q.sent = true → q.timedOut = true ∨ strandedOn s g b n first = none →
      ∃ t, Machine.exec (.segmentTimeout g b first newer) s = .next t ∧ HostOnly s t) ∧
    (fld s (oGrp g 4) 0 16 = 0 → ∃ t, Machine.exec (.segmentTimeout g b first newer) s = .next t ∧ HostOnly s t))

/-- FAR_COMPRESS of a landed pod segment of step c + 1 keeps this module's own compressed contribution in the far
group's slot, sends the records to every other member of the far group on its VC, and stores the new residuals in slot
n mod 2 of the entries that cover the segment; its first write of one clears ROLLBACK_OK. A segment whose pod sum has
not landed waits, and so does one of another step, one whose residual slot a snapshot pins, and any while a die is
missing. Readings of the model it rests on: log 160. -/
def Obligations.FarCompressActs : Prop :=
  ∀ (b first n g cnt : Nat) (bk : Bucket) (pod : Seg) (s : State), s.live = true → TablesOk s → farOn s = true →
    g = farGroup s → bucketOf s g b = some bk → cnt = segCount bk.elems (segElems s bk.grp) first →
    segAt s bk.grp b n first = some pod → bk.grp ≠ g → segAt s g b n first = none →
    (∀ c kind, n = s.upd.committed + 1 → groupClosed s g n = false → farPinned s bk n first = false → s.glb.dieFail = false →
      pod.landed = true → 2 ≤ grpSize s g →
      c = farCompress (fld s (oRed 0x420) 7 1 == 0) (farD s) first ((upto cnt).map fun i =>
          fvAdd (ofFp32 (memF32 s (landAddr s bk n (first + i)))) (ofFp32 (residualOf s bk n (first + i)))) →
      kind = 2 + fld s (oRed 0x420) 7 1 → c.own.filter escapes = [] →
      ∃ t u, Machine.exec (.farCompress b first n) s = .next t ∧ u ∈ t.red.segs ∧ Seg.isAt g b n first u = true ∧
        u.localIn = true ∧ u.vals = c.own ∧ u.ncontrib = 1 ∧
        t.upd.rollbackOk = (s.upd.rollbackOk && (farEntries s bk first cnt).isEmpty) ∧
        (∀ p, p < s.ports.length → (t.port p).tx = (s.port p).tx ++
          (((upto (grpSize s g)).filter (· != grpMember s g)).filter fun o => routeOut s g o == p).map fun o =>
            ⟨8 + g, (memberMod s g (routeNext s g o)).getD 0,
              xferBytes ⟨5, grpWin s g, 0, 0, roundUp (64 + c.recs.length) 64, false, false, 0, 0, 0, false⟩ ++
                padTo (roundUp (64 + c.recs.length) 64) (partialBytes ⟨reduceStamp s n, bk.id, g, bk.prec, kind, grpMember s g, o, 1,
                  first, c.count, bk.elems, false⟩ ++ c.recs),
              0, none, .partialOf g bk.id first n⟩) ∧
        (∀ a, (∀ i e, i < cnt → entryFor s bk (first + i) = some e →
            a < residualAddr s e (n % 2) (first + i) ∨ residualAddr s e (n % 2) (first + i) + 4 ≤ a) → memByte t a = memByte s a) ∧
        (∀ i e, i < cnt → entryFor s bk (first + i) = some e →
          (∀ j v, i < j → j < cnt → entryFor s bk (first + j) = some v →
            residualAddr s e (n % 2) (first + i) + 4 ≤ residualAddr s v (n % 2) (first + j) ∨
            residualAddr s v (n % 2) (first + j) + 4 ≤ residualAddr s e (n % 2) (first + i)) →
          memRead t (residualAddr s e (n % 2) (first + i)) 4 = leBytes 4 (nth 0 c.res i) ∧
          tabFind t.upd.resWritten (2 * e.idx + n % 2) = some n)) ∧
    (n ≠ s.upd.committed + 1 ∨ groupClosed s g n = true ∨ farPinned s bk n first = true ∨ s.glb.dieFail = true →
      ∃ t, Machine.exec (.farCompress b first n) s = .next t ∧ HostOnly s t) ∧
    (pod.landed = false → ∃ t, Machine.exec (.farCompress b first n) s = .next t ∧ t.hdm = s.hdm ∧ t.ports = s.ports ∧
      ∀ u ∈ t.red.segs, Seg.isAt g b n first u = true → u.localIn = false)

/-- The update of step c + 1 starts when its gradients have landed, the gate is open, no state slot it writes is
pinned, no die is missing and every region it writes can take a version: ROLLBACK_OK clears and STR_NOW is offered its
stamp. In a region with further versions the first FREE slot, or where an owned shard has none its oldest version that
no pin holds, turns PENDING in its place with the generation after the newest; in any other region the LIVE version
turns LANDING. No byte of memory changes. A missing version slot is reported. A datapath fault moves the pass to the
compute dies or ends it. Readings of the model it rests on: logs 30, 130, 132. -/
def Obligations.UpdatePassStarts : Prop :=
  ∀ (n : Nat) (s : State), s.live = true → TablesOk s → NoJobs s → n = s.upd.committed + 1 →
    (passWaits s = true → gateOpen s n = true → passPinned s n = false → s.hif.quiesced = false → s.glb.dieFail = false →
      ((∀ r ∈ writtenRegions s, canPend s r = true) → (fld s (oUpd 0x004) 0 1 = 1 ∨ s.upd.udFault = false) →
        ∃ t, Machine.exec .updatePassStart s = .next t ∧
          t.upd = { s.upd with pass := some ⟨n, fld s (oUpd 0x004) 0 1⟩, active := fld s (oUpd 0x004) 0 1, rollbackOk := false } ∧
          t.str.now = (if strideAhead ⟨s.str.epoch, n, 0xFFFF, phUpdate⟩ s.str.now then ⟨s.str.epoch, n, 0xFFFF, phUpdate⟩
            else s.str.now) ∧
          HostOnly { s with regions := t.regions, upd := t.upd, str := t.str } t ∧
          (∀ r, r ∉ writtenRegions s → t.region r = s.region r) ∧
          ∀ r ∈ writtenRegions s, (t.region r).newest = (s.region r).newest ∧
            (∀ v, (s.region r).versioned = true → (if (s.region r).has .free then (s.region r).slots.find? (·.state == .free)
                else (s.region r).slots.find? fun u => u.state == .live && (s.region r).oldestUnpinned == some u.gen && u.pins == 0) = some v →
              { v with gen := ((s.region r).newest.getD 0 + 1) % 4096, state := .pending, ref := 0, pins := 0, dying := false }
                ∈ (t.region r).slots) ∧
            (∀ v, (s.region r).versioned = false → (s.region r).slots.find? (·.state == .live) = some v →
              { v with state := .landing } ∈ (t.region r).slots)) ∧
      (∀ r ∈ writtenRegions s, canPend s r = false → (s.region r).overlap = true → (s.region r).waitSlot = false →
        ∃ t, Machine.exec .updatePassStart s = .next t ∧ t.upd = s.upd ∧ (t.region r).waitSlot = true ∧
          fld t (oAnt 4) 0 1 = 1 ∧ fld t oIrqRaw 1 1 = 1)) ∧
    (passWaits s = false ∨ gateOpen s n = false ∨ passPinned s n = true ∨ s.hif.quiesced = true ∨ s.glb.dieFail = true →
      ∃ t, Machine.exec .updatePassStart s = .next t ∧ HostOnly s t) ∧
    (∀ k, s.upd.pass = some ⟨k, 0⟩ →
      (fld s (oUpd 0x004) 1 1 = 1 → ∃ t, Machine.exec .updateDatapathFault s = .next t ∧
        t.upd = { s.upd with udFault := true, pass := some ⟨k, 1⟩, active := 1 } ∧ fld t oIrqRaw 1 1 = 1) ∧
      (fld s (oUpd 0x004) 1 1 = 0 → ∃ t, Machine.exec .updateDatapathFault s = .next t ∧
        t.upd = { s.upd with udFault := true, pass := none, failed := some k } ∧ fld t (oUpd 0x010) 6 1 = 1 ∧
        fld t oIrqRaw 1 1 = 1)) ∧
    (s.upd.pass = none → ∃ t, Machine.exec .updateDatapathFault s = .next t ∧
      HostOnly { s with upd := { s.upd with udFault := true } } t)

/-- A pass that completes has written its entries, counts t of a dense entry, and makes the step READY; a STEP_COMMIT
that waited for it completes OK and commits the step, and the step commands behind it take their turn. A pass at the
vector site does not complete inside a tempo block of a die it runs on, nor before that die's X and B work, and none
does while a die is missing. A restored version is LIVE again. Readings of the model it rests on: logs 30, 117, 144,
153. -/
def Obligations.UpdatePassCompletes : Prop :=
  (∀ (p : Pass) (r : StepRec) (s : State), s.live = true → TablesOk s → NoJobs s → NoBatches s → s.upd.pass = some p →
    s.stepRec p.step = some r →
    (s.glb.dieFail = true ∨ (p.site = 1 ∧ ∃ d, d < 4 ∧ passOn s d = true ∧ (inTempoBlock s d = true ∨ backWork s d = true)) →
      ∃ t, Machine.exec .updatePassComplete s = .next t ∧ HostOnly s t) ∧
    (s.glb.dieFail = false → (p.site = 1 → ∀ d, d < 4 → passOn s d = true → inTempoBlock s d = false ∧ backWork s d = false) →
      (∀ w ∈ s.upd.commits, w.2 ≠ p.step) → ∃ t, Machine.exec .updatePassComplete s = .next t ∧ t.upd.ready = true ∧
      t.upd.readyStep = p.step ∧ t.upd.pass = none ∧ t.upd.committed = s.upd.committed ∧ t.str.steps = s.str.steps ∧
      t.hdm = ((validEntries s).foldl (passEntry p.step p.site (hyperOf r)) (beginCycle s)).hdm ∧
      (∀ e w, validEntries s = [e] → e.kind ≠ 2 → (loadedIn s e.grp e.bucket).isSome = true → tabWf statDefault s.upd.stats = true →
        s.sramPoison = [] → w = (statLayout e (ownedRows s e)).1 + (statLayout e (ownedRows s e)).2 + 1 →
        statGet t e.idx (p.step % 2) w = (statGet s e.idx ((p.step + 1) % 2) w + 1) % 2 ^ 32)) ∧
    (∀ h, Recordable h s → s.glb.dieFail = false → s.upd.commits = [(h, p.step)] →
      (p.site = 1 → ∀ d, d < 4 → passOn s d = true → inTempoBlock s d = false ∧ backWork s d = false) →
      ∃ t rest, Machine.exec .updatePassComplete s = .next t ∧
      t.upd.committed = p.step ∧ t.upd.rollbackOk = true ∧ t.upd.commits = [] ∧ t.out = s.out ++ rest ∧
      RecordIn h stOk (low64 ⟨s.str.epoch, p.step, 0xFFFF, phCommit⟩) rest)) ∧
  (∀ (g h : HostHdr) (p : Pass) (r : StepRec) (s : State), s.live = true → TablesOk s → NoBatches s → s.upd.pass = some p → p.site = 0 →
    s.glb.dieFail = false → s.stepRec p.step = some r → s.hif.ctxJobs = [] → s.hif.quiescing = false → s.upd.commits = [(h, p.step)] →
    s.upd.stepWait = [.stepCommit g p.step] → ∃ t, Machine.exec .updatePassComplete s = .next t ∧
      t.upd.committed = p.step ∧ t.upd.commits = [] ∧ t.upd.stepWait = []) ∧
  (∀ (r : Nat) (s : State), s.live = true → TablesOk s → NoBatches s → (∀ e ∈ s.regions, e.2.sharded = false) →
    ((s.region r).has .restoring = true → (∀ e ∈ validEntries s, e.vregion ≠ r) →
      ∃ t, Machine.exec (.restoreComplete r) s = .next t ∧ HostOnly { s with regions := t.regions } t ∧
        (t.region r).slots = (s.region r).slots.map (fun v => if v.state = .restoring then { v with state := .live } else v) ∧
        ∀ k, k ≠ r → t.region k = s.region k) ∧
    ((s.region r).has .restoring = false → ∃ t, Machine.exec (.restoreComplete r) s = .next t ∧ HostOnly s t))

/-- VALID = 1 of an update entry is accepted with cleared statistics when R386 holds, and else sets CFG_ERR; VALID = 0
frees them; a valid entry takes no other write. RESIDUAL_ZERO forgets every residual. UPD_STATS_DATA reads and, while
BUSY = 0, writes the selected word, and WORD advances. A word of a poisoned unit of the SRAM reads as NaN until the
zeros of a validated entry cover it. Readings of the model it rests on: logs 30, 133. -/
def Obligations.UpdateEntriesAct : Prop :=
  ∀ (i : Nat) (w0 : Word) (s : State), s.live = true → TablesOk s → i < 1024 →
    (fld s (oEntry i 0) 0 1 = 0 → fld (entryWritten i w0 s) (oEntry i 0) 0 1 = 1 →
      (entryOk (entryWritten i w0 s) (uentry (entryWritten i w0 s) i) = true →
        ∃ t, Machine.exec (.updEntryValidate i w0) s = .next t ∧ fld t (oEntry i 0) 0 1 = 1 ∧ OnlyReg (oEntry i 0) s t ∧
          HostOnly { s with regs := t.regs, upd := t.upd, sramPoison := t.sramPoison } t ∧
          (tabFind t.upd.statRows i).isSome = true ∧
          ∀ slot w rows cols, slot < 2 → w < 2 ^ 22 → statLayout (uentry t i) (ownedRows t (uentry t i)) = (rows, cols) →
            statUnit i slot w ∉ s.sramPoison ∨ (0 < rows + cols ∧ w < rows + cols + 2 ∧ Config.sramWhole agUd (statUnit i slot w).2
              (statWords i 0 (rows + cols + 2) ++ statWords i 1 (rows + cols + 2)) = true) → statGet t i slot w = 0) ∧
      (entryOk (entryWritten i w0 s) (uentry (entryWritten i w0 s) i) = false →
        ∃ t, Machine.exec (.updEntryValidate i w0) s = .next t ∧ fld t (oEntry i 0) 0 1 = 0 ∧ fld t (oEntry i 0) 10 1 = 1 ∧
          OnlyReg (oEntry i 0) s t ∧ HostOnly { s with regs := t.regs } t)) ∧
    (fld s (oEntry i 0) 0 1 = 1 → ∃ t u, Machine.exec (.updEntryInvalidate i) s = .next t ∧ fld t (oEntry i 0) 0 1 = 0 ∧
      OnlyReg (oEntry i 0) s t ∧ HostOnly { s with regs := t.regs, upd := t.upd } t ∧
      (∀ slot w, slot < 2 → w < 2 ^ 22 → statUnit i slot w ∉ s.sramPoison → statGet t i slot w = 0) ∧
      Machine.exec (.updEntryValidate i w0) s = .next u ∧ HostOnly s u) ∧
    (∃ t, Machine.exec .residualZero s = .next t ∧ HostOnly { s with upd := { s.upd with resWritten := [] } } t) ∧
    (∀ k w e, selectedStat s = some (e, k, w) →
      (∃ t rest, Machine.exec (.updStatsDataAccess none) s = .next t ∧ OnlyReg (oUpd 0x070) s t ∧
        fld t (oUpd 0x070) 11 21 = (fld s (oUpd 0x070) 11 21 + 1) % 2 ^ 21 ∧
        t.out = s.out ++ .regData (oUpd 0x074) [BitVec.ofNat 32 (statGet s e k w)] :: rest) ∧
      (∀ v : Word, updBusy s = false → tabWf statDefault s.upd.stats = true → ∃ t,
        Machine.exec (.updStatsDataAccess (some v)) s = .next t ∧
        statGet t e k w = (if statUnit e k w ∈ s.sramPoison then nan32 else v.toNat) ∧
        fld t (oUpd 0x070) 11 21 = (fld s (oUpd 0x070) 11 21 + 1) % 2 ^ 21) ∧
      (∀ v : Word, updBusy s = true → ∃ t, Machine.exec (.updStatsDataAccess (some v)) s = .next t ∧ t.upd = s.upd))

/-! ### Power, boot and the sideband -/

/-- FLOOR, a thermal tick and PS_ALERT_N set the level of every compute die to the greatest of its thermal, power and
FLOOR contributions; the clock takes its level when no tempo block runs. Readings of the model it rests on: log 71. -/
def Obligations.ClockLevelsFollow : Prop :=
  ∀ s : State, TablesOk s → s.pwr.level.length = 4 →
    (∀ d floor, s.live = true → d < 4 → floor < 8 → ∃ t, Machine.exec (.clockFloorWrite d floor) s = .next t ∧
      clockFloor t d = floor ∧ (∀ e, e ≠ d → e < 4 → clockFloor t e = clockFloor s e) ∧
      (∀ e, e < 4 → nth 0 t.pwr.level e = max (max (nth 0 s.pwr.therm e) s.pwr.pwr) (clockFloor t e)) ∧
      t.pwr = { s.pwr with level := t.pwr.level } ∧ HostOnly { s with regs := t.regs, pwr := t.pwr } t) ∧
    (∀ watts volts, s.awake = true → watts < 2 ^ 16 → volts < 2 ^ 16 → ∃ t, Machine.exec (.thermalTick watts volts) s = .next t ∧
      fld t (oPwr 0x50) 0 16 = watts ∧ fld t (oPwr 0x50) 16 16 = volts ∧
      (∀ d, d < 4 →
        (760 ≤ tempAt s (4 * d) → nth 0 t.pwr.therm d = min (nth 0 s.pwr.therm d + 1) 7 ∧ nth 0 t.pwr.cool d = 0) ∧
        (736 ≤ tempAt s (4 * d) → tempAt s (4 * d) < 760 → nth 0 t.pwr.therm d = nth 0 s.pwr.therm d ∧ nth 0 t.pwr.cool d = 0) ∧
        (tempAt s (4 * d) < 736 → 0 < nth 0 s.pwr.therm d →
          (nth 0 s.pwr.cool d = 9 → nth 0 t.pwr.therm d = nth 0 s.pwr.therm d - 1 ∧ nth 0 t.pwr.cool d = 0) ∧
          (nth 0 s.pwr.cool d ≠ 9 → nth 0 t.pwr.therm d = nth 0 s.pwr.therm d ∧ nth 0 t.pwr.cool d = nth 0 s.pwr.cool d + 1)) ∧
        nth 0 t.pwr.level d = max (max (nth 0 t.pwr.therm d) t.pwr.pwr) (clockFloor s d)) ∧
      (fld s (oPwr 0x40) 13 1 = 1 → 8 * fld s (oPwr 0x40) 0 13 < watts → t.pwr.pwr = min (s.pwr.pwr + 1) 7 ∧ t.pwr.pcool = 0) ∧
      (784 * fld s (oPwr 0x40) 0 13 ≤ 100 * watts → watts ≤ 8 * fld s (oPwr 0x40) 0 13 → t.pwr.pwr = s.pwr.pwr ∧ t.pwr.pcool = 0) ∧
      (0 < s.pwr.pwr → 100 * watts < 784 * fld s (oPwr 0x40) 0 13 →
        t.pwr.pwr = (if s.pwr.pcool = 9 then s.pwr.pwr - 1 else s.pwr.pwr)) ∧
      ((∃ d, d < 4 ∧ nth 0 s.pwr.therm d = 0 ∧ 760 ≤ tempAt s (4 * d)) → fld t oIrqRaw 4 1 = 1) ∧
      HostOnly { s with regs := t.regs, pwr := t.pwr } t) ∧
    (s.awake = true → ∃ t, Machine.exec .psAlert s = .next t ∧ t.pwr.pwr = min (s.pwr.pwr + 1) 7 ∧
      fld t (oPwr 0x54) 12 1 = 1 ∧ fld t (oPwr 0x54) 16 16 = min 65535 (fld s (oPwr 0x54) 16 16 + 1) ∧ fld t oIrqRaw 4 1 = 1 ∧
      (∀ e, e < 4 → nth 0 t.pwr.level e = max (max (nth 0 s.pwr.therm e) t.pwr.pwr) (clockFloor s e)) ∧
      HostOnly { s with regs := t.regs, pwr := t.pwr } t) ∧
    (∀ d, s.awake = true → d < s.pwr.applied.length →
      (fld s (oCmp d 0x300) 0 1 = 0 ∨ (∀ c ∈ s.ctxs, c.die = d → c.tempos = [] ∨ (c.state ≠ .running ∧ c.issued = [])) →
        ∃ t, Machine.exec (.clockLevelApply d) s = .next t ∧ nth 0 t.pwr.applied d = nth 0 s.pwr.level d ∧
          (∀ e, e ≠ d → nth 0 t.pwr.applied e = nth 0 s.pwr.applied e) ∧
          HostOnly { s with pwr := { s.pwr with applied := t.pwr.applied } } t) ∧
      (fld s (oCmp d 0x300) 0 1 = 1 → (∃ c ∈ s.ctxs, c.die = d ∧ c.tempos ≠ [] ∧ (c.state = .running ∨ c.issued ≠ [])) →
        ∃ t, Machine.exec (.clockLevelApply d) s = .next t ∧ HostOnly s t))

/-- A temperature sample stores TEMP, SENSOR_ERR and PEAK; rising to 100.0 °C it sets HOT, is logged and raises vector
4; at 105.0 °C a base die, at 110.0 °C any other die, trips, and the rails go. POWER_DOWN with its key drives
RAIL_OFF_N low and removes the rails; a removal keeps its cause and drives PG_CORE first, then PS_FAULT_N and
MOD_READY low where they were not; a module that is off keeps its state. Readings of the model it rests on: logs 90,
91, 92. -/
def Obligations.HeatAndPowerRemoveRails : Prop :=
  (∀ (agent temp : Nat) (err : Bool) (r : Nat) (s : State), s.awake = true → TablesOk s → agent < 10 → temp < 2 ^ 12 →
    r = tempReg agent →
    (toSigned temp 12 < (if 4 ≤ agent ∧ agent < 8 then (840 : Int) else 880) →
      ∃ t, Machine.exec (.tempSample agent temp err) s = .next t ∧ tempAt t r = toSigned temp 12 ∧
        fld t (oPwr r) 14 1 = (if err then 1 else 0) ∧
        toSigned (fld t (oPwr r) 16 12) 12 = max (toSigned (fld s (oPwr r) 16 12) 12) (toSigned temp 12) ∧
        (tempAt s r < 800 → 800 ≤ toSigned temp 12 → fld t (oPwr r) 13 1 = 1 ∧ fld t oIrqRaw 4 1 = 1 ∧
          (none ∈ s.glb.log → Logged 0x1F (agent + temp * 65536) s t)) ∧
        (800 ≤ tempAt s r ∨ toSigned temp 12 < 800 → fld t (oPwr r) 13 1 = fld s (oPwr r) 13 1) ∧
        OnlyReg (oPwr r) s t ∧ HostOnly { s with regs := t.regs } t) ∧
    ((if 4 ≤ agent ∧ agent < 8 then (840 : Int) else 880) ≤ toSigned temp 12 →
      ∃ t, Machine.exec (.tempSample agent temp err) s = .next t ∧ RailsGone 5 agent s t ∧ .pin "THERM_TRIP_N" false ∈ t.out)) ∧
  ((∀ (key : Nat) (s : State), s.live = true →
    (key = 0xA55A → ∃ t rest, Machine.exec (.powerDown key) s = .next t ∧ RailsGone 8 15 s t ∧
      t.out = s.out ++ .pin "RAIL_OFF_N" false :: rest ∧ .pin "MOD_READY" false ∈ rest ∧
      (s.pwr.pgCore = true → rest.head? = some (.pin "PG_CORE" false))) ∧
    (key ≠ 0xA55A → ∃ t, Machine.exec (.powerDown key) s = .next t ∧ HostOnly s t)) ∧
  (∀ (c : RailCause) (s : State), s.pwr.powered = true → ∃ t, Machine.exec (.powerRemoval c) s = .next t ∧
    RailsGone (match c with
      | .inputLow => 1 | .inputHigh => 2 | .overcurrent => 3 | .overTemp => 4 | .trip _ => 5 | .regulation => 6
      | .powerEnable => 7 | .railOff => 8) (match c with | .trip a => a % 16 | _ => 15) s t ∧
    (s.boot.ready = true → .pin "MOD_READY" false ∈ t.out) ∧ (s.pwr.pgCore = true → .pin "PG_CORE" false ∈ t.out) ∧
    (s.pwr.psFaultLow = false → t.pwr.psFaultLow = true → .pin "PS_FAULT_N" false ∈ t.out)) ∧
  (∀ (c : RailCause) (s : State), s.pwr.powered = false → Machine.exec (.powerRemoval c) s = .next s))

/-- POWER_ON starts the power stage of a module that is off, and with no reset pin low the boot sequence runs; the
module that has power and has not booted boots. A module reset, by GLB_RST_CTL with its key or by MODULE_RESET, which
is answered first, drives MOD_READY low and runs the boot sequence over a fresh logic side; memory is kept. A reset
pin that falls holds the logic side in reset, memory kept; one that falls while the logic side is in reset leaves the
kind of the reset that stands higher; when the last one rises the boot sequence runs with that kind. A step that
exceeds its limit ends the boot in hold. Readings of the model it rests on: logs 78, 93, 109, 114. -/
def Obligations.ResetsBoot : Prop :=
  (∀ (env : BootEnv) (s : State),
    (s.pwr.powered = false → pinsHigh s = true → ∃ t, Machine.exec (.powerOn env) s = .next t ∧ t.pwr.powered = true ∧
      BootEnds 0 env (freshLogic false s) t) ∧
    (s.pwr.powered = false → pinsHigh s = false → ∃ t, Machine.exec (.powerOn env) s = .next t ∧ t.pwr.powered = true ∧
      t.boot.ready = false ∧ t.boot.hold = false ∧ t.hdm = []) ∧
    (s.awake = true → TablesOk s → s.boot.ready = false → s.boot.hold = false → s.boot.step = 0 →
      ∃ t, Machine.exec (.powerOn env) s = .next t ∧ BootEnds 0 env s t)) ∧
  (∀ (env : BootEnv) (s : State),
    (∀ key, s.live = true → key = 0xA55A → ∃ t, Machine.exec (.glbRstModule key env) s = .next t ∧
      (∃ rest, t.out = s.out ++ .pin "MOD_READY" false :: rest) ∧ BootEnds 3 env (freshLogic true s) t) ∧
    (∀ key, s.live = true → key ≠ 0xA55A → s.boot.rstPending = false → ∃ t, Machine.exec (.glbRstModule key env) s = .next t ∧
      HostOnly s t) ∧
    (∀ tr, s.awake = true → ∃ t, Machine.exec (.moduleReset tr env) s = .next t ∧ Answered tr [0] s t ∧
      (s.boot.ready = true → ∃ rest, t.out = s.out ++ .mctp tr [0] :: .pin "MOD_READY" false :: rest) ∧
      BootEnds 2 env (freshLogic true s) t)) ∧
  (∀ s : State,
    (s.awake = true → (∃ t, Machine.exec .modRstNAssert s = .next t ∧ t.pwr.modRstLow = true ∧ t.awake = false ∧
        t.boot.bootKind = 1 ∧ t.boot.ready = false ∧ t.hdm = s.hdm ∧ t.ctxs = List.replicate 16 Ctx.none ∧
        t.cmps.map (·.sram) = s.cmps.map (·.sram) ∧ t.poison = s.poison ∧ t.sramPoison = s.sramPoison ∧ t.bias = s.bias ∧
        (s.boot.ready = true → .pin "MOD_READY" false ∈ t.out) ∧ (∀ off, regGet t off = (resetWord off).toNat)) ∧
      (∃ t, Machine.exec .cxlConventionalReset s = .next t ∧ t.pwr.perstLow = true ∧ t.awake = false ∧
        t.boot.bootKind = 4 ∧ t.boot.ready = false ∧ t.hdm = s.hdm ∧ t.ctxs = List.replicate 16 Ctx.none ∧
        t.cmps.map (·.sram) = s.cmps.map (·.sram) ∧ t.poison = s.poison ∧ t.sramPoison = s.sramPoison ∧ t.bias = s.bias ∧
        (s.boot.ready = true → .pin "MOD_READY" false ∈ t.out) ∧ (∀ off, regGet t off = (resetWord off).toNat))) ∧
    (s.awake = false →
      (s.pwr.modRstLow = false → ∃ t, Machine.exec .modRstNAssert s = .next t ∧
        HostOnly { s with pwr := { s.pwr with modRstLow := true },
                          boot := { s.boot with bootKind := if s.boot.bootKind = 4 then 1 else s.boot.bootKind } } t) ∧
      (s.pwr.perstLow = false → ∃ t, Machine.exec .cxlConventionalReset s = .next t ∧
        HostOnly { s with pwr := { s.pwr with perstLow := true } } t)) ∧
    (s.pwr.modRstLow = true → Machine.exec .modRstNAssert s = .next s) ∧
    (s.pwr.perstLow = true → Machine.exec .cxlConventionalReset s = .next s) ∧
    (∀ env, s.pwr.powered = true → TablesOk s → s.pwr.modRstLow = true →
      ∃ t, Machine.exec (.resetPinRelease .modRst env) s = .next t ∧ t.pwr.modRstLow = false ∧
        (s.pwr.perstLow = false → BootEnds s.boot.bootKind env s t) ∧ (s.pwr.perstLow = true → t.awake = false ∧ t.boot = s.boot)) ∧
    (∀ env, s.pwr.powered = true → TablesOk s → s.pwr.perstLow = true →
      ∃ t, Machine.exec (.resetPinRelease .cxlPerst env) s = .next t ∧ t.pwr.perstLow = false ∧
        (s.pwr.modRstLow = false → BootEnds s.boot.bootKind env s t) ∧ (s.pwr.modRstLow = true → t.awake = false ∧ t.boot = s.boot)) ∧
    (∀ k, s.awake = true → 1 ≤ k → k ≤ 13 →
      (s.boot.ready = false → s.boot.hold = false → ∃ t, Machine.exec (.bootStepTimeout k) s = .next t ∧
        t.boot = { s.boot with step := k, hold := true, ready := false, cause := 0x0E, dieCode := 15 } ∧
        HostOnly { s with boot := t.boot } t) ∧
      (s.boot.ready = true ∨ s.boot.hold = true → ∃ t, Machine.exec (.bootStepTimeout k) s = .next t ∧ HostOnly s t)))

/-- BOOT_STATUS is answered at any time the logic side runs, in hold and READY alike, with BOOT_STAT and BOOT_INFO. An
image session is open to one transport at a time: bytes join it in order, a commit of an image that R466 refuses ends
it with the cause, and one that passes programs the flash; in hold the boot sequence then runs again. An abort or 10 s
without a message discard it. Readings of the model it rests on: logs 14, 82. -/
def Obligations.BootIsReportedAndImagesLoad : Prop :=
  (∀ (tr : Transport) (s : State), s.awake = true → s.boot.step < 16 → s.boot.cause < 256 → s.boot.dieCode < 16 →
    s.boot.fuses.svn < 128 → s.boot.fuses.revoked < 16 → (∀ m, s.boot.image = some m → m.keysel < 8) →
    ∃ t b, Machine.exec (.bootStatus tr) s = .next t ∧ HostOnly s t ∧ Answered tr b s t ∧
      b.length = 9 ∧ leAt b 0 1 = 0 ∧ bits (leAt b 1 4) 0 4 = s.boot.step ∧ bit (leAt b 1 4) 4 = s.boot.hold ∧
      bit (leAt b 1 4) 5 = s.boot.ready ∧ bits (leAt b 1 4) 6 2 = 0 ∧ bits (leAt b 1 4) 8 8 = s.boot.cause ∧
      bits (leAt b 1 4) 16 8 = s.boot.dieCode ∧
      (∀ m, s.boot.image = some m → bits (leAt b 5 4) 0 3 = m.keysel) ∧ (s.boot.image = none → bits (leAt b 5 4) 0 3 = 0) ∧
      bits (leAt b 5 4) 12 20 = 0 ∧
      (fusesRead s = true → bits (leAt b 1 4) 24 8 = s.boot.fuses.svn ∧ bit (leAt b 5 4) 3 = s.boot.fuses.rootOff ∧
        (∀ i, i < 4 → bit (leAt b 5 4) (4 + i) = (nth 0 s.boot.fuses.owner i == 0)) ∧
        bits (leAt b 5 4) 8 4 = s.boot.fuses.revoked) ∧
      (fusesRead s = false → bits (leAt b 1 4) 24 8 = 0 ∧ bits (leAt b 5 4) 3 29 = 0)) ∧
  (∀ (tr : Transport) (s : State), s.awake = true → NoJobs s →
    (∀ n, (s.boot.session = none → s.boot.hold = true ∨ ((∀ c ∈ s.ctxs, c.state = .empty) ∧ s.red.buckets = []) →
        ∃ t, Machine.exec (.imgBegin tr n) s = .next t ∧ t.boot = { s.boot with session := some ⟨tr, n, [], false⟩ } ∧
          Answered tr [0] s t ∧ HostOnly { s with boot := t.boot } t) ∧
      (s.boot.session.isSome = true → ∃ t, Machine.exec (.imgBegin tr n) s = .next t ∧ Answered tr [1] s t ∧ HostOnly s t) ∧
      (s.boot.session = none → s.boot.hold = false → (∃ c ∈ s.ctxs, c.state ≠ .empty) →
        ∃ t, Machine.exec (.imgBegin tr n) s = .next t ∧ Answered tr [2] s t ∧ HostOnly s t)) ∧
    (∀ q, s.boot.session = some q → q.committing = false →
      (q.transport = tr →
        (∀ off data, off = q.data.length → data.length % 64 = 0 → 64 ≤ data.length → data.length ≤ 1024 →
          off + data.length ≤ q.length → ∃ t, Machine.exec (.imgData tr off data) s = .next t ∧
          t.boot = { s.boot with session := some { q with data := q.data ++ data } } ∧ Answered tr [0] s t ∧
          HostOnly { s with boot := t.boot } t) ∧
        (∀ off data, off ≠ q.data.length → ∃ t, Machine.exec (.imgData tr off data) s = .next t ∧ Answered tr [3] s t ∧
          HostOnly s t) ∧
        (∀ c, imageCause s.boot.fuses q.data = some c → c < 256 → ∃ t, Machine.exec (.imgCommit tr) s = .next t ∧
          t.boot = { s.boot with session := none } ∧ Answered tr [4, BitVec.ofNat 8 c] s t ∧ HostOnly { s with boot := t.boot } t) ∧
        (imageCause s.boot.fuses q.data = none → ∃ t, Machine.exec (.imgCommit tr) s = .next t ∧
          t.boot = { s.boot with session := some { q with committing := true } } ∧ HostOnly { s with boot := t.boot } t) ∧
        (∃ t, Machine.exec (.imgAbort tr) s = .next t ∧ t.boot = { s.boot with session := none } ∧ Answered tr [0] s t ∧
          HostOnly { s with boot := t.boot } t)) ∧
      (q.transport ≠ tr → ∃ t u, Machine.exec (.imgAbort tr) s = .next t ∧ Answered tr [2] s t ∧ HostOnly s t ∧
        Machine.exec (.imgCommit tr) s = .next u ∧ Answered tr [2] s u ∧ HostOnly s u) ∧
      (∃ t, Machine.exec .imgSessionTimeout s = .next t ∧ t.boot = { s.boot with session := none } ∧
        HostOnly { s with boot := t.boot } t)) ∧
    (∀ q env, s.boot.session = some q → q.committing = true →
      (s.boot.hold = false → ∃ t, Machine.exec (.imgCommitComplete true env) s = .next t ∧
        t.boot = { s.boot with session := none, flash := q.data } ∧ Answered q.transport [0] s t ∧
        HostOnly { s with boot := t.boot } t) ∧
      (s.boot.hold = true → TablesOk s → ∃ t, Machine.exec (.imgCommitComplete true env) s = .next t ∧ t.boot.flash = q.data ∧
        Answered q.transport [0] s t ∧ BootEnds s.boot.bootKind env { s with boot := { s.boot with flash := q.data } } t) ∧
      (∃ t, Machine.exec (.imgCommitComplete false env) s = .next t ∧
        t.boot = { s.boot with session := none, flash := t.boot.flash } ∧ Answered q.transport [5] s t ∧
        HostOnly { s with boot := t.boot, free := t.free } t)))

/-- An SPDM connection goes through GET_VERSION, GET_CAPABILITIES and NEGOTIATE_ALGORITHMS, which selects ECDSA P-384
and SHA-384; out of turn each is answered with an error. The digest and the certificate of slot 0 are then given. PLDM
sensors are read on the I3C sideband except in hold; a sensor that R480 does not name is refused and logged. CHALLENGE
and GET_MEASUREMENTS answer with a fresh nonce and the identity key's signature over the request's nonce, the content
and that nonce; block 1 gives the ROM, block 2 the booted image, block 3 the fuses, block 4 the identity of each agent
that is up and block 5 the digest of each context's Pattern. Readings of the model it rests on: logs 11, 12, 14, 80,
106. -/
def Obligations.AttestationAnswers : Prop :=
  (∀ (tr : Transport) (s : State), s.awake = true →
    (∃ t, Machine.exec (.getVersion tr) s = .next t ∧ spdmPhase t tr = 1 ∧ (∀ u, u ≠ tr → spdmPhase t u = spdmPhase s u) ∧
      Answered tr (Config.foreignBytes 1 0x04 ++ [0, 1, 0x00, 0x13]) s t ∧ HostOnly { s with boot := t.boot } t) ∧
    (spdmPhase s tr = 1 → ∃ t, Machine.exec (.getCapabilities tr) s = .next t ∧ spdmPhase t tr = 2 ∧
      Answered tr (Config.foreignBytes 1 0x61 ++ spdmCaps) s t ∧ bits (leAt spdmCaps 4 4) 0 6 = 0x16 ∧
      HostOnly { s with boot := t.boot } t) ∧
    (spdmPhase s tr ≠ 1 → ∃ t, Machine.exec (.getCapabilities tr) s = .next t ∧
      Answered tr (Config.foreignBytes 1 0x7F) s t ∧ HostOnly s t) ∧
    (∀ a b, spdmPhase s tr = 2 → bit a 7 = true → bit b 1 = true → ∃ t, Machine.exec (.negotiateAlgorithms tr a b) s = .next t ∧
      spdmPhase t tr = 3 ∧ Answered tr (Config.foreignBytes 1 0x63 ++ [0x80, 0, 0, 0, 2, 0, 0, 0]) s t ∧
      HostOnly { s with boot := t.boot } t) ∧
    (∀ a b, spdmPhase s tr ≠ 2 ∨ bit a 7 = false ∨ bit b 1 = false → ∃ t, Machine.exec (.negotiateAlgorithms tr a b) s = .next t ∧
      Answered tr (Config.foreignBytes 1 0x7F) s t ∧ HostOnly s t) ∧
    (spdmPhase s tr = 3 → ∃ t, Machine.exec (.getDigests tr) s = .next t ∧
      Answered tr (Config.foreignBytes 1 0x01 ++ sha384 Config.certChain) s t ∧ HostOnly s t) ∧
    (∀ slot off len, spdmPhase s tr = 3 → ∃ t, Machine.exec (.getCertificate tr slot off len) s = .next t ∧ HostOnly s t ∧
      Answered tr (if slot = 0 ∧ off < Config.certChain.length then Config.foreignBytes 1 0x02 ++
          leBytes 2 (min len (Config.certChain.length - off)) ++ leBytes 2 (Config.certChain.length - off - len) ++
          (Config.certChain.drop off).take len
        else Config.foreignBytes 1 0x7F) s t) ∧
    (spdmPhase s tr ≠ 3 → ∃ t u, Machine.exec (.getDigests tr) s = .next t ∧ Answered tr (Config.foreignBytes 1 0x7F) s t ∧
      HostOnly s t ∧ Machine.exec (.challenge tr 0 0) s = .next u ∧ Answered tr (Config.foreignBytes 1 0x7F) s u ∧ HostOnly s u) ∧
    (∀ sensor w, s.boot.hold = false → sensorWord s sensor = some w → ∃ t, Machine.exec (.pldmSensorRead sensor) s = .next t ∧
      Answered .i3c (Config.foreignBytes 3 sensor ++ leBytes 2 w) s t ∧ HostOnly s t) ∧
    (∀ sensor, s.boot.hold = false → sensorWord s sensor = none → ∃ t, Machine.exec (.pldmSensorRead sensor) s = .next t ∧
      Answered .i3c [6] s t ∧ HostOnly s t ∧ (none ∈ s.glb.log → Logged 0x1E 0x11 s t)) ∧
    (∀ sensor, s.boot.hold = true → ∃ t, Machine.exec (.pldmSensorRead sensor) s = .next t ∧ HostOnly s t)) ∧
  (∀ (tr : Transport) (nonce : Nat) (s : State), s.awake = true → spdmPhase s tr = 3 →
    (∃ t m, Machine.exec (.challenge tr 0 nonce) s = .next t ∧ t.free = s.free + 2 ∧ HostOnly { s with free := t.free } t ∧
      m = sha384 Config.certChain ++ Config.random s.free 32 ∧
      Answered tr (Config.foreignBytes 1 0x03 ++ (m ++ padTo 96 ((Config.identitySign (digestNat (leBytes 32 nonce ++ m))
        (s.free + 1)).take 96))) s t) ∧
    (∀ index, index ≤ 5 ∨ index = 0xFF → ∃ t m body, Machine.exec (.getMeasurements tr index nonce) s = .next t ∧ t.free = s.free + 2 ∧
      HostOnly { s with free := t.free } t ∧
      Answered tr (Config.foreignBytes 1 0x60 ++ (m ++ padTo 96 ((Config.identitySign (digestNat (leBytes 32 nonce ++ m))
        (s.free + 1)).take 96))) s t ∧ m = body ++ Config.random s.free 32 ∧
      (index = 0 → body = [5]) ∧ (index = 0xFF → body = 5 :: ((upto 5).map fun i => measureBlock s (i + 1)).flatten) ∧
      (index = 1 → (body.drop 10).take 48 = leBytes 48 Config.romDigest) ∧
      (∀ i, index = 2 → s.boot.image = some i → s.boot.hold = false → body.drop 8 = leBytes 48 i.digest ++ leBytes 1 i.keysel ++
        leBytes 1 i.svn ++ leBytes 8 i.imgver) ∧
      (∀ a, index = 4 → a < 10 → (body.drop (8 + 48 * a)).take 48 = leBytes 48 (if agentUp s a then (if a = 8 then
        digestNat Config.identityKey else Config.dieDigest a) else 0)) ∧
      (index = 3 → (body.drop 8).take 1 = leBytes 1 s.boot.fuses.svn ∧
        body.length = 203 ∧ (body.drop 201).take 1 = leBytes 1 s.boot.fuses.revoked) ∧
      (index = 5 → ∀ x, x < s.ctxs.length → (body.drop (8 + 48 * x)).take 48 =
        leBytes 48 (if (s.ctx x).state = .empty then 0 else (s.ctx x).pat.digest))) ∧
    (∀ index, 5 < index → index ≠ 0xFF → ∃ t, Machine.exec (.getMeasurements tr index nonce) s = .next t ∧ HostOnly s t ∧
      Answered tr (Config.foreignBytes 1 0x7F) s t))

/-! ### The die interface -/

/-- A negotiation record that fits opens its die port with the common capabilities and the partner's grants on every
module, and the hub's own record leaves on the sideband; one that does not fit, a negotiation that takes too long, or
a module that does not retrain, fails the port, and a port that has failed takes no record. A CTL message returns the
credits it carries, and an error report does nothing else; the credits of a message go back to its sender on its
module once the hub holds a credit for the CTL message that returns them, those of a credit return with the next; a
drain request takes a credit and leaves for the guest, whose answer ends the draining. A message that its sender may
not send is not acted on: a read is refused, and it is logged; more than 64 in a millisecond fail a guest port.
Readings of the model it rests on: logs 96, 97, 98, 99, 155. -/
def Obligations.DiePortsTrainAndControl : Prop :=
  (∀ (k : Nat) (s : State), s.awake = true → TablesOk s → NoJobs s → hostBound s = [] → k < s.dies.length →
    (∀ r : List Byte, r.length = 96 → (s.die k).up = false →
      ((s.die k).failed = false → recordBad s k r = false →
        ∃ t rest, Machine.exec (.iluxaNegotiationRecord k r) s = .next t ∧ OnlyDie k s t ∧ (t.die k).up = true ∧
        (t.die k).cap = leAt r 8 4 &&& (if k < 5 then 0x7FF else 0x7F9) ∧ (t.die k).maxlen = min hubMaxlen (leAt r 20 1) ∧
        (t.die k).modules = min (if k < 4 then 8 else if k = 4 then 2 else (s.die k).modules) (leAt r 21 1) ∧
        (t.die k).credits = List.replicate (t.die k).modules [leAt r 12 2, leAt r 14 2, leAt r 16 2, leAt r 18 2] ∧
        (t.die k).granted = List.replicate (t.die k).modules hubGrants ∧ (t.die k).iddig = (r.drop 24).take 48 ∧
        t.out = s.out ++ (chunks 8 12 (hubRecord s k)).map (fun b => .ixSide k b) ++ rest) ∧
      ((s.die k).failed = false →
        leAt r 0 1 ≠ 1 ∨ bit (leAt r 8 4) 0 = false ∨ leAt r 16 2 < 9 ∨ leAt r 14 2 ≠ 0 ∨ (k < 5 ∧ leAt r 3 1 ≠ 1) →
        ∃ t, Machine.exec (.iluxaNegotiationRecord k r) s = .next t ∧ PortFails k s t) ∧
      ((s.die k).failed = true → ∃ t, Machine.exec (.iluxaNegotiationRecord k r) s = .next t ∧ HostOnly s t)) ∧
    ((s.die k).up = false → ∃ t, Machine.exec (.iluxaNegotiationTimeout k) s = .next t ∧ PortFails k s t) ∧
    ((s.die k).up = true → ∃ t, Machine.exec (.iluxaNegotiationTimeout k) s = .next t ∧ HostOnly s t) ∧
    (∀ m, (s.die k).up = true → m < (s.die k).modules →
      ∃ t, Machine.exec (.iluxaModuleRetrainTimeout k m) s = .next t ∧ PortFails k s t)) ∧
  (∀ (h : IxHdr) (data : List Byte) (k : Nat) (s : State), s.awake = true → TablesOk s →
    (∀ g : IxHdr, g = { h with sub := 0, crcnt := 0 } → Comes 7 g [] s → agentPort h.srca = some k → agentPort h.dsta = none →
      (s.die k).txq = [] → h.crpool ≤ 3 → h.crcnt ≠ 0 → h.mdl < (s.die k).credits.length →
      (nth [] (s.die k).credits h.mdl).length = 4 → (∀ p, creditsOf (s.die k).owed h.mdl p = 0) →
      ∃ t, Machine.exec (.ctlCreditReturn h) s = .next t ∧ OnlyDie k s t ∧
        (t.die k).owed = addCredits h.mdl 2 1 (s.die k).owed ∧
        creditsOf (t.die k).credits h.mdl h.crpool = creditsOf (s.die k).credits h.mdl h.crpool + h.crcnt ∧
        ∀ m p, m ≠ h.mdl ∨ p ≠ h.crpool → creditsOf (t.die k).credits m p = creditsOf (s.die k).credits m p) ∧
    (Comes 7 { h with sub := 1 } data s →
      (∃ t, Machine.exec (.ctlErrorReport h data) s = .next t ∧ HostOnly { s with dies := t.dies } t) ∧
      (agentPort h.srca = some k → agentPort h.dsta = none → h.mdl < (s.die k).owed.length →
        (nth [] (s.die k).owed h.mdl).length = 4 → (∀ p, creditsOf (s.die k).owed h.mdl p = 0) →
        ∃ t rest, Machine.exec (.ctlErrorReport h data) s = .next t ∧ OnlyDie k s t ∧ t.out = s.out ++ rest ∧
        (creditsOf (s.die k).credits h.mdl 2 = 0 → creditsOf (t.die k).owed h.mdl 2 = 1 + h.len64) ∧
        (creditsOf (s.die k).credits h.mdl 2 ≠ 0 →
          creditsOf (t.die k).credits h.mdl 2 = creditsOf (s.die k).credits h.mdl 2 - 1 ∧ creditsOf (t.die k).owed h.mdl 2 = 0 ∧
          .ix h.mdl (ixHdrBytes ⟨7, 0, 8, portAgent k, 0, 2, 1 + h.len64, 0, 0, 0, 0, false, h.mdl⟩) ∈ rest))) ∧
    ((s.die k).guest.isSome = true → (s.die k).up = true → bit (s.die k).cap 9 = true → creditsOf (s.die k).credits 0 2 ≠ 0 →
      ∃ t rest, Machine.exec (.ctlDrainRequest k) s = .next t ∧ OnlyDie k s t ∧ (t.die k).draining = true ∧
        creditsOf (t.die k).credits 0 2 = creditsOf (s.die k).credits 0 2 - 1 ∧
        t.out = s.out ++ .ix 0 (ixHdrBytes ⟨7, 2, 8, portAgent k, 0, 15, 0, 0, 0, 0, 0, false, 0⟩) :: rest) ∧
    ((s.die k).guest = none → ∃ t, Machine.exec (.ctlDrainRequest k) s = .next t ∧ HostOnly s t) ∧
    (Comes 7 { h with sub := 3 } [] s → agentPort h.srca = some k → agentPort h.dsta = none →
      ∃ t, Machine.exec (.ctlDrainDone h) s = .next t ∧ OnlyDie k s t ∧ (t.die k).draining = false) ∧
    (∀ g : IxHdr, g = { h with cls := 0 } → pathUp s g = true → breaks s g [] = true → guestAgent h.srca = true → h.crcnt = 0 →
      agentPort h.srca = some k →
      ((recent s (s.die k).violations).length < 64 → ∃ t rest, Machine.exec (.mrd h) s = .next t ∧
        HostOnly { s with dies := t.dies } t ∧ (t.die k).up = true ∧
        t.out = s.out ++ replyOut g ⟨1, 1, h.dsta, h.srca, h.tid, 15, 0, if unitsOk s g then h.ext % 128 else 0, h.addr, h.space,
            h.ext, false, 0⟩ (if unitsOk s g then List.replicate (64 * (h.ext % 128)) 0 else []) s :: rest ∧
        (none ∈ s.glb.log → Logged 0x1D (h.srca % 32) s t)) ∧
      (64 ≤ (recent s (s.die k).violations).length → ∃ t, Machine.exec (.mrd h) s = .next t ∧ t.hdm = s.hdm ∧
        (t.die k).up = false ∧ (t.die k).failed = true ∧ (t.die k).openReqs = [])))

/-- A read from a die is answered with the bytes of memory, marked when a unit is poisoned; a write is stored, then
committed, and a page that a compute or the update die writes comes into device bias; both are refused, with zeros and
with nothing written, where they leave their page or their memory. A response closes the request it answers, and one
that answers none is logged. Readings of the model it rests on: logs 70, 74, 155, 180. -/
def Obligations.DieMemoryMessages : Prop :=
  ∀ (h : IxHdr) (s : State), s.awake = true → TablesOk s →
    (∀ (n : Nat) (g : IxHdr), n = h.ext % 128 → g = { h with cls := 0 } → Comes 0 h [] s →
      (unitsOk s g = true → onePage h.addr n = true → h.space = 0 → inOneRange h.addr (64 * n) = true →
        (anyPoison s h.addr (64 * n) = true → bothHave s g 7 = true) →
        ∃ t data rest, Machine.exec (.mrd h) s = .next t ∧ data.length = 64 * n ∧
          (anyPoison s h.addr (64 * n) = false → data = memRead s h.addr (64 * n)) ∧
          t.out = s.out ++ replyOut g ⟨1, if anyPoison s h.addr (64 * n) then 2 else 0, h.dsta, h.srca, h.tid, 15, 0, n, h.addr,
            0, h.ext, false, 0⟩ data s :: rest ∧ HostOnly { s with dies := t.dies, free := t.free } t ∧
          ∀ k, openPort h.srca h.dsta = some k → k < s.dies.length → (h.srca, h.dsta, h.tid, 0) ∈ (t.die k).openReqs) ∧
      (unitsOk s g = false ∨ onePage h.addr n = false ∨ (h.space = 0 ∧ (inOneRange h.addr (64 * n) = false ∨
          (anyPoison s h.addr (64 * n) = true ∧ bothHave s g 7 = false))) ∨ (h.space ≠ 0 ∧ h.srca ≠ 8) →
        ∃ t rest, Machine.exec (.mrd h) s = .next t ∧ t.out = s.out ++ replyOut g ⟨1, 1, h.dsta, h.srca, h.tid, 15, 0,
            if unitsOk s g then n else 0, h.addr, h.space, h.ext, false, 0⟩
          (if unitsOk s g then List.replicate (64 * n) 0 else []) s :: rest ∧ HostOnly { s with dies := t.dies } t)) ∧
    (∀ (n : Nat) (g : IxHdr) (data : List Byte), n = h.len64 → g = { h with cls := 2 } → Comes 2 h data s → h.space = 0 →
      (1 ≤ n → onePage h.addr n = true → inOneRange h.addr (64 * n) = true → ∃ t rest,
        Machine.exec (.mwr h data) s = .next t ∧ memRead t h.addr (64 * n) = data ∧ MemoryOutside h.addr (64 * n) s t ∧
        t.out = s.out ++ replyOut g ⟨3, 0, h.dsta, h.srca, h.tid, 15, 0, 0, h.addr, 0, h.ext, false, 0⟩ [] s :: rest ∧
        (∀ p, p ∈ t.bias ↔ p ∈ s.bias ∨ ((h.srca < 4 ∨ h.srca = 9) ∧ p = h.addr / 2 ^ 21)) ∧
        HostOnly { s with dies := t.dies, hdm := t.hdm, poison := t.poison, bias := t.bias } t) ∧
      (n = 0 ∨ onePage h.addr n = false ∨ inOneRange h.addr (64 * n) = false → ∃ t rest,
        Machine.exec (.mwr h data) s = .next t ∧
        t.out = s.out ++ replyOut g ⟨3, 1, h.dsta, h.srca, h.tid, 15, 0, 0, h.addr, 0, h.ext, false, 0⟩ [] s :: rest ∧
        HostOnly { s with dies := t.dies } t)) ∧
    (∀ data : List Byte, Comes 1 h data s →
      (∀ k, openPort h.dsta h.srca = some k → isOpen s h.dsta h.srca h.tid 0 = true → ∃ t, Machine.exec (.mrsp h data) s = .next t ∧
        OnlyDie k s t ∧ (t.die k).openReqs = dropFirst (· == (h.dsta, h.srca, h.tid, 0)) (s.die k).openReqs) ∧
      (isOpen s h.dsta h.srca h.tid 0 = false → ∃ t, Machine.exec (.mrsp h data) s = .next t ∧ HostOnly s t ∧
        (none ∈ s.glb.log → Logged 0x21 (h.srca % 32 + 256 + h.tid % 4096 * 65536) s t))) ∧
    (Comes 3 h [] s →
      (∀ k, openPort h.dsta h.srca = some k → isOpen s h.dsta h.srca h.tid 1 = true → ∃ t, Machine.exec (.mack h) s = .next t ∧
        OnlyDie k s t ∧ (t.die k).openReqs = dropFirst (· == (h.dsta, h.srca, h.tid, 1)) (s.die k).openReqs) ∧
      (isOpen s h.dsta h.srca h.tid 1 = false → ∃ t, Machine.exec (.mack h) s = .next t ∧ HostOnly s t ∧
        (none ∈ s.glb.log → Logged 0x21 (h.srca % 32 + 3 * 256 + h.tid % 4096 * 65536) s t)))
end

