-- ==== Sys2Proof/Laws/Bits.lean ====
section
/-! SUPPORT. Laws of bit fields and of little-endian bytes. -/
namespace Sys2Proof.Machine

theorem bits_eq (v lo n : Nat) : bits v lo n = v / 2 ^ lo % 2 ^ n := by rw [bits, Nat.shiftRight_eq_div_pow]

theorem bits_lt (v lo n : Nat) : bits v lo n < 2 ^ n := by rw [bits_eq]; exact Nat.mod_lt _ (Nat.two_pow_pos n)

/-- A number cut at bit `lo` and at bit `lo + n`. -/
theorem cut_at (v lo n : Nat) : v = v % 2 ^ lo + bits v lo n * 2 ^ lo + v / 2 ^ (lo + n) * 2 ^ (lo + n) := by
  have h1 := Nat.div_add_mod v (2 ^ lo)
  have h2 := Nat.div_add_mod (v / 2 ^ lo) (2 ^ n)
  rw [Nat.div_div_eq_div_mul, ← Nat.pow_add] at h2
  rw [bits_eq]
  calc v = 2 ^ lo * (v / 2 ^ lo) + v % 2 ^ lo := h1.symm
    _ = 2 ^ lo * (2 ^ n * (v / 2 ^ (lo + n)) + v / 2 ^ lo % 2 ^ n) + v % 2 ^ lo := by rw [h2]
    _ = _ := by rw [Nat.mul_add, ← Nat.mul_assoc, ← Nat.pow_add]; ac_rfl

/-- What `putBits` makes of a number, part by part. -/
theorem putBits_eq (v lo n x : Nat) :
    putBits v lo n x = v % 2 ^ lo + x % 2 ^ n * 2 ^ lo + v / 2 ^ (lo + n) * 2 ^ (lo + n) := by
  have h := cut_at v lo n
  rw [putBits, Nat.shiftLeft_eq, Nat.shiftLeft_eq]
  generalize hb : bits v lo n * 2 ^ lo = b at h ⊢
  generalize v % 2 ^ lo = low at h ⊢
  generalize v / 2 ^ (lo + n) * 2 ^ (lo + n) = high at h ⊢
  omega

/-- The part of `putBits` below bit `lo + n`. -/
theorem low_lt (v lo n x : Nat) : v % 2 ^ lo + x % 2 ^ n * 2 ^ lo < 2 ^ (lo + n) := by
  have h1 : v % 2 ^ lo < 2 ^ lo := Nat.mod_lt _ (Nat.two_pow_pos lo)
  have h2 : x % 2 ^ n < 2 ^ n := Nat.mod_lt _ (Nat.two_pow_pos n)
  rw [Nat.pow_add]
  calc _ < 2 ^ lo + x % 2 ^ n * 2 ^ lo := Nat.add_lt_add_right h1 _
    _ = (x % 2 ^ n + 1) * 2 ^ lo := by rw [Nat.add_mul, Nat.one_mul, Nat.add_comm]
    _ ≤ 2 ^ n * 2 ^ lo := Nat.mul_le_mul_right _ h2
    _ = _ := Nat.mul_comm _ _

/-- A field that was put is read back. -/
theorem bits_putBits_same (v lo n x : Nat) : bits (putBits v lo n x) lo n = x % 2 ^ n := by
  rw [putBits_eq, bits_eq, Nat.pow_add]
  have hl : v % 2 ^ lo < 2 ^ lo := Nat.mod_lt _ (Nat.two_pow_pos lo)
  have : v % 2 ^ lo + x % 2 ^ n * 2 ^ lo + v / (2 ^ lo * 2 ^ n) * (2 ^ lo * 2 ^ n) =
      v % 2 ^ lo + 2 ^ lo * (x % 2 ^ n + 2 ^ n * (v / (2 ^ lo * 2 ^ n))) := by
    rw [Nat.mul_add, Nat.add_assoc]; congr 1; ac_rfl
  rw [this, Nat.add_mul_div_left _ _ (Nat.two_pow_pos lo), Nat.div_eq_of_lt hl, Nat.zero_add, Nat.add_mul_mod_self_left,
    Nat.mod_mod]

/-- A field that lies below or above the one put keeps its value. -/
theorem bits_putBits_other (v x : Nat) {lo n lo' n' : Nat} (h : lo' + n' ≤ lo ∨ lo + n ≤ lo') :
    bits (putBits v lo n x) lo' n' = bits v lo' n' := by
  rw [bits, bits]
  apply Nat.eq_of_testBit_eq
  intro i
  rw [Nat.testBit_mod_two_pow, Nat.testBit_mod_two_pow, Nat.testBit_shiftRight, Nat.testBit_shiftRight]
  by_cases hi : i < n'
  · simp only [hi, decide_true, Bool.true_and]
    rw [putBits_eq]
    have hlow : v % 2 ^ lo + x % 2 ^ n * 2 ^ lo = x % 2 ^ n * 2 ^ lo + v % 2 ^ lo := Nat.add_comm _ _
    have hb := low_lt v lo n x
    rw [Nat.add_comm, Nat.mul_comm (v / 2 ^ (lo + n)), Nat.testBit_two_pow_mul_add _ hb]
    rcases h with h | h
    · rw [if_pos (by omega), hlow, Nat.mul_comm, Nat.testBit_two_pow_mul_add _ (Nat.mod_lt _ (Nat.two_pow_pos lo)),
        if_pos (by omega), Nat.testBit_mod_two_pow]
      simp [show lo' + i < lo by omega]
    · rw [if_neg (by omega), Nat.testBit_div_two_pow]
      congr 1; omega
  · simp [hi]

theorem putBits_lt {v lo n w : Nat} (x : Nat) (hv : v < 2 ^ w) (h : lo + n ≤ w) : putBits v lo n x < 2 ^ w := by
  rw [putBits_eq]
  have hq : v / 2 ^ (lo + n) < 2 ^ (w - (lo + n)) := by
    rw [Nat.div_lt_iff_lt_mul (Nat.two_pow_pos _), ← Nat.pow_add, Nat.sub_add_cancel h]; exact hv
  calc _ < 2 ^ (lo + n) + v / 2 ^ (lo + n) * 2 ^ (lo + n) := Nat.add_lt_add_right (low_lt v lo n x) _
    _ = (v / 2 ^ (lo + n) + 1) * 2 ^ (lo + n) := by rw [Nat.add_mul, Nat.one_mul, Nat.add_comm]
    _ ≤ 2 ^ (w - (lo + n)) * 2 ^ (lo + n) := Nat.mul_le_mul_right _ hq
    _ = 2 ^ w := by rw [← Nat.pow_add, Nat.sub_add_cancel h]

theorem leBytes_length (n v : Nat) : (leBytes n v).length = n := by
  induction n generalizing v with
  | zero => rfl
  | succ n ih => simp [leBytes, ih]

/-- Little-endian bytes are read back. -/
theorem leNat_leBytes (n v : Nat) : leNat (leBytes n v) = v % 256 ^ n := by
  induction n generalizing v with
  | zero => simp [leBytes, leNat, Nat.mod_one]
  | succ n ih =>
    simp only [leBytes, leNat, ih, BitVec.toNat_ofNat]
    rw [show 256 ^ (n + 1) = 256 * 256 ^ n by rw [Nat.pow_succ, Nat.mul_comm], Nat.mod_mul]

end Sys2Proof.Machine
end

