-- ==== Sys2Proof/Laws/State.lean ====
section
/-! SUPPORT. What each named update of the state leaves alone: one lemma per field per update, true by unfolding, so that
no later proof unfolds a record update. -/
namespace Sys2Proof.Machine

/-! ### `modCtx` changes only `ctxs`. -/
section
variable (x : Nat) (f : Ctx → Ctx) (s : State)
@[simp] theorem modCtx_regs : (modCtx x f s).regs = s.regs := rfl
@[simp] theorem modCtx_latches : (modCtx x f s).latches = s.latches := rfl
@[simp] theorem modCtx_glb : (modCtx x f s).glb = s.glb := rfl
@[simp] theorem modCtx_hif : (modCtx x f s).hif = s.hif := rfl
@[simp] theorem modCtx_ports : (modCtx x f s).ports = s.ports := rfl
@[simp] theorem modCtx_red : (modCtx x f s).red = s.red := rfl
@[simp] theorem modCtx_flg : (modCtx x f s).flg = s.flg := rfl
@[simp] theorem modCtx_str : (modCtx x f s).str = s.str := rfl
@[simp] theorem modCtx_regions : (modCtx x f s).regions = s.regions := rfl
@[simp] theorem modCtx_bindings : (modCtx x f s).bindings = s.bindings := rfl
@[simp] theorem modCtx_heldGathers : (modCtx x f s).heldGathers = s.heldGathers := rfl
@[simp] theorem modCtx_upd : (modCtx x f s).upd = s.upd := rfl
@[simp] theorem modCtx_cmps : (modCtx x f s).cmps = s.cmps := rfl
@[simp] theorem modCtx_bses : (modCtx x f s).bses = s.bses := rfl
@[simp] theorem modCtx_pwr : (modCtx x f s).pwr = s.pwr := rfl
@[simp] theorem modCtx_boot : (modCtx x f s).boot = s.boot := rfl
@[simp] theorem modCtx_dies : (modCtx x f s).dies = s.dies := rfl
@[simp] theorem modCtx_hdm : (modCtx x f s).hdm = s.hdm := rfl
@[simp] theorem modCtx_poison : (modCtx x f s).poison = s.poison := rfl
@[simp] theorem modCtx_bias : (modCtx x f s).bias = s.bias := rfl
@[simp] theorem modCtx_sramPoison : (modCtx x f s).sramPoison = s.sramPoison := rfl
@[simp] theorem modCtx_heldArr : (modCtx x f s).heldArr = s.heldArr := rfl
@[simp] theorem modCtx_stalled : (modCtx x f s).stalled = s.stalled := rfl
@[simp] theorem modCtx_out : (modCtx x f s).out = s.out := rfl
@[simp] theorem modCtx_free : (modCtx x f s).free = s.free := rfl
@[simp] theorem modCtx_pending : (modCtx x f s).pending = s.pending := rfl
end

/-! ### `modPort` changes only `ports`. -/
section
variable (p : Nat) (f : Port → Port) (s : State)
@[simp] theorem modPort_regs : (modPort p f s).regs = s.regs := rfl
@[simp] theorem modPort_latches : (modPort p f s).latches = s.latches := rfl
@[simp] theorem modPort_glb : (modPort p f s).glb = s.glb := rfl
@[simp] theorem modPort_hif : (modPort p f s).hif = s.hif := rfl
@[simp] theorem modPort_red : (modPort p f s).red = s.red := rfl
@[simp] theorem modPort_flg : (modPort p f s).flg = s.flg := rfl
@[simp] theorem modPort_str : (modPort p f s).str = s.str := rfl
@[simp] theorem modPort_ctxs : (modPort p f s).ctxs = s.ctxs := rfl
@[simp] theorem modPort_regions : (modPort p f s).regions = s.regions := rfl
@[simp] theorem modPort_bindings : (modPort p f s).bindings = s.bindings := rfl
@[simp] theorem modPort_heldGathers : (modPort p f s).heldGathers = s.heldGathers := rfl
@[simp] theorem modPort_upd : (modPort p f s).upd = s.upd := rfl
@[simp] theorem modPort_cmps : (modPort p f s).cmps = s.cmps := rfl
@[simp] theorem modPort_bses : (modPort p f s).bses = s.bses := rfl
@[simp] theorem modPort_pwr : (modPort p f s).pwr = s.pwr := rfl
@[simp] theorem modPort_boot : (modPort p f s).boot = s.boot := rfl
@[simp] theorem modPort_dies : (modPort p f s).dies = s.dies := rfl
@[simp] theorem modPort_hdm : (modPort p f s).hdm = s.hdm := rfl
@[simp] theorem modPort_poison : (modPort p f s).poison = s.poison := rfl
@[simp] theorem modPort_bias : (modPort p f s).bias = s.bias := rfl
@[simp] theorem modPort_sramPoison : (modPort p f s).sramPoison = s.sramPoison := rfl
@[simp] theorem modPort_heldArr : (modPort p f s).heldArr = s.heldArr := rfl
@[simp] theorem modPort_stalled : (modPort p f s).stalled = s.stalled := rfl
@[simp] theorem modPort_out : (modPort p f s).out = s.out := rfl
@[simp] theorem modPort_free : (modPort p f s).free = s.free := rfl
@[simp] theorem modPort_pending : (modPort p f s).pending = s.pending := rfl
end

/-! ### `modRing` changes only `hif`. -/
section
variable (n : Nat) (f : Ring → Ring) (s : State)
@[simp] theorem modRing_regs : (modRing n f s).regs = s.regs := rfl
@[simp] theorem modRing_latches : (modRing n f s).latches = s.latches := rfl
@[simp] theorem modRing_glb : (modRing n f s).glb = s.glb := rfl
@[simp] theorem modRing_ports : (modRing n f s).ports = s.ports := rfl
@[simp] theorem modRing_red : (modRing n f s).red = s.red := rfl
@[simp] theorem modRing_flg : (modRing n f s).flg = s.flg := rfl
@[simp] theorem modRing_str : (modRing n f s).str = s.str := rfl
@[simp] theorem modRing_ctxs : (modRing n f s).ctxs = s.ctxs := rfl
@[simp] theorem modRing_regions : (modRing n f s).regions = s.regions := rfl
@[simp] theorem modRing_bindings : (modRing n f s).bindings = s.bindings := rfl
@[simp] theorem modRing_heldGathers : (modRing n f s).heldGathers = s.heldGathers := rfl
@[simp] theorem modRing_upd : (modRing n f s).upd = s.upd := rfl
@[simp] theorem modRing_cmps : (modRing n f s).cmps = s.cmps := rfl
@[simp] theorem modRing_bses : (modRing n f s).bses = s.bses := rfl
@[simp] theorem modRing_pwr : (modRing n f s).pwr = s.pwr := rfl
@[simp] theorem modRing_boot : (modRing n f s).boot = s.boot := rfl
@[simp] theorem modRing_dies : (modRing n f s).dies = s.dies := rfl
@[simp] theorem modRing_hdm : (modRing n f s).hdm = s.hdm := rfl
@[simp] theorem modRing_poison : (modRing n f s).poison = s.poison := rfl
@[simp] theorem modRing_bias : (modRing n f s).bias = s.bias := rfl
@[simp] theorem modRing_sramPoison : (modRing n f s).sramPoison = s.sramPoison := rfl
@[simp] theorem modRing_heldArr : (modRing n f s).heldArr = s.heldArr := rfl
@[simp] theorem modRing_stalled : (modRing n f s).stalled = s.stalled := rfl
@[simp] theorem modRing_out : (modRing n f s).out = s.out := rfl
@[simp] theorem modRing_free : (modRing n f s).free = s.free := rfl
@[simp] theorem modRing_pending : (modRing n f s).pending = s.pending := rfl
end

/-! ### `modCmp` changes only `cmps`. -/
section
variable (d : Nat) (f : Cmp → Cmp) (s : State)
@[simp] theorem modCmp_regs : (modCmp d f s).regs = s.regs := rfl
@[simp] theorem modCmp_latches : (modCmp d f s).latches = s.latches := rfl
@[simp] theorem modCmp_glb : (modCmp d f s).glb = s.glb := rfl
@[simp] theorem modCmp_hif : (modCmp d f s).hif = s.hif := rfl
@[simp] theorem modCmp_ports : (modCmp d f s).ports = s.ports := rfl
@[simp] theorem modCmp_red : (modCmp d f s).red = s.red := rfl
@[simp] theorem modCmp_flg : (modCmp d f s).flg = s.flg := rfl
@[simp] theorem modCmp_str : (modCmp d f s).str = s.str := rfl
@[simp] theorem modCmp_ctxs : (modCmp d f s).ctxs = s.ctxs := rfl
@[simp] theorem modCmp_regions : (modCmp d f s).regions = s.regions := rfl
@[simp] theorem modCmp_bindings : (modCmp d f s).bindings = s.bindings := rfl
@[simp] theorem modCmp_heldGathers : (modCmp d f s).heldGathers = s.heldGathers := rfl
@[simp] theorem modCmp_upd : (modCmp d f s).upd = s.upd := rfl
@[simp] theorem modCmp_bses : (modCmp d f s).bses = s.bses := rfl
@[simp] theorem modCmp_pwr : (modCmp d f s).pwr = s.pwr := rfl
@[simp] theorem modCmp_boot : (modCmp d f s).boot = s.boot := rfl
@[simp] theorem modCmp_dies : (modCmp d f s).dies = s.dies := rfl
@[simp] theorem modCmp_hdm : (modCmp d f s).hdm = s.hdm := rfl
@[simp] theorem modCmp_poison : (modCmp d f s).poison = s.poison := rfl
@[simp] theorem modCmp_bias : (modCmp d f s).bias = s.bias := rfl
@[simp] theorem modCmp_sramPoison : (modCmp d f s).sramPoison = s.sramPoison := rfl
@[simp] theorem modCmp_heldArr : (modCmp d f s).heldArr = s.heldArr := rfl
@[simp] theorem modCmp_stalled : (modCmp d f s).stalled = s.stalled := rfl
@[simp] theorem modCmp_out : (modCmp d f s).out = s.out := rfl
@[simp] theorem modCmp_free : (modCmp d f s).free = s.free := rfl
@[simp] theorem modCmp_pending : (modCmp d f s).pending = s.pending := rfl
end

/-! ### `modBse` changes only `bses`. -/
section
variable (d : Nat) (f : Bse → Bse) (s : State)
@[simp] theorem modBse_regs : (modBse d f s).regs = s.regs := rfl
@[simp] theorem modBse_latches : (modBse d f s).latches = s.latches := rfl
@[simp] theorem modBse_glb : (modBse d f s).glb = s.glb := rfl
@[simp] theorem modBse_hif : (modBse d f s).hif = s.hif := rfl
@[simp] theorem modBse_ports : (modBse d f s).ports = s.ports := rfl
@[simp] theorem modBse_red : (modBse d f s).red = s.red := rfl
@[simp] theorem modBse_flg : (modBse d f s).flg = s.flg := rfl
@[simp] theorem modBse_str : (modBse d f s).str = s.str := rfl
@[simp] theorem modBse_ctxs : (modBse d f s).ctxs = s.ctxs := rfl
@[simp] theorem modBse_regions : (modBse d f s).regions = s.regions := rfl
@[simp] theorem modBse_bindings : (modBse d f s).bindings = s.bindings := rfl
@[simp] theorem modBse_heldGathers : (modBse d f s).heldGathers = s.heldGathers := rfl
@[simp] theorem modBse_upd : (modBse d f s).upd = s.upd := rfl
@[simp] theorem modBse_cmps : (modBse d f s).cmps = s.cmps := rfl
@[simp] theorem modBse_pwr : (modBse d f s).pwr = s.pwr := rfl
@[simp] theorem modBse_boot : (modBse d f s).boot = s.boot := rfl
@[simp] theorem modBse_dies : (modBse d f s).dies = s.dies := rfl
@[simp] theorem modBse_hdm : (modBse d f s).hdm = s.hdm := rfl
@[simp] theorem modBse_poison : (modBse d f s).poison = s.poison := rfl
@[simp] theorem modBse_bias : (modBse d f s).bias = s.bias := rfl
@[simp] theorem modBse_sramPoison : (modBse d f s).sramPoison = s.sramPoison := rfl
@[simp] theorem modBse_heldArr : (modBse d f s).heldArr = s.heldArr := rfl
@[simp] theorem modBse_stalled : (modBse d f s).stalled = s.stalled := rfl
@[simp] theorem modBse_out : (modBse d f s).out = s.out := rfl
@[simp] theorem modBse_free : (modBse d f s).free = s.free := rfl
@[simp] theorem modBse_pending : (modBse d f s).pending = s.pending := rfl
end

/-! ### `modMap` changes only `flg`. -/
section
variable (c : Nat) (f : FlagMap → FlagMap) (s : State)
@[simp] theorem modMap_regs : (modMap c f s).regs = s.regs := rfl
@[simp] theorem modMap_latches : (modMap c f s).latches = s.latches := rfl
@[simp] theorem modMap_glb : (modMap c f s).glb = s.glb := rfl
@[simp] theorem modMap_hif : (modMap c f s).hif = s.hif := rfl
@[simp] theorem modMap_ports : (modMap c f s).ports = s.ports := rfl
@[simp] theorem modMap_red : (modMap c f s).red = s.red := rfl
@[simp] theorem modMap_str : (modMap c f s).str = s.str := rfl
@[simp] theorem modMap_ctxs : (modMap c f s).ctxs = s.ctxs := rfl
@[simp] theorem modMap_regions : (modMap c f s).regions = s.regions := rfl
@[simp] theorem modMap_bindings : (modMap c f s).bindings = s.bindings := rfl
@[simp] theorem modMap_heldGathers : (modMap c f s).heldGathers = s.heldGathers := rfl
@[simp] theorem modMap_upd : (modMap c f s).upd = s.upd := rfl
@[simp] theorem modMap_cmps : (modMap c f s).cmps = s.cmps := rfl
@[simp] theorem modMap_bses : (modMap c f s).bses = s.bses := rfl
@[simp] theorem modMap_pwr : (modMap c f s).pwr = s.pwr := rfl
@[simp] theorem modMap_boot : (modMap c f s).boot = s.boot := rfl
@[simp] theorem modMap_dies : (modMap c f s).dies = s.dies := rfl
@[simp] theorem modMap_hdm : (modMap c f s).hdm = s.hdm := rfl
@[simp] theorem modMap_poison : (modMap c f s).poison = s.poison := rfl
@[simp] theorem modMap_bias : (modMap c f s).bias = s.bias := rfl
@[simp] theorem modMap_sramPoison : (modMap c f s).sramPoison = s.sramPoison := rfl
@[simp] theorem modMap_heldArr : (modMap c f s).heldArr = s.heldArr := rfl
@[simp] theorem modMap_stalled : (modMap c f s).stalled = s.stalled := rfl
@[simp] theorem modMap_out : (modMap c f s).out = s.out := rfl
@[simp] theorem modMap_free : (modMap c f s).free = s.free := rfl
@[simp] theorem modMap_pending : (modMap c f s).pending = s.pending := rfl
end

/-! ### `emit` changes only `out`. -/
section
variable (o : Out) (s : State)
@[simp] theorem emit_regs : (emit o s).regs = s.regs := rfl
@[simp] theorem emit_latches : (emit o s).latches = s.latches := rfl
@[simp] theorem emit_glb : (emit o s).glb = s.glb := rfl
@[simp] theorem emit_hif : (emit o s).hif = s.hif := rfl
@[simp] theorem emit_ports : (emit o s).ports = s.ports := rfl
@[simp] theorem emit_red : (emit o s).red = s.red := rfl
@[simp] theorem emit_flg : (emit o s).flg = s.flg := rfl
@[simp] theorem emit_str : (emit o s).str = s.str := rfl
@[simp] theorem emit_ctxs : (emit o s).ctxs = s.ctxs := rfl
@[simp] theorem emit_regions : (emit o s).regions = s.regions := rfl
@[simp] theorem emit_bindings : (emit o s).bindings = s.bindings := rfl
@[simp] theorem emit_heldGathers : (emit o s).heldGathers = s.heldGathers := rfl
@[simp] theorem emit_upd : (emit o s).upd = s.upd := rfl
@[simp] theorem emit_cmps : (emit o s).cmps = s.cmps := rfl
@[simp] theorem emit_bses : (emit o s).bses = s.bses := rfl
@[simp] theorem emit_pwr : (emit o s).pwr = s.pwr := rfl
@[simp] theorem emit_boot : (emit o s).boot = s.boot := rfl
@[simp] theorem emit_dies : (emit o s).dies = s.dies := rfl
@[simp] theorem emit_hdm : (emit o s).hdm = s.hdm := rfl
@[simp] theorem emit_poison : (emit o s).poison = s.poison := rfl
@[simp] theorem emit_bias : (emit o s).bias = s.bias := rfl
@[simp] theorem emit_sramPoison : (emit o s).sramPoison = s.sramPoison := rfl
@[simp] theorem emit_heldArr : (emit o s).heldArr = s.heldArr := rfl
@[simp] theorem emit_stalled : (emit o s).stalled = s.stalled := rfl
@[simp] theorem emit_free : (emit o s).free = s.free := rfl
@[simp] theorem emit_pending : (emit o s).pending = s.pending := rfl
end

/-! ### `spend` changes only `free`. -/
section
variable (s : State)
@[simp] theorem spend_regs : (spend s).regs = s.regs := rfl
@[simp] theorem spend_latches : (spend s).latches = s.latches := rfl
@[simp] theorem spend_glb : (spend s).glb = s.glb := rfl
@[simp] theorem spend_hif : (spend s).hif = s.hif := rfl
@[simp] theorem spend_ports : (spend s).ports = s.ports := rfl
@[simp] theorem spend_red : (spend s).red = s.red := rfl
@[simp] theorem spend_flg : (spend s).flg = s.flg := rfl
@[simp] theorem spend_str : (spend s).str = s.str := rfl
@[simp] theorem spend_ctxs : (spend s).ctxs = s.ctxs := rfl
@[simp] theorem spend_regions : (spend s).regions = s.regions := rfl
@[simp] theorem spend_bindings : (spend s).bindings = s.bindings := rfl
@[simp] theorem spend_heldGathers : (spend s).heldGathers = s.heldGathers := rfl
@[simp] theorem spend_upd : (spend s).upd = s.upd := rfl
@[simp] theorem spend_cmps : (spend s).cmps = s.cmps := rfl
@[simp] theorem spend_bses : (spend s).bses = s.bses := rfl
@[simp] theorem spend_pwr : (spend s).pwr = s.pwr := rfl
@[simp] theorem spend_boot : (spend s).boot = s.boot := rfl
@[simp] theorem spend_dies : (spend s).dies = s.dies := rfl
@[simp] theorem spend_hdm : (spend s).hdm = s.hdm := rfl
@[simp] theorem spend_poison : (spend s).poison = s.poison := rfl
@[simp] theorem spend_bias : (spend s).bias = s.bias := rfl
@[simp] theorem spend_sramPoison : (spend s).sramPoison = s.sramPoison := rfl
@[simp] theorem spend_heldArr : (spend s).heldArr = s.heldArr := rfl
@[simp] theorem spend_stalled : (spend s).stalled = s.stalled := rfl
@[simp] theorem spend_out : (spend s).out = s.out := rfl
@[simp] theorem spend_pending : (spend s).pending = s.pending := rfl
end

/-! ### `regPut` changes only `regs`. -/
section
variable (off v : Nat) (s : State)
@[simp] theorem regPut_latches : (regPut off v s).latches = s.latches := rfl
@[simp] theorem regPut_glb : (regPut off v s).glb = s.glb := rfl
@[simp] theorem regPut_hif : (regPut off v s).hif = s.hif := rfl
@[simp] theorem regPut_ports : (regPut off v s).ports = s.ports := rfl
@[simp] theorem regPut_red : (regPut off v s).red = s.red := rfl
@[simp] theorem regPut_flg : (regPut off v s).flg = s.flg := rfl
@[simp] theorem regPut_str : (regPut off v s).str = s.str := rfl
@[simp] theorem regPut_ctxs : (regPut off v s).ctxs = s.ctxs := rfl
@[simp] theorem regPut_regions : (regPut off v s).regions = s.regions := rfl
@[simp] theorem regPut_bindings : (regPut off v s).bindings = s.bindings := rfl
@[simp] theorem regPut_heldGathers : (regPut off v s).heldGathers = s.heldGathers := rfl
@[simp] theorem regPut_upd : (regPut off v s).upd = s.upd := rfl
@[simp] theorem regPut_cmps : (regPut off v s).cmps = s.cmps := rfl
@[simp] theorem regPut_bses : (regPut off v s).bses = s.bses := rfl
@[simp] theorem regPut_pwr : (regPut off v s).pwr = s.pwr := rfl
@[simp] theorem regPut_boot : (regPut off v s).boot = s.boot := rfl
@[simp] theorem regPut_dies : (regPut off v s).dies = s.dies := rfl
@[simp] theorem regPut_hdm : (regPut off v s).hdm = s.hdm := rfl
@[simp] theorem regPut_poison : (regPut off v s).poison = s.poison := rfl
@[simp] theorem regPut_bias : (regPut off v s).bias = s.bias := rfl
@[simp] theorem regPut_sramPoison : (regPut off v s).sramPoison = s.sramPoison := rfl
@[simp] theorem regPut_heldArr : (regPut off v s).heldArr = s.heldArr := rfl
@[simp] theorem regPut_stalled : (regPut off v s).stalled = s.stalled := rfl
@[simp] theorem regPut_out : (regPut off v s).out = s.out := rfl
@[simp] theorem regPut_free : (regPut off v s).free = s.free := rfl
@[simp] theorem regPut_pending : (regPut off v s).pending = s.pending := rfl
end

/-! ### `setFld` changes only `regs`. -/
section
variable (off lo n v : Nat) (s : State)
@[simp] theorem setFld_latches : (setFld off lo n v s).latches = s.latches := rfl
@[simp] theorem setFld_glb : (setFld off lo n v s).glb = s.glb := rfl
@[simp] theorem setFld_hif : (setFld off lo n v s).hif = s.hif := rfl
@[simp] theorem setFld_ports : (setFld off lo n v s).ports = s.ports := rfl
@[simp] theorem setFld_red : (setFld off lo n v s).red = s.red := rfl
@[simp] theorem setFld_flg : (setFld off lo n v s).flg = s.flg := rfl
@[simp] theorem setFld_str : (setFld off lo n v s).str = s.str := rfl
@[simp] theorem setFld_ctxs : (setFld off lo n v s).ctxs = s.ctxs := rfl
@[simp] theorem setFld_regions : (setFld off lo n v s).regions = s.regions := rfl
@[simp] theorem setFld_bindings : (setFld off lo n v s).bindings = s.bindings := rfl
@[simp] theorem setFld_heldGathers : (setFld off lo n v s).heldGathers = s.heldGathers := rfl
@[simp] theorem setFld_upd : (setFld off lo n v s).upd = s.upd := rfl
@[simp] theorem setFld_cmps : (setFld off lo n v s).cmps = s.cmps := rfl
@[simp] theorem setFld_bses : (setFld off lo n v s).bses = s.bses := rfl
@[simp] theorem setFld_pwr : (setFld off lo n v s).pwr = s.pwr := rfl
@[simp] theorem setFld_boot : (setFld off lo n v s).boot = s.boot := rfl
@[simp] theorem setFld_dies : (setFld off lo n v s).dies = s.dies := rfl
@[simp] theorem setFld_hdm : (setFld off lo n v s).hdm = s.hdm := rfl
@[simp] theorem setFld_poison : (setFld off lo n v s).poison = s.poison := rfl
@[simp] theorem setFld_bias : (setFld off lo n v s).bias = s.bias := rfl
@[simp] theorem setFld_sramPoison : (setFld off lo n v s).sramPoison = s.sramPoison := rfl
@[simp] theorem setFld_heldArr : (setFld off lo n v s).heldArr = s.heldArr := rfl
@[simp] theorem setFld_stalled : (setFld off lo n v s).stalled = s.stalled := rfl
@[simp] theorem setFld_out : (setFld off lo n v s).out = s.out := rfl
@[simp] theorem setFld_free : (setFld off lo n v s).free = s.free := rfl
@[simp] theorem setFld_pending : (setFld off lo n v s).pending = s.pending := rfl
end

/-! ### `bump` changes only `regs`. -/
section
variable (off lo n k : Nat) (s : State)
@[simp] theorem bump_latches : (bump off lo n k s).latches = s.latches := rfl
@[simp] theorem bump_glb : (bump off lo n k s).glb = s.glb := rfl
@[simp] theorem bump_hif : (bump off lo n k s).hif = s.hif := rfl
@[simp] theorem bump_ports : (bump off lo n k s).ports = s.ports := rfl
@[simp] theorem bump_red : (bump off lo n k s).red = s.red := rfl
@[simp] theorem bump_flg : (bump off lo n k s).flg = s.flg := rfl
@[simp] theorem bump_str : (bump off lo n k s).str = s.str := rfl
@[simp] theorem bump_ctxs : (bump off lo n k s).ctxs = s.ctxs := rfl
@[simp] theorem bump_regions : (bump off lo n k s).regions = s.regions := rfl
@[simp] theorem bump_bindings : (bump off lo n k s).bindings = s.bindings := rfl
@[simp] theorem bump_heldGathers : (bump off lo n k s).heldGathers = s.heldGathers := rfl
@[simp] theorem bump_upd : (bump off lo n k s).upd = s.upd := rfl
@[simp] theorem bump_cmps : (bump off lo n k s).cmps = s.cmps := rfl
@[simp] theorem bump_bses : (bump off lo n k s).bses = s.bses := rfl
@[simp] theorem bump_pwr : (bump off lo n k s).pwr = s.pwr := rfl
@[simp] theorem bump_boot : (bump off lo n k s).boot = s.boot := rfl
@[simp] theorem bump_dies : (bump off lo n k s).dies = s.dies := rfl
@[simp] theorem bump_hdm : (bump off lo n k s).hdm = s.hdm := rfl
@[simp] theorem bump_poison : (bump off lo n k s).poison = s.poison := rfl
@[simp] theorem bump_bias : (bump off lo n k s).bias = s.bias := rfl
@[simp] theorem bump_sramPoison : (bump off lo n k s).sramPoison = s.sramPoison := rfl
@[simp] theorem bump_heldArr : (bump off lo n k s).heldArr = s.heldArr := rfl
@[simp] theorem bump_stalled : (bump off lo n k s).stalled = s.stalled := rfl
@[simp] theorem bump_out : (bump off lo n k s).out = s.out := rfl
@[simp] theorem bump_free : (bump off lo n k s).free = s.free := rfl
@[simp] theorem bump_pending : (bump off lo n k s).pending = s.pending := rfl
end

/-! ### `setBit` changes only `regs`. -/
section
variable (off i : Nat) (s : State)
@[simp] theorem setBit_latches : (setBit off i s).latches = s.latches := rfl
@[simp] theorem setBit_glb : (setBit off i s).glb = s.glb := rfl
@[simp] theorem setBit_hif : (setBit off i s).hif = s.hif := rfl
@[simp] theorem setBit_ports : (setBit off i s).ports = s.ports := rfl
@[simp] theorem setBit_red : (setBit off i s).red = s.red := rfl
@[simp] theorem setBit_flg : (setBit off i s).flg = s.flg := rfl
@[simp] theorem setBit_str : (setBit off i s).str = s.str := rfl
@[simp] theorem setBit_ctxs : (setBit off i s).ctxs = s.ctxs := rfl
@[simp] theorem setBit_regions : (setBit off i s).regions = s.regions := rfl
@[simp] theorem setBit_bindings : (setBit off i s).bindings = s.bindings := rfl
@[simp] theorem setBit_heldGathers : (setBit off i s).heldGathers = s.heldGathers := rfl
@[simp] theorem setBit_upd : (setBit off i s).upd = s.upd := rfl
@[simp] theorem setBit_cmps : (setBit off i s).cmps = s.cmps := rfl
@[simp] theorem setBit_bses : (setBit off i s).bses = s.bses := rfl
@[simp] theorem setBit_pwr : (setBit off i s).pwr = s.pwr := rfl
@[simp] theorem setBit_boot : (setBit off i s).boot = s.boot := rfl
@[simp] theorem setBit_dies : (setBit off i s).dies = s.dies := rfl
@[simp] theorem setBit_hdm : (setBit off i s).hdm = s.hdm := rfl
@[simp] theorem setBit_poison : (setBit off i s).poison = s.poison := rfl
@[simp] theorem setBit_bias : (setBit off i s).bias = s.bias := rfl
@[simp] theorem setBit_sramPoison : (setBit off i s).sramPoison = s.sramPoison := rfl
@[simp] theorem setBit_heldArr : (setBit off i s).heldArr = s.heldArr := rfl
@[simp] theorem setBit_stalled : (setBit off i s).stalled = s.stalled := rfl
@[simp] theorem setBit_out : (setBit off i s).out = s.out := rfl
@[simp] theorem setBit_free : (setBit off i s).free = s.free := rfl
@[simp] theorem setBit_pending : (setBit off i s).pending = s.pending := rfl
end

/-! ### `modVec` changes only `glb`. -/
section
variable (v : Nat) (f : Vec → Vec) (s : State)
@[simp] theorem modVec_regs : (modVec v f s).regs = s.regs := rfl
@[simp] theorem modVec_latches : (modVec v f s).latches = s.latches := rfl
@[simp] theorem modVec_hif : (modVec v f s).hif = s.hif := rfl
@[simp] theorem modVec_ports : (modVec v f s).ports = s.ports := rfl
@[simp] theorem modVec_red : (modVec v f s).red = s.red := rfl
@[simp] theorem modVec_flg : (modVec v f s).flg = s.flg := rfl
@[simp] theorem modVec_str : (modVec v f s).str = s.str := rfl
@[simp] theorem modVec_ctxs : (modVec v f s).ctxs = s.ctxs := rfl
@[simp] theorem modVec_regions : (modVec v f s).regions = s.regions := rfl
@[simp] theorem modVec_bindings : (modVec v f s).bindings = s.bindings := rfl
@[simp] theorem modVec_heldGathers : (modVec v f s).heldGathers = s.heldGathers := rfl
@[simp] theorem modVec_upd : (modVec v f s).upd = s.upd := rfl
@[simp] theorem modVec_cmps : (modVec v f s).cmps = s.cmps := rfl
@[simp] theorem modVec_bses : (modVec v f s).bses = s.bses := rfl
@[simp] theorem modVec_pwr : (modVec v f s).pwr = s.pwr := rfl
@[simp] theorem modVec_boot : (modVec v f s).boot = s.boot := rfl
@[simp] theorem modVec_dies : (modVec v f s).dies = s.dies := rfl
@[simp] theorem modVec_hdm : (modVec v f s).hdm = s.hdm := rfl
@[simp] theorem modVec_poison : (modVec v f s).poison = s.poison := rfl
@[simp] theorem modVec_bias : (modVec v f s).bias = s.bias := rfl
@[simp] theorem modVec_sramPoison : (modVec v f s).sramPoison = s.sramPoison := rfl
@[simp] theorem modVec_heldArr : (modVec v f s).heldArr = s.heldArr := rfl
@[simp] theorem modVec_stalled : (modVec v f s).stalled = s.stalled := rfl
@[simp] theorem modVec_out : (modVec v f s).out = s.out := rfl
@[simp] theorem modVec_free : (modVec v f s).free = s.free := rfl
@[simp] theorem modVec_pending : (modVec v f s).pending = s.pending := rfl
end

/-! ### `sendMsix` changes only `glb`, `out`. -/
section
variable (v : Nat) (s : State)
@[simp] theorem sendMsix_regs : (sendMsix v s).regs = s.regs := rfl
@[simp] theorem sendMsix_latches : (sendMsix v s).latches = s.latches := rfl
@[simp] theorem sendMsix_hif : (sendMsix v s).hif = s.hif := rfl
@[simp] theorem sendMsix_ports : (sendMsix v s).ports = s.ports := rfl
@[simp] theorem sendMsix_red : (sendMsix v s).red = s.red := rfl
@[simp] theorem sendMsix_flg : (sendMsix v s).flg = s.flg := rfl
@[simp] theorem sendMsix_str : (sendMsix v s).str = s.str := rfl
@[simp] theorem sendMsix_ctxs : (sendMsix v s).ctxs = s.ctxs := rfl
@[simp] theorem sendMsix_regions : (sendMsix v s).regions = s.regions := rfl
@[simp] theorem sendMsix_bindings : (sendMsix v s).bindings = s.bindings := rfl
@[simp] theorem sendMsix_heldGathers : (sendMsix v s).heldGathers = s.heldGathers := rfl
@[simp] theorem sendMsix_upd : (sendMsix v s).upd = s.upd := rfl
@[simp] theorem sendMsix_cmps : (sendMsix v s).cmps = s.cmps := rfl
@[simp] theorem sendMsix_bses : (sendMsix v s).bses = s.bses := rfl
@[simp] theorem sendMsix_pwr : (sendMsix v s).pwr = s.pwr := rfl
@[simp] theorem sendMsix_boot : (sendMsix v s).boot = s.boot := rfl
@[simp] theorem sendMsix_dies : (sendMsix v s).dies = s.dies := rfl
@[simp] theorem sendMsix_hdm : (sendMsix v s).hdm = s.hdm := rfl
@[simp] theorem sendMsix_poison : (sendMsix v s).poison = s.poison := rfl
@[simp] theorem sendMsix_bias : (sendMsix v s).bias = s.bias := rfl
@[simp] theorem sendMsix_sramPoison : (sendMsix v s).sramPoison = s.sramPoison := rfl
@[simp] theorem sendMsix_heldArr : (sendMsix v s).heldArr = s.heldArr := rfl
@[simp] theorem sendMsix_stalled : (sendMsix v s).stalled = s.stalled := rfl
@[simp] theorem sendMsix_free : (sendMsix v s).free = s.free := rfl
@[simp] theorem sendMsix_pending : (sendMsix v s).pending = s.pending := rfl
end

/-! ### `logEv` changes only `glb`. -/
section
variable (e st ag : Nat) (i : LogInfo) (s : State)
@[simp] theorem logEv_regs : (logEv e st ag i s).regs = s.regs := rfl
@[simp] theorem logEv_latches : (logEv e st ag i s).latches = s.latches := rfl
@[simp] theorem logEv_hif : (logEv e st ag i s).hif = s.hif := rfl
@[simp] theorem logEv_ports : (logEv e st ag i s).ports = s.ports := rfl
@[simp] theorem logEv_red : (logEv e st ag i s).red = s.red := rfl
@[simp] theorem logEv_flg : (logEv e st ag i s).flg = s.flg := rfl
@[simp] theorem logEv_str : (logEv e st ag i s).str = s.str := rfl
@[simp] theorem logEv_ctxs : (logEv e st ag i s).ctxs = s.ctxs := rfl
@[simp] theorem logEv_regions : (logEv e st ag i s).regions = s.regions := rfl
@[simp] theorem logEv_bindings : (logEv e st ag i s).bindings = s.bindings := rfl
@[simp] theorem logEv_heldGathers : (logEv e st ag i s).heldGathers = s.heldGathers := rfl
@[simp] theorem logEv_upd : (logEv e st ag i s).upd = s.upd := rfl
@[simp] theorem logEv_cmps : (logEv e st ag i s).cmps = s.cmps := rfl
@[simp] theorem logEv_bses : (logEv e st ag i s).bses = s.bses := rfl
@[simp] theorem logEv_pwr : (logEv e st ag i s).pwr = s.pwr := rfl
@[simp] theorem logEv_boot : (logEv e st ag i s).boot = s.boot := rfl
@[simp] theorem logEv_dies : (logEv e st ag i s).dies = s.dies := rfl
@[simp] theorem logEv_hdm : (logEv e st ag i s).hdm = s.hdm := rfl
@[simp] theorem logEv_poison : (logEv e st ag i s).poison = s.poison := rfl
@[simp] theorem logEv_bias : (logEv e st ag i s).bias = s.bias := rfl
@[simp] theorem logEv_sramPoison : (logEv e st ag i s).sramPoison = s.sramPoison := rfl
@[simp] theorem logEv_heldArr : (logEv e st ag i s).heldArr = s.heldArr := rfl
@[simp] theorem logEv_stalled : (logEv e st ag i s).stalled = s.stalled := rfl
@[simp] theorem logEv_out : (logEv e st ag i s).out = s.out := rfl
@[simp] theorem logEv_free : (logEv e st ag i s).free = s.free := rfl
@[simp] theorem logEv_pending : (logEv e st ag i s).pending = s.pending := rfl
end

/-! ### `memWrite` changes only `hdm`, `poison`. -/
section
variable (a : Nat) (d : List Byte) (s : State)
@[simp] theorem memWrite_regs : (memWrite a d s).regs = s.regs := rfl
@[simp] theorem memWrite_latches : (memWrite a d s).latches = s.latches := rfl
@[simp] theorem memWrite_glb : (memWrite a d s).glb = s.glb := rfl
@[simp] theorem memWrite_hif : (memWrite a d s).hif = s.hif := rfl
@[simp] theorem memWrite_ports : (memWrite a d s).ports = s.ports := rfl
@[simp] theorem memWrite_red : (memWrite a d s).red = s.red := rfl
@[simp] theorem memWrite_flg : (memWrite a d s).flg = s.flg := rfl
@[simp] theorem memWrite_str : (memWrite a d s).str = s.str := rfl
@[simp] theorem memWrite_ctxs : (memWrite a d s).ctxs = s.ctxs := rfl
@[simp] theorem memWrite_regions : (memWrite a d s).regions = s.regions := rfl
@[simp] theorem memWrite_bindings : (memWrite a d s).bindings = s.bindings := rfl
@[simp] theorem memWrite_heldGathers : (memWrite a d s).heldGathers = s.heldGathers := rfl
@[simp] theorem memWrite_upd : (memWrite a d s).upd = s.upd := rfl
@[simp] theorem memWrite_cmps : (memWrite a d s).cmps = s.cmps := rfl
@[simp] theorem memWrite_bses : (memWrite a d s).bses = s.bses := rfl
@[simp] theorem memWrite_pwr : (memWrite a d s).pwr = s.pwr := rfl
@[simp] theorem memWrite_boot : (memWrite a d s).boot = s.boot := rfl
@[simp] theorem memWrite_dies : (memWrite a d s).dies = s.dies := rfl
@[simp] theorem memWrite_bias : (memWrite a d s).bias = s.bias := rfl
@[simp] theorem memWrite_sramPoison : (memWrite a d s).sramPoison = s.sramPoison := rfl
@[simp] theorem memWrite_heldArr : (memWrite a d s).heldArr = s.heldArr := rfl
@[simp] theorem memWrite_stalled : (memWrite a d s).stalled = s.stalled := rfl
@[simp] theorem memWrite_out : (memWrite a d s).out = s.out := rfl
@[simp] theorem memWrite_free : (memWrite a d s).free = s.free := rfl
@[simp] theorem memWrite_pending : (memWrite a d s).pending = s.pending := rfl
end

/-! ### `dropAccepted` changes only `hif`. -/
section
variable (h : HostHdr) (s : State)
@[simp] theorem dropAccepted_regs : (dropAccepted h s).regs = s.regs := rfl
@[simp] theorem dropAccepted_latches : (dropAccepted h s).latches = s.latches := rfl
@[simp] theorem dropAccepted_glb : (dropAccepted h s).glb = s.glb := rfl
@[simp] theorem dropAccepted_ports : (dropAccepted h s).ports = s.ports := rfl
@[simp] theorem dropAccepted_red : (dropAccepted h s).red = s.red := rfl
@[simp] theorem dropAccepted_flg : (dropAccepted h s).flg = s.flg := rfl
@[simp] theorem dropAccepted_str : (dropAccepted h s).str = s.str := rfl
@[simp] theorem dropAccepted_ctxs : (dropAccepted h s).ctxs = s.ctxs := rfl
@[simp] theorem dropAccepted_regions : (dropAccepted h s).regions = s.regions := rfl
@[simp] theorem dropAccepted_bindings : (dropAccepted h s).bindings = s.bindings := rfl
@[simp] theorem dropAccepted_heldGathers : (dropAccepted h s).heldGathers = s.heldGathers := rfl
@[simp] theorem dropAccepted_upd : (dropAccepted h s).upd = s.upd := rfl
@[simp] theorem dropAccepted_cmps : (dropAccepted h s).cmps = s.cmps := rfl
@[simp] theorem dropAccepted_bses : (dropAccepted h s).bses = s.bses := rfl
@[simp] theorem dropAccepted_pwr : (dropAccepted h s).pwr = s.pwr := rfl
@[simp] theorem dropAccepted_boot : (dropAccepted h s).boot = s.boot := rfl
@[simp] theorem dropAccepted_dies : (dropAccepted h s).dies = s.dies := rfl
@[simp] theorem dropAccepted_hdm : (dropAccepted h s).hdm = s.hdm := rfl
@[simp] theorem dropAccepted_poison : (dropAccepted h s).poison = s.poison := rfl
@[simp] theorem dropAccepted_bias : (dropAccepted h s).bias = s.bias := rfl
@[simp] theorem dropAccepted_sramPoison : (dropAccepted h s).sramPoison = s.sramPoison := rfl
@[simp] theorem dropAccepted_heldArr : (dropAccepted h s).heldArr = s.heldArr := rfl
@[simp] theorem dropAccepted_stalled : (dropAccepted h s).stalled = s.stalled := rfl
@[simp] theorem dropAccepted_out : (dropAccepted h s).out = s.out := rfl
@[simp] theorem dropAccepted_free : (dropAccepted h s).free = s.free := rfl
@[simp] theorem dropAccepted_pending : (dropAccepted h s).pending = s.pending := rfl
end

/-! ### `writeRecord` changes only `hif`, `out`. -/
section
variable (n tag st ss r : Nat) (s : State)
@[simp] theorem writeRecord_regs : (writeRecord n tag st ss r s).regs = s.regs := rfl
@[simp] theorem writeRecord_latches : (writeRecord n tag st ss r s).latches = s.latches := rfl
@[simp] theorem writeRecord_glb : (writeRecord n tag st ss r s).glb = s.glb := rfl
@[simp] theorem writeRecord_ports : (writeRecord n tag st ss r s).ports = s.ports := rfl
@[simp] theorem writeRecord_red : (writeRecord n tag st ss r s).red = s.red := rfl
@[simp] theorem writeRecord_flg : (writeRecord n tag st ss r s).flg = s.flg := rfl
@[simp] theorem writeRecord_str : (writeRecord n tag st ss r s).str = s.str := rfl
@[simp] theorem writeRecord_ctxs : (writeRecord n tag st ss r s).ctxs = s.ctxs := rfl
@[simp] theorem writeRecord_regions : (writeRecord n tag st ss r s).regions = s.regions := rfl
@[simp] theorem writeRecord_bindings : (writeRecord n tag st ss r s).bindings = s.bindings := rfl
@[simp] theorem writeRecord_heldGathers : (writeRecord n tag st ss r s).heldGathers = s.heldGathers := rfl
@[simp] theorem writeRecord_upd : (writeRecord n tag st ss r s).upd = s.upd := rfl
@[simp] theorem writeRecord_cmps : (writeRecord n tag st ss r s).cmps = s.cmps := rfl
@[simp] theorem writeRecord_bses : (writeRecord n tag st ss r s).bses = s.bses := rfl
@[simp] theorem writeRecord_pwr : (writeRecord n tag st ss r s).pwr = s.pwr := rfl
@[simp] theorem writeRecord_boot : (writeRecord n tag st ss r s).boot = s.boot := rfl
@[simp] theorem writeRecord_dies : (writeRecord n tag st ss r s).dies = s.dies := rfl
@[simp] theorem writeRecord_hdm : (writeRecord n tag st ss r s).hdm = s.hdm := rfl
@[simp] theorem writeRecord_poison : (writeRecord n tag st ss r s).poison = s.poison := rfl
@[simp] theorem writeRecord_bias : (writeRecord n tag st ss r s).bias = s.bias := rfl
@[simp] theorem writeRecord_sramPoison : (writeRecord n tag st ss r s).sramPoison = s.sramPoison := rfl
@[simp] theorem writeRecord_heldArr : (writeRecord n tag st ss r s).heldArr = s.heldArr := rfl
@[simp] theorem writeRecord_stalled : (writeRecord n tag st ss r s).stalled = s.stalled := rfl
@[simp] theorem writeRecord_free : (writeRecord n tag st ss r s).free = s.free := rfl
@[simp] theorem writeRecord_pending : (writeRecord n tag st ss r s).pending = s.pending := rfl
end

/-! ### `beginCycle` changes only `glb`. -/
section
variable (s : State)
@[simp] theorem beginCycle_regs : (beginCycle s).regs = s.regs := rfl
@[simp] theorem beginCycle_latches : (beginCycle s).latches = s.latches := rfl
@[simp] theorem beginCycle_hif : (beginCycle s).hif = s.hif := rfl
@[simp] theorem beginCycle_ports : (beginCycle s).ports = s.ports := rfl
@[simp] theorem beginCycle_red : (beginCycle s).red = s.red := rfl
@[simp] theorem beginCycle_flg : (beginCycle s).flg = s.flg := rfl
@[simp] theorem beginCycle_str : (beginCycle s).str = s.str := rfl
@[simp] theorem beginCycle_ctxs : (beginCycle s).ctxs = s.ctxs := rfl
@[simp] theorem beginCycle_regions : (beginCycle s).regions = s.regions := rfl
@[simp] theorem beginCycle_bindings : (beginCycle s).bindings = s.bindings := rfl
@[simp] theorem beginCycle_heldGathers : (beginCycle s).heldGathers = s.heldGathers := rfl
@[simp] theorem beginCycle_upd : (beginCycle s).upd = s.upd := rfl
@[simp] theorem beginCycle_cmps : (beginCycle s).cmps = s.cmps := rfl
@[simp] theorem beginCycle_bses : (beginCycle s).bses = s.bses := rfl
@[simp] theorem beginCycle_pwr : (beginCycle s).pwr = s.pwr := rfl
@[simp] theorem beginCycle_boot : (beginCycle s).boot = s.boot := rfl
@[simp] theorem beginCycle_dies : (beginCycle s).dies = s.dies := rfl
@[simp] theorem beginCycle_hdm : (beginCycle s).hdm = s.hdm := rfl
@[simp] theorem beginCycle_poison : (beginCycle s).poison = s.poison := rfl
@[simp] theorem beginCycle_bias : (beginCycle s).bias = s.bias := rfl
@[simp] theorem beginCycle_sramPoison : (beginCycle s).sramPoison = s.sramPoison := rfl
@[simp] theorem beginCycle_heldArr : (beginCycle s).heldArr = s.heldArr := rfl
@[simp] theorem beginCycle_stalled : (beginCycle s).stalled = s.stalled := rfl
@[simp] theorem beginCycle_out : (beginCycle s).out = s.out := rfl
@[simp] theorem beginCycle_free : (beginCycle s).free = s.free := rfl
@[simp] theorem beginCycle_pending : (beginCycle s).pending = s.pending := rfl
end

/-! ### `devWrite` changes only `hdm`, `poison`, `bias`. -/
section
variable (a : Nat) (d : List Byte) (s : State)
@[simp] theorem devWrite_regs : (devWrite a d s).regs = s.regs := rfl
@[simp] theorem devWrite_latches : (devWrite a d s).latches = s.latches := rfl
@[simp] theorem devWrite_glb : (devWrite a d s).glb = s.glb := rfl
@[simp] theorem devWrite_hif : (devWrite a d s).hif = s.hif := rfl
@[simp] theorem devWrite_ports : (devWrite a d s).ports = s.ports := rfl
@[simp] theorem devWrite_red : (devWrite a d s).red = s.red := rfl
@[simp] theorem devWrite_flg : (devWrite a d s).flg = s.flg := rfl
@[simp] theorem devWrite_str : (devWrite a d s).str = s.str := rfl
@[simp] theorem devWrite_ctxs : (devWrite a d s).ctxs = s.ctxs := rfl
@[simp] theorem devWrite_regions : (devWrite a d s).regions = s.regions := rfl
@[simp] theorem devWrite_bindings : (devWrite a d s).bindings = s.bindings := rfl
@[simp] theorem devWrite_heldGathers : (devWrite a d s).heldGathers = s.heldGathers := rfl
@[simp] theorem devWrite_upd : (devWrite a d s).upd = s.upd := rfl
@[simp] theorem devWrite_cmps : (devWrite a d s).cmps = s.cmps := rfl
@[simp] theorem devWrite_bses : (devWrite a d s).bses = s.bses := rfl
@[simp] theorem devWrite_pwr : (devWrite a d s).pwr = s.pwr := rfl
@[simp] theorem devWrite_boot : (devWrite a d s).boot = s.boot := rfl
@[simp] theorem devWrite_dies : (devWrite a d s).dies = s.dies := rfl
@[simp] theorem devWrite_sramPoison : (devWrite a d s).sramPoison = s.sramPoison := rfl
@[simp] theorem devWrite_heldArr : (devWrite a d s).heldArr = s.heldArr := rfl
@[simp] theorem devWrite_stalled : (devWrite a d s).stalled = s.stalled := rfl
@[simp] theorem devWrite_out : (devWrite a d s).out = s.out := rfl
@[simp] theorem devWrite_free : (devWrite a d s).free = s.free := rfl
@[simp] theorem devWrite_pending : (devWrite a d s).pending = s.pending := rfl
end

/-! ### `hostBias` changes only `bias`. -/
section
variable (a n : Nat) (s : State)
@[simp] theorem hostBias_regs : (hostBias a n s).regs = s.regs := rfl
@[simp] theorem hostBias_latches : (hostBias a n s).latches = s.latches := rfl
@[simp] theorem hostBias_glb : (hostBias a n s).glb = s.glb := rfl
@[simp] theorem hostBias_hif : (hostBias a n s).hif = s.hif := rfl
@[simp] theorem hostBias_ports : (hostBias a n s).ports = s.ports := rfl
@[simp] theorem hostBias_red : (hostBias a n s).red = s.red := rfl
@[simp] theorem hostBias_flg : (hostBias a n s).flg = s.flg := rfl
@[simp] theorem hostBias_str : (hostBias a n s).str = s.str := rfl
@[simp] theorem hostBias_ctxs : (hostBias a n s).ctxs = s.ctxs := rfl
@[simp] theorem hostBias_regions : (hostBias a n s).regions = s.regions := rfl
@[simp] theorem hostBias_bindings : (hostBias a n s).bindings = s.bindings := rfl
@[simp] theorem hostBias_heldGathers : (hostBias a n s).heldGathers = s.heldGathers := rfl
@[simp] theorem hostBias_upd : (hostBias a n s).upd = s.upd := rfl
@[simp] theorem hostBias_cmps : (hostBias a n s).cmps = s.cmps := rfl
@[simp] theorem hostBias_bses : (hostBias a n s).bses = s.bses := rfl
@[simp] theorem hostBias_pwr : (hostBias a n s).pwr = s.pwr := rfl
@[simp] theorem hostBias_boot : (hostBias a n s).boot = s.boot := rfl
@[simp] theorem hostBias_dies : (hostBias a n s).dies = s.dies := rfl
@[simp] theorem hostBias_hdm : (hostBias a n s).hdm = s.hdm := rfl
@[simp] theorem hostBias_poison : (hostBias a n s).poison = s.poison := rfl
@[simp] theorem hostBias_sramPoison : (hostBias a n s).sramPoison = s.sramPoison := rfl
@[simp] theorem hostBias_heldArr : (hostBias a n s).heldArr = s.heldArr := rfl
@[simp] theorem hostBias_stalled : (hostBias a n s).stalled = s.stalled := rfl
@[simp] theorem hostBias_out : (hostBias a n s).out = s.out := rfl
@[simp] theorem hostBias_free : (hostBias a n s).free = s.free := rfl
@[simp] theorem hostBias_pending : (hostBias a n s).pending = s.pending := rfl
end

/-! ### `creditBack` changes only `ports`. -/
section
variable (p vc n : Nat) (s : State)
@[simp] theorem creditBack_regs : (creditBack p vc n s).regs = s.regs := rfl
@[simp] theorem creditBack_latches : (creditBack p vc n s).latches = s.latches := rfl
@[simp] theorem creditBack_glb : (creditBack p vc n s).glb = s.glb := rfl
@[simp] theorem creditBack_hif : (creditBack p vc n s).hif = s.hif := rfl
@[simp] theorem creditBack_red : (creditBack p vc n s).red = s.red := rfl
@[simp] theorem creditBack_flg : (creditBack p vc n s).flg = s.flg := rfl
@[simp] theorem creditBack_str : (creditBack p vc n s).str = s.str := rfl
@[simp] theorem creditBack_ctxs : (creditBack p vc n s).ctxs = s.ctxs := rfl
@[simp] theorem creditBack_regions : (creditBack p vc n s).regions = s.regions := rfl
@[simp] theorem creditBack_bindings : (creditBack p vc n s).bindings = s.bindings := rfl
@[simp] theorem creditBack_heldGathers : (creditBack p vc n s).heldGathers = s.heldGathers := rfl
@[simp] theorem creditBack_upd : (creditBack p vc n s).upd = s.upd := rfl
@[simp] theorem creditBack_cmps : (creditBack p vc n s).cmps = s.cmps := rfl
@[simp] theorem creditBack_bses : (creditBack p vc n s).bses = s.bses := rfl
@[simp] theorem creditBack_pwr : (creditBack p vc n s).pwr = s.pwr := rfl
@[simp] theorem creditBack_boot : (creditBack p vc n s).boot = s.boot := rfl
@[simp] theorem creditBack_dies : (creditBack p vc n s).dies = s.dies := rfl
@[simp] theorem creditBack_hdm : (creditBack p vc n s).hdm = s.hdm := rfl
@[simp] theorem creditBack_poison : (creditBack p vc n s).poison = s.poison := rfl
@[simp] theorem creditBack_bias : (creditBack p vc n s).bias = s.bias := rfl
@[simp] theorem creditBack_sramPoison : (creditBack p vc n s).sramPoison = s.sramPoison := rfl
@[simp] theorem creditBack_heldArr : (creditBack p vc n s).heldArr = s.heldArr := rfl
@[simp] theorem creditBack_stalled : (creditBack p vc n s).stalled = s.stalled := rfl
@[simp] theorem creditBack_out : (creditBack p vc n s).out = s.out := rfl
@[simp] theorem creditBack_free : (creditBack p vc n s).free = s.free := rfl
@[simp] theorem creditBack_pending : (creditBack p vc n s).pending = s.pending := rfl
end

/-! ### `freshUnits` changes only `sramPoison`. -/
section
variable (ag : Nat) (es : List (List Nat)) (s : State)
@[simp] theorem freshUnits_regs : (freshUnits ag es s).regs = s.regs := rfl
@[simp] theorem freshUnits_latches : (freshUnits ag es s).latches = s.latches := rfl
@[simp] theorem freshUnits_glb : (freshUnits ag es s).glb = s.glb := rfl
@[simp] theorem freshUnits_hif : (freshUnits ag es s).hif = s.hif := rfl
@[simp] theorem freshUnits_ports : (freshUnits ag es s).ports = s.ports := rfl
@[simp] theorem freshUnits_red : (freshUnits ag es s).red = s.red := rfl
@[simp] theorem freshUnits_flg : (freshUnits ag es s).flg = s.flg := rfl
@[simp] theorem freshUnits_str : (freshUnits ag es s).str = s.str := rfl
@[simp] theorem freshUnits_ctxs : (freshUnits ag es s).ctxs = s.ctxs := rfl
@[simp] theorem freshUnits_regions : (freshUnits ag es s).regions = s.regions := rfl
@[simp] theorem freshUnits_bindings : (freshUnits ag es s).bindings = s.bindings := rfl
@[simp] theorem freshUnits_heldGathers : (freshUnits ag es s).heldGathers = s.heldGathers := rfl
@[simp] theorem freshUnits_upd : (freshUnits ag es s).upd = s.upd := rfl
@[simp] theorem freshUnits_cmps : (freshUnits ag es s).cmps = s.cmps := rfl
@[simp] theorem freshUnits_bses : (freshUnits ag es s).bses = s.bses := rfl
@[simp] theorem freshUnits_pwr : (freshUnits ag es s).pwr = s.pwr := rfl
@[simp] theorem freshUnits_boot : (freshUnits ag es s).boot = s.boot := rfl
@[simp] theorem freshUnits_dies : (freshUnits ag es s).dies = s.dies := rfl
@[simp] theorem freshUnits_hdm : (freshUnits ag es s).hdm = s.hdm := rfl
@[simp] theorem freshUnits_poison : (freshUnits ag es s).poison = s.poison := rfl
@[simp] theorem freshUnits_bias : (freshUnits ag es s).bias = s.bias := rfl
@[simp] theorem freshUnits_heldArr : (freshUnits ag es s).heldArr = s.heldArr := rfl
@[simp] theorem freshUnits_stalled : (freshUnits ag es s).stalled = s.stalled := rfl
@[simp] theorem freshUnits_out : (freshUnits ag es s).out = s.out := rfl
@[simp] theorem freshUnits_free : (freshUnits ag es s).free = s.free := rfl
@[simp] theorem freshUnits_pending : (freshUnits ag es s).pending = s.pending := rfl
end


/-! ### `modRegion` changes only `regions`. -/
section
variable (r : Nat) (f : Region → Region) (s : State)
@[simp] theorem modRegion_regs : (modRegion r f s).regs = s.regs := rfl
@[simp] theorem modRegion_latches : (modRegion r f s).latches = s.latches := rfl
@[simp] theorem modRegion_glb : (modRegion r f s).glb = s.glb := rfl
@[simp] theorem modRegion_hif : (modRegion r f s).hif = s.hif := rfl
@[simp] theorem modRegion_ports : (modRegion r f s).ports = s.ports := rfl
@[simp] theorem modRegion_red : (modRegion r f s).red = s.red := rfl
@[simp] theorem modRegion_flg : (modRegion r f s).flg = s.flg := rfl
@[simp] theorem modRegion_str : (modRegion r f s).str = s.str := rfl
@[simp] theorem modRegion_ctxs : (modRegion r f s).ctxs = s.ctxs := rfl
@[simp] theorem modRegion_bindings : (modRegion r f s).bindings = s.bindings := rfl
@[simp] theorem modRegion_heldGathers : (modRegion r f s).heldGathers = s.heldGathers := rfl
@[simp] theorem modRegion_upd : (modRegion r f s).upd = s.upd := rfl
@[simp] theorem modRegion_cmps : (modRegion r f s).cmps = s.cmps := rfl
@[simp] theorem modRegion_bses : (modRegion r f s).bses = s.bses := rfl
@[simp] theorem modRegion_pwr : (modRegion r f s).pwr = s.pwr := rfl
@[simp] theorem modRegion_boot : (modRegion r f s).boot = s.boot := rfl
@[simp] theorem modRegion_dies : (modRegion r f s).dies = s.dies := rfl
@[simp] theorem modRegion_hdm : (modRegion r f s).hdm = s.hdm := rfl
@[simp] theorem modRegion_poison : (modRegion r f s).poison = s.poison := rfl
@[simp] theorem modRegion_bias : (modRegion r f s).bias = s.bias := rfl
@[simp] theorem modRegion_sramPoison : (modRegion r f s).sramPoison = s.sramPoison := rfl
@[simp] theorem modRegion_heldArr : (modRegion r f s).heldArr = s.heldArr := rfl
@[simp] theorem modRegion_stalled : (modRegion r f s).stalled = s.stalled := rfl
@[simp] theorem modRegion_out : (modRegion r f s).out = s.out := rfl
@[simp] theorem modRegion_free : (modRegion r f s).free = s.free := rfl
@[simp] theorem modRegion_pending : (modRegion r f s).pending = s.pending := rfl
end

/-! ### Memory under the two writes, and slots without poison. -/
@[simp] theorem memWrite_hdm (a : Nat) (d : List Byte) (s : State) : (memWrite a d s).hdm = putBytes s.hdm a d := rfl
@[simp] theorem devWrite_hdm (a : Nat) (d : List Byte) (s : State) : (devWrite a d s).hdm = putBytes s.hdm a d := rfl
@[simp] theorem devWrite_poison (a : Nat) (d : List Byte) (s : State) : (devWrite a d s).poison = (memWrite a d s).poison := rfl
theorem seg_seen_clean (s : State) (q : Seg) (c : Nat) (h : s.sramPoison = []) : q.seen s c = q := by simp [Seg.seen, h]
theorem statGet_clean (s : State) (i slot w : Nat) (h : s.sramPoison = []) :
    statGet s i slot w = tabGet statDefault s.upd.stats (statKey i slot w) := by simp [statGet, h]
theorem freshUnits_clean (ag : Nat) (es : List (List Nat)) (s : State) (h : s.sramPoison = []) : (freshUnits ag es s).sramPoison = [] := by
  simp [freshUnits, h]

end Sys2Proof.Machine
end

