-- ==== Sys2Proof/Laws/Cycle.lean ====
section
/-! SUPPORT. What interrupts, completion records and the end of a hub cycle leave alone (R418, R427, R515, R530): the frame
of each operation once, and from it the lemma per field. -/
namespace Sys2Proof.Machine

/-- `t` is `s` but for the registers, the global block, the host interface and what has left the module. -/
def Aside (s t : State) : Prop := t = { s with regs := t.regs, glb := t.glb, hif := t.hif, out := t.out }

theorem Aside.refl (s : State) : Aside s s := rfl
theorem Aside.trans {s t u : State} (h : Aside s t) (g : Aside t u) : Aside s u := by
  unfold Aside at *
  rw [g, h]
theorem aside_of (s : State) (r : List (Nat × Word)) (g : Glb) (h : Hif) (o : List Out) :
    Aside s { s with regs := r, glb := g, hif := h, out := o } := rfl

theorem regPut_aside (off v : Nat) (s : State) : Aside s (regPut off v s) := aside_of s _ s.glb s.hif s.out
theorem bump_aside (off lo n k : Nat) (s : State) : Aside s (bump off lo n k s) := regPut_aside off _ s
theorem emit_aside (o : Out) (s : State) : Aside s (emit o s) := aside_of s s.regs s.glb s.hif _
theorem modRing_aside (n : Nat) (f : Ring → Ring) (s : State) : Aside s (modRing n f s) := aside_of s s.regs s.glb _ s.out
theorem dropAccepted_aside (h : HostHdr) (s : State) : Aside s (dropAccepted h s) := aside_of s s.regs s.glb _ s.out
theorem logEv_aside (e st ag : Nat) (i : LogInfo) (s : State) : Aside s (logEv e st ag i s) := aside_of s s.regs _ s.hif s.out
theorem beginCycle_aside (s : State) : Aside s (beginCycle s) := aside_of s s.regs _ s.hif s.out
theorem sendMsix_aside (v : Nat) (s : State) : Aside s (sendMsix v s) := aside_of s s.regs _ s.hif _
theorem writeRecord_aside (n tag st ss r : Nat) (s : State) : Aside s (writeRecord n tag st ss r s) :=
  (emit_aside _ s).trans (modRing_aside n _ _)

theorem messageFor_aside (v : Nat) (s : State) : Aside s (messageFor v s) := by
  unfold messageFor
  repeat' split
  · exact .refl s
  · exact .refl s
  · exact aside_of s s.regs s.glb _ s.out
  · exact aside_of s s.regs _ s.hif s.out
  · exact sendMsix_aside v s
  · exact aside_of s s.regs _ s.hif s.out

theorem messages_aside (l : List Nat) (s : State) : Aside s (l.foldl (fun s v => messageFor v s) s) := by
  induction l generalizing s with
  | nil => exact .refl s
  | cons v t ih => exact (messageFor_aside v s).trans (ih _)

theorem flushIrq_aside (s : State) : Aside s (flushIrq s) := messages_aside _ s

theorem sendLater_aside (v : Nat) (s : State) : Aside s (sendLater v s) := by
  unfold sendLater
  split
  · exact .refl s
  · exact aside_of s s.regs _ s.hif s.out

theorem raise_aside (v : Nat) (s : State) : Aside s (raise v s) := (regPut_aside _ _ s).trans (sendLater_aside v _)

theorem raiseIf_aside (b : Bool) (v : Nat) (s : State) : Aside s (raiseIf b v s) := by
  unfold raiseIf
  split
  · exact raise_aside v s
  · exact .refl s

theorem completeWith_aside (h : HostHdr) (st r : Nat) (s : State) : Aside s (completeWith h st r s) := by
  unfold completeWith
  dsimp only
  split
  · exact (dropAccepted_aside h s).trans (bump_aside _ _ _ _ _)
  · split
    · exact (aside_of s s.regs s.glb _ s.out).trans (raiseIf_aside _ _ _)
    · exact (dropAccepted_aside h s).trans ((writeRecord_aside _ _ _ _ _ _).trans (raiseIf_aside _ _ _))

theorem complete_aside (h : HostHdr) (st : Nat) (s : State) : Aside s (complete h st s) := completeWith_aside h st _ s

theorem completeOpt_aside (h : Option HostHdr) (st : Nat) (s : State) : Aside s (completeOpt h st s) := by
  cases h with
  | none => exact .refl s
  | some h => exact complete_aside h st s

theorem resolveFences_aside (k : Nat) (s : State) : Aside s (resolveFences k s) := by
  induction k generalizing s with
  | zero => exact .refl s
  | succ k ih =>
    unfold resolveFences
    split
    · exact .refl s
    · exact (aside_of s s.regs s.glb _ s.out).trans ((complete_aside _ _ _).trans (ih _))

theorem placeEntry_aside (s : State) (e : LogE) : Aside s (placeEntry s e) := by
  unfold placeEntry
  split
  · exact aside_of s s.regs _ s.hif s.out
  · exact bump_aside _ _ _ _ s

theorem placeEntries_aside (l : List LogE) (s : State) : Aside s (l.foldl placeEntry s) := by
  induction l generalizing s with
  | nil => exact .refl s
  | cons e t ih => exact (placeEntry_aside s e).trans (ih _)

theorem flushLog_aside (s : State) : Aside s (flushLog s) :=
  (aside_of s s.regs _ s.hif s.out).trans (placeEntries_aside _ _)

theorem discardLog_aside (e st : Nat) (i : LogInfo) (s : State) : Aside s (discardLog e st i s) :=
  (bump_aside _ _ _ _ s).trans ((logEv_aside _ _ _ _ _).trans (raiseIf_aside _ _ _))

/-- The hub cycle's end moves only ADV_CNT beside what `Aside` names. -/
theorem settle_aside (s0 s : State) : ∃ m, Aside s m ∧ ∃ a, Aside { m with str := { m.str with adv := a } } (settle s0 s) := by
  refine ⟨resolveFences s.hif.fences.length s, resolveFences_aside _ s, ?_⟩
  unfold settle countAdv
  split
  · exact ⟨_, (flushIrq_aside _).trans (flushLog_aside _)⟩
  · exact ⟨_, (flushIrq_aside _).trans (flushLog_aside _)⟩

/-- Everything the end of a hub cycle can change. -/
theorem settle_frame (s0 s : State) : settle s0 s =
    { s with regs := (settle s0 s).regs, glb := (settle s0 s).glb, hif := (settle s0 s).hif, out := (settle s0 s).out,
             str := { s.str with adv := (settle s0 s).str.adv } } := by
  obtain ⟨m, hm, a, ha⟩ := settle_aside s0 s
  generalize settle s0 s = t at ha ⊢
  unfold Aside at hm ha
  rw [ha, hm]

section
variable {s t : State}
theorem Aside.ports (h : Aside s t) : t.ports = s.ports := by rw [h]
theorem Aside.red (h : Aside s t) : t.red = s.red := by rw [h]
theorem Aside.flg (h : Aside s t) : t.flg = s.flg := by rw [h]
theorem Aside.str (h : Aside s t) : t.str = s.str := by rw [h]
theorem Aside.ctxs (h : Aside s t) : t.ctxs = s.ctxs := by rw [h]
theorem Aside.regions (h : Aside s t) : t.regions = s.regions := by rw [h]
theorem Aside.bindings (h : Aside s t) : t.bindings = s.bindings := by rw [h]
theorem Aside.heldGathers (h : Aside s t) : t.heldGathers = s.heldGathers := by rw [h]
theorem Aside.upd (h : Aside s t) : t.upd = s.upd := by rw [h]
theorem Aside.cmps (h : Aside s t) : t.cmps = s.cmps := by rw [h]
theorem Aside.bses (h : Aside s t) : t.bses = s.bses := by rw [h]
theorem Aside.pwr (h : Aside s t) : t.pwr = s.pwr := by rw [h]
theorem Aside.boot (h : Aside s t) : t.boot = s.boot := by rw [h]
theorem Aside.dies (h : Aside s t) : t.dies = s.dies := by rw [h]
theorem Aside.hdm (h : Aside s t) : t.hdm = s.hdm := by rw [h]
theorem Aside.poison (h : Aside s t) : t.poison = s.poison := by rw [h]
theorem Aside.sramPoison (h : Aside s t) : t.sramPoison = s.sramPoison := by rw [h]
theorem Aside.heldArr (h : Aside s t) : t.heldArr = s.heldArr := by rw [h]
theorem Aside.free (h : Aside s t) : t.free = s.free := by rw [h]
theorem Aside.pending (h : Aside s t) : t.pending = s.pending := by rw [h]
theorem Aside.latches (h : Aside s t) : t.latches = s.latches := by rw [h]
end

section
variable (v : Nat) (s : State)
@[simp] theorem messageFor_ports : (messageFor v s).ports = s.ports := (messageFor_aside v s).ports
@[simp] theorem messageFor_red : (messageFor v s).red = s.red := (messageFor_aside v s).red
@[simp] theorem messageFor_flg : (messageFor v s).flg = s.flg := (messageFor_aside v s).flg
@[simp] theorem messageFor_str : (messageFor v s).str = s.str := (messageFor_aside v s).str
@[simp] theorem messageFor_ctxs : (messageFor v s).ctxs = s.ctxs := (messageFor_aside v s).ctxs
@[simp] theorem messageFor_regions : (messageFor v s).regions = s.regions := (messageFor_aside v s).regions
@[simp] theorem messageFor_bindings : (messageFor v s).bindings = s.bindings := (messageFor_aside v s).bindings
@[simp] theorem messageFor_heldGathers : (messageFor v s).heldGathers = s.heldGathers := (messageFor_aside v s).heldGathers
@[simp] theorem messageFor_upd : (messageFor v s).upd = s.upd := (messageFor_aside v s).upd
@[simp] theorem messageFor_cmps : (messageFor v s).cmps = s.cmps := (messageFor_aside v s).cmps
@[simp] theorem messageFor_bses : (messageFor v s).bses = s.bses := (messageFor_aside v s).bses
@[simp] theorem messageFor_pwr : (messageFor v s).pwr = s.pwr := (messageFor_aside v s).pwr
@[simp] theorem messageFor_boot : (messageFor v s).boot = s.boot := (messageFor_aside v s).boot
@[simp] theorem messageFor_dies : (messageFor v s).dies = s.dies := (messageFor_aside v s).dies
@[simp] theorem messageFor_hdm : (messageFor v s).hdm = s.hdm := (messageFor_aside v s).hdm
@[simp] theorem messageFor_poison : (messageFor v s).poison = s.poison := (messageFor_aside v s).poison
@[simp] theorem messageFor_sramPoison : (messageFor v s).sramPoison = s.sramPoison := (messageFor_aside v s).sramPoison
@[simp] theorem messageFor_heldArr : (messageFor v s).heldArr = s.heldArr := (messageFor_aside v s).heldArr
@[simp] theorem messageFor_free : (messageFor v s).free = s.free := (messageFor_aside v s).free
@[simp] theorem messageFor_pending : (messageFor v s).pending = s.pending := (messageFor_aside v s).pending
@[simp] theorem messageFor_latches : (messageFor v s).latches = s.latches := (messageFor_aside v s).latches
end

section
variable (v : Nat) (s : State)
@[simp] theorem raise_ports : (raise v s).ports = s.ports := (raise_aside v s).ports
@[simp] theorem raise_red : (raise v s).red = s.red := (raise_aside v s).red
@[simp] theorem raise_flg : (raise v s).flg = s.flg := (raise_aside v s).flg
@[simp] theorem raise_str : (raise v s).str = s.str := (raise_aside v s).str
@[simp] theorem raise_ctxs : (raise v s).ctxs = s.ctxs := (raise_aside v s).ctxs
@[simp] theorem raise_regions : (raise v s).regions = s.regions := (raise_aside v s).regions
@[simp] theorem raise_bindings : (raise v s).bindings = s.bindings := (raise_aside v s).bindings
@[simp] theorem raise_heldGathers : (raise v s).heldGathers = s.heldGathers := (raise_aside v s).heldGathers
@[simp] theorem raise_upd : (raise v s).upd = s.upd := (raise_aside v s).upd
@[simp] theorem raise_cmps : (raise v s).cmps = s.cmps := (raise_aside v s).cmps
@[simp] theorem raise_bses : (raise v s).bses = s.bses := (raise_aside v s).bses
@[simp] theorem raise_pwr : (raise v s).pwr = s.pwr := (raise_aside v s).pwr
@[simp] theorem raise_boot : (raise v s).boot = s.boot := (raise_aside v s).boot
@[simp] theorem raise_dies : (raise v s).dies = s.dies := (raise_aside v s).dies
@[simp] theorem raise_hdm : (raise v s).hdm = s.hdm := (raise_aside v s).hdm
@[simp] theorem raise_poison : (raise v s).poison = s.poison := (raise_aside v s).poison
@[simp] theorem raise_sramPoison : (raise v s).sramPoison = s.sramPoison := (raise_aside v s).sramPoison
@[simp] theorem raise_heldArr : (raise v s).heldArr = s.heldArr := (raise_aside v s).heldArr
@[simp] theorem raise_free : (raise v s).free = s.free := (raise_aside v s).free
@[simp] theorem raise_pending : (raise v s).pending = s.pending := (raise_aside v s).pending
@[simp] theorem raise_latches : (raise v s).latches = s.latches := (raise_aside v s).latches
end

section
variable (b : Bool) (v : Nat) (s : State)
@[simp] theorem raiseIf_ports : (raiseIf b v s).ports = s.ports := (raiseIf_aside b v s).ports
@[simp] theorem raiseIf_red : (raiseIf b v s).red = s.red := (raiseIf_aside b v s).red
@[simp] theorem raiseIf_flg : (raiseIf b v s).flg = s.flg := (raiseIf_aside b v s).flg
@[simp] theorem raiseIf_str : (raiseIf b v s).str = s.str := (raiseIf_aside b v s).str
@[simp] theorem raiseIf_ctxs : (raiseIf b v s).ctxs = s.ctxs := (raiseIf_aside b v s).ctxs
@[simp] theorem raiseIf_regions : (raiseIf b v s).regions = s.regions := (raiseIf_aside b v s).regions
@[simp] theorem raiseIf_bindings : (raiseIf b v s).bindings = s.bindings := (raiseIf_aside b v s).bindings
@[simp] theorem raiseIf_heldGathers : (raiseIf b v s).heldGathers = s.heldGathers := (raiseIf_aside b v s).heldGathers
@[simp] theorem raiseIf_upd : (raiseIf b v s).upd = s.upd := (raiseIf_aside b v s).upd
@[simp] theorem raiseIf_cmps : (raiseIf b v s).cmps = s.cmps := (raiseIf_aside b v s).cmps
@[simp] theorem raiseIf_bses : (raiseIf b v s).bses = s.bses := (raiseIf_aside b v s).bses
@[simp] theorem raiseIf_pwr : (raiseIf b v s).pwr = s.pwr := (raiseIf_aside b v s).pwr
@[simp] theorem raiseIf_boot : (raiseIf b v s).boot = s.boot := (raiseIf_aside b v s).boot
@[simp] theorem raiseIf_dies : (raiseIf b v s).dies = s.dies := (raiseIf_aside b v s).dies
@[simp] theorem raiseIf_hdm : (raiseIf b v s).hdm = s.hdm := (raiseIf_aside b v s).hdm
@[simp] theorem raiseIf_poison : (raiseIf b v s).poison = s.poison := (raiseIf_aside b v s).poison
@[simp] theorem raiseIf_sramPoison : (raiseIf b v s).sramPoison = s.sramPoison := (raiseIf_aside b v s).sramPoison
@[simp] theorem raiseIf_heldArr : (raiseIf b v s).heldArr = s.heldArr := (raiseIf_aside b v s).heldArr
@[simp] theorem raiseIf_free : (raiseIf b v s).free = s.free := (raiseIf_aside b v s).free
@[simp] theorem raiseIf_pending : (raiseIf b v s).pending = s.pending := (raiseIf_aside b v s).pending
@[simp] theorem raiseIf_latches : (raiseIf b v s).latches = s.latches := (raiseIf_aside b v s).latches
end

section
variable (h : HostHdr) (st r : Nat) (s : State)
@[simp] theorem completeWith_ports : (completeWith h st r s).ports = s.ports := (completeWith_aside h st r s).ports
@[simp] theorem completeWith_red : (completeWith h st r s).red = s.red := (completeWith_aside h st r s).red
@[simp] theorem completeWith_flg : (completeWith h st r s).flg = s.flg := (completeWith_aside h st r s).flg
@[simp] theorem completeWith_str : (completeWith h st r s).str = s.str := (completeWith_aside h st r s).str
@[simp] theorem completeWith_ctxs : (completeWith h st r s).ctxs = s.ctxs := (completeWith_aside h st r s).ctxs
@[simp] theorem completeWith_regions : (completeWith h st r s).regions = s.regions := (completeWith_aside h st r s).regions
@[simp] theorem completeWith_bindings : (completeWith h st r s).bindings = s.bindings := (completeWith_aside h st r s).bindings
@[simp] theorem completeWith_heldGathers : (completeWith h st r s).heldGathers = s.heldGathers := (completeWith_aside h st r s).heldGathers
@[simp] theorem completeWith_upd : (completeWith h st r s).upd = s.upd := (completeWith_aside h st r s).upd
@[simp] theorem completeWith_cmps : (completeWith h st r s).cmps = s.cmps := (completeWith_aside h st r s).cmps
@[simp] theorem completeWith_bses : (completeWith h st r s).bses = s.bses := (completeWith_aside h st r s).bses
@[simp] theorem completeWith_pwr : (completeWith h st r s).pwr = s.pwr := (completeWith_aside h st r s).pwr
@[simp] theorem completeWith_boot : (completeWith h st r s).boot = s.boot := (completeWith_aside h st r s).boot
@[simp] theorem completeWith_dies : (completeWith h st r s).dies = s.dies := (completeWith_aside h st r s).dies
@[simp] theorem completeWith_hdm : (completeWith h st r s).hdm = s.hdm := (completeWith_aside h st r s).hdm
@[simp] theorem completeWith_poison : (completeWith h st r s).poison = s.poison := (completeWith_aside h st r s).poison
@[simp] theorem completeWith_sramPoison : (completeWith h st r s).sramPoison = s.sramPoison := (completeWith_aside h st r s).sramPoison
@[simp] theorem completeWith_heldArr : (completeWith h st r s).heldArr = s.heldArr := (completeWith_aside h st r s).heldArr
@[simp] theorem completeWith_free : (completeWith h st r s).free = s.free := (completeWith_aside h st r s).free
@[simp] theorem completeWith_pending : (completeWith h st r s).pending = s.pending := (completeWith_aside h st r s).pending
@[simp] theorem completeWith_latches : (completeWith h st r s).latches = s.latches := (completeWith_aside h st r s).latches
end

section
variable (h : HostHdr) (st : Nat) (s : State)
@[simp] theorem complete_ports : (complete h st s).ports = s.ports := (complete_aside h st s).ports
@[simp] theorem complete_red : (complete h st s).red = s.red := (complete_aside h st s).red
@[simp] theorem complete_flg : (complete h st s).flg = s.flg := (complete_aside h st s).flg
@[simp] theorem complete_str : (complete h st s).str = s.str := (complete_aside h st s).str
@[simp] theorem complete_ctxs : (complete h st s).ctxs = s.ctxs := (complete_aside h st s).ctxs
@[simp] theorem complete_regions : (complete h st s).regions = s.regions := (complete_aside h st s).regions
@[simp] theorem complete_bindings : (complete h st s).bindings = s.bindings := (complete_aside h st s).bindings
@[simp] theorem complete_heldGathers : (complete h st s).heldGathers = s.heldGathers := (complete_aside h st s).heldGathers
@[simp] theorem complete_upd : (complete h st s).upd = s.upd := (complete_aside h st s).upd
@[simp] theorem complete_cmps : (complete h st s).cmps = s.cmps := (complete_aside h st s).cmps
@[simp] theorem complete_bses : (complete h st s).bses = s.bses := (complete_aside h st s).bses
@[simp] theorem complete_pwr : (complete h st s).pwr = s.pwr := (complete_aside h st s).pwr
@[simp] theorem complete_boot : (complete h st s).boot = s.boot := (complete_aside h st s).boot
@[simp] theorem complete_dies : (complete h st s).dies = s.dies := (complete_aside h st s).dies
@[simp] theorem complete_hdm : (complete h st s).hdm = s.hdm := (complete_aside h st s).hdm
@[simp] theorem complete_poison : (complete h st s).poison = s.poison := (complete_aside h st s).poison
@[simp] theorem complete_sramPoison : (complete h st s).sramPoison = s.sramPoison := (complete_aside h st s).sramPoison
@[simp] theorem complete_heldArr : (complete h st s).heldArr = s.heldArr := (complete_aside h st s).heldArr
@[simp] theorem complete_free : (complete h st s).free = s.free := (complete_aside h st s).free
@[simp] theorem complete_pending : (complete h st s).pending = s.pending := (complete_aside h st s).pending
@[simp] theorem complete_latches : (complete h st s).latches = s.latches := (complete_aside h st s).latches
end

section
variable (h : Option HostHdr) (st : Nat) (s : State)
@[simp] theorem completeOpt_ports : (completeOpt h st s).ports = s.ports := (completeOpt_aside h st s).ports
@[simp] theorem completeOpt_red : (completeOpt h st s).red = s.red := (completeOpt_aside h st s).red
@[simp] theorem completeOpt_flg : (completeOpt h st s).flg = s.flg := (completeOpt_aside h st s).flg
@[simp] theorem completeOpt_str : (completeOpt h st s).str = s.str := (completeOpt_aside h st s).str
@[simp] theorem completeOpt_ctxs : (completeOpt h st s).ctxs = s.ctxs := (completeOpt_aside h st s).ctxs
@[simp] theorem completeOpt_regions : (completeOpt h st s).regions = s.regions := (completeOpt_aside h st s).regions
@[simp] theorem completeOpt_bindings : (completeOpt h st s).bindings = s.bindings := (completeOpt_aside h st s).bindings
@[simp] theorem completeOpt_heldGathers : (completeOpt h st s).heldGathers = s.heldGathers := (completeOpt_aside h st s).heldGathers
@[simp] theorem completeOpt_upd : (completeOpt h st s).upd = s.upd := (completeOpt_aside h st s).upd
@[simp] theorem completeOpt_cmps : (completeOpt h st s).cmps = s.cmps := (completeOpt_aside h st s).cmps
@[simp] theorem completeOpt_bses : (completeOpt h st s).bses = s.bses := (completeOpt_aside h st s).bses
@[simp] theorem completeOpt_pwr : (completeOpt h st s).pwr = s.pwr := (completeOpt_aside h st s).pwr
@[simp] theorem completeOpt_boot : (completeOpt h st s).boot = s.boot := (completeOpt_aside h st s).boot
@[simp] theorem completeOpt_dies : (completeOpt h st s).dies = s.dies := (completeOpt_aside h st s).dies
@[simp] theorem completeOpt_hdm : (completeOpt h st s).hdm = s.hdm := (completeOpt_aside h st s).hdm
@[simp] theorem completeOpt_poison : (completeOpt h st s).poison = s.poison := (completeOpt_aside h st s).poison
@[simp] theorem completeOpt_sramPoison : (completeOpt h st s).sramPoison = s.sramPoison := (completeOpt_aside h st s).sramPoison
@[simp] theorem completeOpt_heldArr : (completeOpt h st s).heldArr = s.heldArr := (completeOpt_aside h st s).heldArr
@[simp] theorem completeOpt_free : (completeOpt h st s).free = s.free := (completeOpt_aside h st s).free
@[simp] theorem completeOpt_pending : (completeOpt h st s).pending = s.pending := (completeOpt_aside h st s).pending
@[simp] theorem completeOpt_latches : (completeOpt h st s).latches = s.latches := (completeOpt_aside h st s).latches
end

section
variable (e st : Nat) (i : LogInfo) (s : State)
@[simp] theorem discardLog_ports : (discardLog e st i s).ports = s.ports := (discardLog_aside e st i s).ports
@[simp] theorem discardLog_red : (discardLog e st i s).red = s.red := (discardLog_aside e st i s).red
@[simp] theorem discardLog_flg : (discardLog e st i s).flg = s.flg := (discardLog_aside e st i s).flg
@[simp] theorem discardLog_str : (discardLog e st i s).str = s.str := (discardLog_aside e st i s).str
@[simp] theorem discardLog_ctxs : (discardLog e st i s).ctxs = s.ctxs := (discardLog_aside e st i s).ctxs
@[simp] theorem discardLog_regions : (discardLog e st i s).regions = s.regions := (discardLog_aside e st i s).regions
@[simp] theorem discardLog_bindings : (discardLog e st i s).bindings = s.bindings := (discardLog_aside e st i s).bindings
@[simp] theorem discardLog_heldGathers : (discardLog e st i s).heldGathers = s.heldGathers := (discardLog_aside e st i s).heldGathers
@[simp] theorem discardLog_upd : (discardLog e st i s).upd = s.upd := (discardLog_aside e st i s).upd
@[simp] theorem discardLog_cmps : (discardLog e st i s).cmps = s.cmps := (discardLog_aside e st i s).cmps
@[simp] theorem discardLog_bses : (discardLog e st i s).bses = s.bses := (discardLog_aside e st i s).bses
@[simp] theorem discardLog_pwr : (discardLog e st i s).pwr = s.pwr := (discardLog_aside e st i s).pwr
@[simp] theorem discardLog_boot : (discardLog e st i s).boot = s.boot := (discardLog_aside e st i s).boot
@[simp] theorem discardLog_dies : (discardLog e st i s).dies = s.dies := (discardLog_aside e st i s).dies
@[simp] theorem discardLog_hdm : (discardLog e st i s).hdm = s.hdm := (discardLog_aside e st i s).hdm
@[simp] theorem discardLog_poison : (discardLog e st i s).poison = s.poison := (discardLog_aside e st i s).poison
@[simp] theorem discardLog_sramPoison : (discardLog e st i s).sramPoison = s.sramPoison := (discardLog_aside e st i s).sramPoison
@[simp] theorem discardLog_heldArr : (discardLog e st i s).heldArr = s.heldArr := (discardLog_aside e st i s).heldArr
@[simp] theorem discardLog_free : (discardLog e st i s).free = s.free := (discardLog_aside e st i s).free
@[simp] theorem discardLog_pending : (discardLog e st i s).pending = s.pending := (discardLog_aside e st i s).pending
@[simp] theorem discardLog_latches : (discardLog e st i s).latches = s.latches := (discardLog_aside e st i s).latches
end

section
variable (s0 s : State)
@[simp] theorem settle_ports : (settle s0 s).ports = s.ports := by rw [settle_frame]
@[simp] theorem settle_red : (settle s0 s).red = s.red := by rw [settle_frame]
@[simp] theorem settle_flg : (settle s0 s).flg = s.flg := by rw [settle_frame]
@[simp] theorem settle_ctxs : (settle s0 s).ctxs = s.ctxs := by rw [settle_frame]
@[simp] theorem settle_regions : (settle s0 s).regions = s.regions := by rw [settle_frame]
@[simp] theorem settle_bindings : (settle s0 s).bindings = s.bindings := by rw [settle_frame]
@[simp] theorem settle_heldGathers : (settle s0 s).heldGathers = s.heldGathers := by rw [settle_frame]
@[simp] theorem settle_upd : (settle s0 s).upd = s.upd := by rw [settle_frame]
@[simp] theorem settle_cmps : (settle s0 s).cmps = s.cmps := by rw [settle_frame]
@[simp] theorem settle_bses : (settle s0 s).bses = s.bses := by rw [settle_frame]
@[simp] theorem settle_pwr : (settle s0 s).pwr = s.pwr := by rw [settle_frame]
@[simp] theorem settle_boot : (settle s0 s).boot = s.boot := by rw [settle_frame]
@[simp] theorem settle_dies : (settle s0 s).dies = s.dies := by rw [settle_frame]
@[simp] theorem settle_hdm : (settle s0 s).hdm = s.hdm := by rw [settle_frame]
@[simp] theorem settle_poison : (settle s0 s).poison = s.poison := by rw [settle_frame]
@[simp] theorem settle_sramPoison : (settle s0 s).sramPoison = s.sramPoison := by rw [settle_frame]
@[simp] theorem settle_heldArr : (settle s0 s).heldArr = s.heldArr := by rw [settle_frame]
@[simp] theorem settle_free : (settle s0 s).free = s.free := by rw [settle_frame]
@[simp] theorem settle_pending : (settle s0 s).pending = s.pending := by rw [settle_frame]
@[simp] theorem settle_latches : (settle s0 s).latches = s.latches := by rw [settle_frame]
@[simp] theorem settle_str_now : (settle s0 s).str.now = s.str.now := by rw [settle_frame]
@[simp] theorem settle_str_src : (settle s0 s).str.src = s.str.src := by rw [settle_frame]
@[simp] theorem settle_str_epoch : (settle s0 s).str.epoch = s.str.epoch := by rw [settle_frame]
@[simp] theorem settle_str_valid : (settle s0 s).str.valid = s.str.valid := by rw [settle_frame]
@[simp] theorem settle_str_steps : (settle s0 s).str.steps = s.str.steps := by rw [settle_frame]
@[simp] theorem settle_str_evtStep : (settle s0 s).str.evtStep = s.str.evtStep := by rw [settle_frame]
end

end Sys2Proof.Machine
end

