-- ==== Sys2Proof/Laws/Table.lean ====
section
/-! SUPPORT. Laws of the sparse tables: what a write leaves to read, and that every write keeps the canonical form; from them
the laws of registers and of module memory. -/
namespace Sys2Proof.Machine

section
variable {α : Type}

/-! ### Reading after a write -/

theorem tabFind_insert_same (t : List (Nat × α)) (k : Nat) (v : α) : tabFind (tabInsert t k v) k = some v := by
  induction t with
  | nil => simp [tabInsert, tabFind]
  | cons e t ih =>
    obtain ⟨a, u⟩ := e
    simp only [tabInsert]
    split
    · simp [tabFind]
    · split
      · simp [tabFind]
      · next h => simp [tabFind, Ne.symm h, ih]

theorem tabFind_insert_other (t : List (Nat × α)) {k j : Nat} (v : α) (h : j ≠ k) :
    tabFind (tabInsert t k v) j = tabFind t j := by
  induction t with
  | nil => simp [tabInsert, tabFind, Ne.symm h]
  | cons e t ih =>
    obtain ⟨a, u⟩ := e
    simp only [tabInsert]
    split
    · simp [tabFind, Ne.symm h]
    · split
      · next hk => subst hk; simp [tabFind, Ne.symm h]
      · simp [tabFind, ih]

theorem tabFind_erase_other (t : List (Nat × α)) {k j : Nat} (h : j ≠ k) : tabFind (tabErase t k) j = tabFind t j := by
  induction t with
  | nil => rfl
  | cons e t ih =>
    obtain ⟨a, u⟩ := e
    simp only [tabErase]
    split
    · next hk => subst hk; simp [tabFind, Ne.symm h]
    · simp [tabFind, ih]

end

section
variable {α : Type} [DecidableEq α] {d : Nat → α}

theorem tabWfFrom_mono {b c : Nat} {t : List (Nat × α)} (h : tabWfFrom d b t = true) (hc : c ≤ b) : tabWfFrom d c t = true := by
  cases t with
  | nil => rfl
  | cons e t =>
    obtain ⟨a, u⟩ := e
    simp only [tabWfFrom, Bool.and_eq_true, decide_eq_true_eq] at h ⊢
    exact ⟨⟨Nat.le_trans hc h.1.1, h.1.2⟩, h.2⟩

theorem tabFind_below {b k : Nat} {t : List (Nat × α)} (h : tabWfFrom d b t = true) (hk : k < b) : tabFind t k = none := by
  induction t generalizing b with
  | nil => rfl
  | cons e t ih =>
    obtain ⟨a, u⟩ := e
    simp only [tabWfFrom, Bool.and_eq_true, decide_eq_true_eq] at h
    have hak : ¬ a = k := by omega
    simp only [tabFind, hak, if_false]
    exact ih h.2 (by omega)

theorem tabFind_erase_same {b : Nat} {t : List (Nat × α)} (h : tabWfFrom d b t = true) (k : Nat) :
    tabFind (tabErase t k) k = none := by
  induction t generalizing b with
  | nil => rfl
  | cons e t ih =>
    obtain ⟨a, u⟩ := e
    simp only [tabWfFrom, Bool.and_eq_true, decide_eq_true_eq] at h
    simp only [tabErase]
    split
    · next hk => subst hk; exact tabFind_below h.2 (by omega)
    · next hk => simp [tabFind, hk, ih h.2]

/-- A write is read back. -/
theorem tabGet_set_same {t : List (Nat × α)} (h : tabWf d t = true) (k : Nat) (v : α) : tabGet d (tabSet d t k v) k = v := by
  unfold tabSet
  by_cases hv : v = d k
  · rw [if_pos hv, tabGet, tabFind_erase_same h k]; exact hv.symm
  · rw [if_neg hv, tabGet, tabFind_insert_same]

/-- A write leaves every other key alone. -/
theorem tabGet_set_other (t : List (Nat × α)) {k j : Nat} (v : α) (h : j ≠ k) :
    tabGet d (tabSet d t k v) j = tabGet d t j := by
  unfold tabSet
  by_cases hv : v = d k
  · rw [if_pos hv, tabGet, tabFind_erase_other t h, tabGet]
  · rw [if_neg hv, tabGet, tabFind_insert_other t v h, tabGet]

/-! ### The canonical form -/

theorem tabErase_wf {b : Nat} {t : List (Nat × α)} (h : tabWfFrom d b t = true) (k : Nat) : tabWfFrom d b (tabErase t k) = true := by
  induction t generalizing b with
  | nil => rfl
  | cons e t ih =>
    obtain ⟨a, u⟩ := e
    have h' := h
    simp only [tabWfFrom, Bool.and_eq_true, decide_eq_true_eq] at h
    simp only [tabErase]
    split
    · exact tabWfFrom_mono h.2 (by omega)
    · simp only [tabWfFrom, Bool.and_eq_true, decide_eq_true_eq]
      exact ⟨h.1, ih h.2⟩

theorem tabInsert_wf {b : Nat} {t : List (Nat × α)} (h : tabWfFrom d b t = true) {k : Nat} {v : α} (hk : b ≤ k) (hv : v ≠ d k) :
    tabWfFrom d b (tabInsert t k v) = true := by
  induction t generalizing b with
  | nil => simp [tabInsert, tabWfFrom, hk, hv]
  | cons e t ih =>
    obtain ⟨a, u⟩ := e
    simp only [tabWfFrom, Bool.and_eq_true, decide_eq_true_eq] at h
    simp only [tabInsert]
    split
    · simp only [tabWfFrom, Bool.and_eq_true, decide_eq_true_eq]
      exact ⟨⟨hk, hv⟩, ⟨by omega, h.1.2⟩, h.2⟩
    · split
      · next hka => subst hka; simp only [tabWfFrom, Bool.and_eq_true, decide_eq_true_eq]; exact ⟨⟨hk, hv⟩, h.2⟩
      · simp only [tabWfFrom, Bool.and_eq_true, decide_eq_true_eq]
        exact ⟨h.1, ih h.2 (by omega)⟩

/-- Every write keeps the canonical form. -/
theorem tabSet_wf {t : List (Nat × α)} (h : tabWf d t = true) (k : Nat) (v : α) : tabWf d (tabSet d t k v) = true := by
  unfold tabSet
  split
  · exact tabErase_wf h k
  · next hv => exact tabInsert_wf h (Nat.zero_le k) hv

end

/-! ### Module memory (R410) -/

theorem putBytes_wf {m : List (Nat × Byte)} (h : tabWf hdmDefault m = true) (a : Nat) (l : List Byte) :
    tabWf hdmDefault (putBytes m a l) = true := by
  induction l generalizing m a with
  | nil => exact h
  | cons b t ih => exact ih (tabSet_wf h a b) (a + 1)

/-- Every store keeps the canonical form of module memory. -/
theorem memWrite_wf {s : State} (h : tabWf hdmDefault s.hdm = true) (a : Nat) (l : List Byte) :
    tabWf hdmDefault (memWrite a l s).hdm = true := putBytes_wf h a l

theorem putBytes_below (m : List (Nat × Byte)) {a j : Nat} (l : List Byte) (h : j < a) :
    tabGet hdmDefault (putBytes m a l) j = tabGet hdmDefault m j := by
  induction l generalizing m a with
  | nil => rfl
  | cons b t ih =>
    rw [putBytes, ih _ (by omega), tabGet_set_other _ _ (by omega)]

/-- A store leaves every byte outside it alone. -/
theorem memWrite_outside (s : State) {a j : Nat} (l : List Byte) (h : j < a ∨ a + l.length ≤ j) :
    memByte (memWrite a l s) j = memByte s j := by
  show tabGet hdmDefault (putBytes s.hdm a l) j = tabGet hdmDefault s.hdm j
  generalize s.hdm = m
  induction l generalizing m a with
  | nil => rfl
  | cons b t ih =>
    simp only [List.length_cons] at h
    rw [putBytes, ih (by omega), tabGet_set_other _ _ (by omega)]

/-- A stored byte is read back. -/
theorem memWrite_inside {s : State} (h : tabWf hdmDefault s.hdm = true) (a : Nat) (l : List Byte) (i : Nat) (hi : i < l.length) :
    memByte (memWrite a l s) (a + i) = l[i] := by
  show tabGet hdmDefault (putBytes s.hdm a l) (a + i) = l[i]
  revert h
  generalize s.hdm = m
  intro h
  induction l generalizing m a i with
  | nil => simp at hi
  | cons b t ih =>
    cases i with
    | zero =>
      simp only [putBytes, Nat.add_zero, List.getElem_cons_zero]
      rw [putBytes_below _ _ (by omega), tabGet_set_same h]
    | succ i =>
      simp only [putBytes, List.getElem_cons_succ]
      have := ih (a := a + 1) (i := i) (by simpa using hi) _ (tabSet_wf h a b)
      rw [← this]; congr 1; omega

/-! ### Registers (R10) -/

/-- A write of a register is read back. -/
theorem regGet_put_same {s : State} (h : tabWf resetWord s.regs = true) (off v : Nat) :
    regGet (regPut off v s) off = v % 2 ^ 32 := by
  show (tabGet resetWord (tabSet resetWord s.regs off (BitVec.ofNat 32 v)) off).toNat = _
  rw [tabGet_set_same h]; rfl

/-- A write of a register leaves every other register alone. -/
theorem regGet_put_other (s : State) {off j : Nat} (v : Nat) (h : j ≠ off) : regGet (regPut off v s) j = regGet s j := by
  show (tabGet resetWord (tabSet resetWord s.regs off (BitVec.ofNat 32 v)) j).toNat = _
  rw [tabGet_set_other _ _ h]; rfl

theorem regPut_wf {s : State} (h : tabWf resetWord s.regs = true) (off v : Nat) : tabWf resetWord (regPut off v s).regs = true :=
  tabSet_wf h off _

/-- Hardware's write of a field of one register leaves every other register alone. -/
theorem fld_setFld_other (s : State) {off j : Nat} (lo n v lo' n' : Nat) (h : j ≠ off) :
    fld (setFld off lo n v s) j lo' n' = fld s j lo' n' := by
  unfold fld setFld; rw [regGet_put_other _ _ h]

end Sys2Proof.Machine
end

