-- ==== Sys2Proof/Laws/Quiet.lean ====
section
/-! SUPPORT. Registers that raising a vector, a completion record and the end of a hub cycle leave alone: all but
GLB_IRQ_RAW, GLB_ERR_CTL (LOST) and HIF_SQ_SIZE (DISC_CNT). -/
namespace Sys2Proof
open Machine
theorem Quiet.refl (s : State) : Quiet s s := fun _ _ => rfl
theorem Quiet.trans {s t u : State} (h : Quiet s t) (g : Quiet t u) : Quiet s u := fun o q => (g o q).trans (h o q)
end Sys2Proof

namespace Sys2Proof.Machine

theorem quiet_of_regs {s t : State} (h : t.regs = s.regs) : Quiet s t := fun o _ => by unfold regGet; rw [h]
theorem messageFor_quiet (v : Nat) (s : State) : Quiet s (messageFor v s) := by
  unfold messageFor
  repeat' split
  all_goals exact quiet_of_regs rfl

theorem sendLater_quiet (v : Nat) (s : State) : Quiet s (sendLater v s) := by
  unfold sendLater
  split
  · exact .refl s
  · exact quiet_of_regs rfl

theorem raise_quiet (v : Nat) (s : State) : Quiet s (raise v s) :=
  .trans (t := setBit oIrqRaw v s) (fun _ q => regGet_put_other s _ q.2.1) (sendLater_quiet v _)

theorem messages_quiet (l : List Nat) (s : State) : Quiet s (l.foldl (fun s v => messageFor v s) s) := by
  induction l generalizing s with
  | nil => exact .refl s
  | cons v t ih => exact (messageFor_quiet v s).trans (ih _)

theorem flushIrq_quiet (s : State) : Quiet s (flushIrq s) := messages_quiet _ s

theorem raiseIf_quiet (b : Bool) (v : Nat) (s : State) : Quiet s (raiseIf b v s) := by
  unfold raiseIf
  split
  · exact raise_quiet v s
  · exact .refl s

theorem dropAccepted_quiet (h : HostHdr) (s : State) : Quiet s (dropAccepted h s) := quiet_of_regs (dropAccepted_regs h s)

theorem writeRecord_quiet (n tag st ss r : Nat) (s : State) : Quiet s (writeRecord n tag st ss r s) :=
  quiet_of_regs (writeRecord_regs n tag st ss r s)

theorem bumpSq_quiet (n : Nat) (s : State) : Quiet s (bump (oSqSize n) 16 8 1 s) :=
  fun _ q => regGet_put_other s _ (q.2.2 n)

theorem completeWith_quiet (h : HostHdr) (st r : Nat) (s : State) : Quiet s (completeWith h st r s) := by
  unfold completeWith
  generalize h.ring % 4 = n
  dsimp only
  split
  · exact (dropAccepted_quiet h s).trans (bumpSq_quiet n _)
  · split
    · exact (quiet_of_regs (t := { s with hif := { s.hif with held := s.hif.held ++ [⟨h, st, r⟩] } }) rfl).trans
        (raiseIf_quiet _ _ _)
    · exact ((dropAccepted_quiet h s).trans (writeRecord_quiet n h.tag st h.sstamp r _)).trans (raiseIf_quiet _ _ _)

theorem complete_quiet (h : HostHdr) (st : Nat) (s : State) : Quiet s (complete h st s) := completeWith_quiet h st _ s

theorem resolveFences_quiet (k : Nat) (s : State) : Quiet s (resolveFences k s) := by
  induction k generalizing s with
  | zero => exact .refl s
  | succ k ih =>
    unfold resolveFences
    split
    · exact .refl s
    · next f _ =>
      have h0 : Quiet s { s with hif := { s.hif with fences := dropFirst (fun g => g == f) s.hif.fences } } := quiet_of_regs rfl
      exact (h0.trans (complete_quiet _ _ _)).trans (ih _)

theorem placeEntry_quiet (s : State) (e : LogE) : Quiet s (placeEntry s e) := by
  unfold placeEntry
  split
  · exact quiet_of_regs rfl
  · exact fun o q => regGet_put_other s _ q.1

theorem placeEntries_quiet (l : List LogE) (s : State) : Quiet s (l.foldl placeEntry s) := by
  induction l generalizing s with
  | nil => exact .refl s
  | cons e t ih => exact (placeEntry_quiet s e).trans (ih _)

theorem flushLog_quiet (s : State) : Quiet s (flushLog s) :=
  Quiet.trans (t := { s with glb := { s.glb with logQ := [] } }) (quiet_of_regs rfl) (placeEntries_quiet _ _)

/-- The end of a hub cycle leaves every quiet register alone. -/
theorem settle_quiet (s0 s : State) : Quiet s (settle s0 s) := by
  unfold settle countAdv
  refine (resolveFences_quiet s.hif.fences.length s).trans ?_
  generalize resolveFences s.hif.fences.length s = m
  split
  · exact (flushIrq_quiet m).trans (flushLog_quiet _)
  · exact Quiet.trans (t := { m with str := { m.str with adv := (m.str.adv + 1) % 2 ^ 32 } }) (quiet_of_regs rfl)
      ((flushIrq_quiet _).trans (flushLog_quiet _))

end Sys2Proof.Machine
end

