-- ==== Sys2Proof/Laws/Completion.lean ====
section
/-! SUPPORT. What a completion, an interrupt and the end of a hub cycle may change (`HostOnly`), and the record that a
completion writes (R418, R432, R515, R530). -/
namespace Sys2Proof
open Machine

theorem GlbSide.refl (s : State) : GlbSide s s := rfl
theorem GlbSide.trans {s t u : State} (h : GlbSide s t) (g : GlbSide t u) : GlbSide s u := by
  unfold GlbSide at *
  rw [g, h]
theorem HifSide.refl (s : State) : HifSide s s := ⟨rfl, fun _ => rfl⟩
theorem HifSide.trans {s t u : State} (h : HifSide s t) (g : HifSide t u) : HifSide s u := by
  obtain ⟨h1, h2⟩ := h
  obtain ⟨g1, g2⟩ := g
  refine ⟨?_, fun n => ?_⟩
  · rw [g1, h1]
  · rw [g2 n, h2 n]

theorem HostOnly.refl (s : State) : HostOnly s s := ⟨rfl, .refl s, .refl s, .refl s, [], by simp⟩
theorem HostOnly.trans {s t u : State} (h : HostOnly s t) (g : HostOnly t u) : HostOnly s u := by
  obtain ⟨h1, h2, h3, h4, r, h5⟩ := h
  obtain ⟨g1, g2, g3, g4, q, g5⟩ := g
  exact ⟨Aside.trans h1 g1, h2.trans g2, h3.trans g3, h4.trans g4, r ++ q, by rw [g5, h5, List.append_assoc]⟩

/-- Only the global block, in what `GlbSide` names. -/
theorem hostOnly_glb (s : State) (l : List (Option LogE)) (q : Nat) (v : List Vec) (r : List Nat) (lq : List LogE) :
    HostOnly s { s with glb := { s.glb with log := l, seq := q, vecs := v, raised := r, logQ := lq } } :=
  ⟨rfl, rfl, ⟨rfl, fun _ => rfl⟩, fun _ _ => rfl, [], by simp⟩

/-- Only what waits in the host interface. -/
theorem hostOnly_hif (s : State) (a : List HostHdr) (f : List FenceJob) (h : List HeldRec) (i : List Nat) :
    HostOnly s { s with hif := { s.hif with accepted := a, fences := f, held := h, heldIrq := i } } :=
  ⟨rfl, rfl, ⟨rfl, fun _ => rfl⟩, fun _ _ => rfl, [], by simp⟩

theorem hostOnly_regPut (off v : Nat) (s : State) (h : ¬ quietReg off) : HostOnly s (regPut off v s) :=
  ⟨rfl, rfl, ⟨rfl, fun _ => rfl⟩, fun o q => regGet_put_other s v (fun e => h (e ▸ q)), [], by simp⟩

theorem hostOnly_bump (off lo n k : Nat) (s : State) (h : ¬ quietReg off) : HostOnly s (bump off lo n k s) :=
  hostOnly_regPut off _ s h

theorem hostOnly_emit (o : Out) (s : State) : HostOnly s (emit o s) :=
  ⟨rfl, rfl, ⟨rfl, fun _ => rfl⟩, fun _ _ => rfl, [o], rfl⟩

theorem noisy_raw : ¬ quietReg oIrqRaw := fun h => h.2.1 rfl
theorem noisy_log : ¬ quietReg oErrCtl := fun h => h.1 rfl
theorem noisy_sq (n : Nat) : ¬ quietReg (oSqSize n) := fun h => h.2.2 n rfl

theorem sendMsix_hostOnly (v : Nat) (s : State) : HostOnly s (sendMsix v s) := by
  unfold sendMsix
  exact (hostOnly_glb s _ _ _ _ _).trans (hostOnly_emit _ _)

theorem messageFor_hostOnly (v : Nat) (s : State) : HostOnly s (messageFor v s) := by
  unfold messageFor
  repeat' split
  · exact .refl s
  · exact .refl s
  · exact hostOnly_hif s _ _ _ _
  · exact hostOnly_glb s _ _ _ _ _
  · exact sendMsix_hostOnly v s
  · exact hostOnly_glb s _ _ _ _ _

theorem messages_hostOnly (l : List Nat) (s : State) : HostOnly s (l.foldl (fun s v => messageFor v s) s) := by
  induction l generalizing s with
  | nil => exact .refl s
  | cons v t ih => exact (messageFor_hostOnly v s).trans (ih _)

theorem flushIrq_hostOnly (s : State) : HostOnly s (flushIrq s) := messages_hostOnly _ s

theorem sendLater_hostOnly (v : Nat) (s : State) : HostOnly s (sendLater v s) := by
  unfold sendLater
  split
  · exact .refl s
  · exact hostOnly_glb s _ _ _ _ _

theorem raise_hostOnly (v : Nat) (s : State) : HostOnly s (raise v s) :=
  (hostOnly_regPut oIrqRaw _ s noisy_raw).trans (sendLater_hostOnly v _)

theorem raiseIf_hostOnly (b : Bool) (v : Nat) (s : State) : HostOnly s (raiseIf b v s) := by
  unfold raiseIf
  split
  · exact raise_hostOnly v s
  · exact .refl s

theorem dropAccepted_hostOnly (h : HostHdr) (s : State) : HostOnly s (dropAccepted h s) := hostOnly_hif s _ _ _ _

theorem logEv_hostOnly (e st ag : Nat) (i : LogInfo) (s : State) : HostOnly s (logEv e st ag i s) := hostOnly_glb s _ _ _ _ _

theorem nth_modNth {α : Type} (d : α) (f : α → α) (l : List α) (i j : Nat) :
    nth d (modNth f l i) j = if i = j ∧ j < l.length then f (nth d l j) else nth d l j := by
  induction l generalizing i j with
  | nil => simp [modNth, nth]
  | cons a t ih =>
    cases i with
    | zero =>
      cases j with
      | zero => simp [modNth, nth]
      | succ j => simp [modNth, nth]
    | succ i =>
      cases j with
      | zero => simp [modNth, nth]
      | succ j => simp [modNth, nth, ih]

theorem writeRecord_hostOnly (n tag st ss r : Nat) (s : State) : HostOnly s (writeRecord n tag st ss r s) := by
  unfold writeRecord
  dsimp only
  refine (hostOnly_emit (.hostWrite (cqBase s n + 16 * (s.ring n).cqTail)
    (recordBytes tag st ss r (s.ring n).phase)) s).trans ?_
  generalize emit _ s = t
  refine ⟨rfl, rfl, ⟨rfl, fun m => ?_⟩, fun _ _ => rfl, [], by simp⟩
  have e : ∀ f, (modRing n f t).hif.rings = modNth f t.hif.rings n := fun _ => rfl
  unfold State.ring
  rw [e, nth_modNth]
  split <;> rfl

theorem completeWith_hostOnly (h : HostHdr) (st r : Nat) (s : State) : HostOnly s (completeWith h st r s) := by
  have e1 : ∀ n, HostOnly s (bump (oSqSize n) 16 8 1 (dropAccepted h s)) := fun n =>
    (dropAccepted_hostOnly h s).trans (hostOnly_bump (oSqSize n) 16 8 1 _ (noisy_sq n))
  have e2 := (hostOnly_hif s s.hif.accepted s.hif.fences (s.hif.held ++ [⟨h, st, r⟩]) s.hif.heldIrq).trans
    (raiseIf_hostOnly h.irq 0 _)
  have e3 : ∀ n, HostOnly s (raiseIf h.irq 0 (writeRecord n h.tag st h.sstamp r (dropAccepted h s))) := fun n =>
    (dropAccepted_hostOnly h s).trans ((writeRecord_hostOnly n h.tag st h.sstamp r _).trans (raiseIf_hostOnly h.irq 0 _))
  unfold completeWith
  generalize h.ring % 4 = n
  dsimp only at e2 ⊢
  split
  · exact e1 n
  · split
    · exact e2
    · exact e3 n

theorem complete_hostOnly (h : HostHdr) (st : Nat) (s : State) : HostOnly s (complete h st s) := completeWith_hostOnly h st _ s

theorem completeOpt_hostOnly (h : Option HostHdr) (st : Nat) (s : State) : HostOnly s (completeOpt h st s) := by
  cases h with
  | none => exact .refl s
  | some h => exact complete_hostOnly h st s

theorem resolveFences_hostOnly (k : Nat) (s : State) : HostOnly s (resolveFences k s) := by
  induction k generalizing s with
  | zero => exact .refl s
  | succ k ih =>
    unfold resolveFences
    split
    · exact .refl s
    · exact (hostOnly_hif s s.hif.accepted _ s.hif.held s.hif.heldIrq).trans ((complete_hostOnly _ _ _).trans (ih _))

theorem placeEntry_hostOnly (s : State) (e : LogE) : HostOnly s (placeEntry s e) := by
  unfold placeEntry
  split
  · exact hostOnly_glb s _ _ _ _ _
  · exact hostOnly_bump _ _ _ _ s noisy_log

theorem placeEntries_hostOnly (l : List LogE) (s : State) : HostOnly s (l.foldl placeEntry s) := by
  induction l generalizing s with
  | nil => exact .refl s
  | cons e t ih => exact (placeEntry_hostOnly s e).trans (ih _)

theorem flushLog_hostOnly (s : State) : HostOnly s (flushLog s) :=
  (hostOnly_glb s s.glb.log s.glb.seq s.glb.vecs s.glb.raised []).trans (placeEntries_hostOnly _ _)

theorem beginCycle_hostOnly (s : State) : HostOnly s (beginCycle s) := hostOnly_glb s _ _ _ _ _

/-- The end of a hub cycle in which STR_NOW kept its value. -/
theorem settle_hostOnly (s0 s : State) (h : s.str.now = s0.str.now) : HostOnly s (settle s0 s) := by
  have hr := resolveFences_hostOnly s.hif.fences.length s
  unfold settle countAdv
  rw [if_pos (.inl ((congrArg (fun t => t.str.now) hr.1).trans h))]
  exact hr.trans ((flushIrq_hostOnly _).trans (flushLog_hostOnly _))

/-- Beside what `HostOnly` names the end of a hub cycle moves ADV_CNT. -/
theorem settle_now (s0 s : State) : HostOnly s { settle s0 s with str := s.str } := by
  have hr := resolveFences_hostOnly s.hif.fences.length s
  have hs : (resolveFences s.hif.fences.length s).str = s.str := (congrArg (fun t => t.str) hr.1)
  unfold settle countAdv
  generalize resolveFences s.hif.fences.length s = m at hr hs ⊢
  refine hr.trans ?_
  have key : ∀ (a : Str) (u : State), HostOnly u { flushLog (flushIrq { u with str := a }) with str := u.str } := by
    intro a u
    obtain ⟨h1, h2, h3, h4, r, h5⟩ := (flushIrq_hostOnly { u with str := a }).trans (flushLog_hostOnly _)
    refine ⟨?_, h2, h3, h4, r, h5⟩
    rw [h1]
  split
  · rw [← hs]
    exact key m.str m
  · rw [← hs]
    exact key { m.str with adv := (m.str.adv + 1) % 2 ^ 32 } m

theorem runLive_eq (f : State → State) (s : State) (h : s.live = true) :
    runLive f s = .next (settle s (f (beginCycle s))) := by
  unfold runLive run
  rw [if_pos h]

theorem runAwake_eq (f : State → State) (s : State) (h : s.awake = true) :
    runAwake f s = .next (settle s (f (beginCycle s))) := by
  unfold runAwake run
  rw [if_pos h]

/-! ### The record -/

@[simp] theorem beginCycle_ring (s : State) (n : Nat) : (beginCycle s).ring n = s.ring n := rfl
@[simp] theorem beginCycle_regGet (s : State) (o : Nat) : regGet (beginCycle s) o = regGet s o := rfl

/-- A completion on an enabled ring, host-bound writes not stopped, writes its record next. -/
theorem completeWith_recorded (h : HostHdr) (st r : Nat) (s : State) (he : (s.ring (h.ring % 4)).en = true)
    (hs : s.hif.stopped = false) : Recorded h st r s (completeWith h st r s) := by
  unfold completeWith
  dsimp only
  rw [he, hs]
  simp only [Bool.not_true, Bool.false_eq_true, if_false]
  obtain ⟨-, -, -, -, q, hq⟩ := raiseIf_hostOnly h.irq 0
    (writeRecord (h.ring % 4) h.tag st h.sstamp r (dropAccepted h s))
  refine ⟨q, ?_⟩
  rw [hq]
  unfold writeRecord
  simp only [modRing, emit, dropAccepted, recordOf, List.append_assoc, List.singleton_append]
  rfl

theorem Recorded.grow {h : HostHdr} {st r : Nat} {s t u : State} (a : Recorded h st r s t) (b : HostOnly t u) :
    Recorded h st r s u := by
  obtain ⟨q, hq⟩ := a
  obtain ⟨-, -, -, -, p, hp⟩ := b
  exact ⟨q ++ p, by rw [hp, hq, List.append_assoc, List.cons_append]⟩

end Sys2Proof
end

