-- ==== Sys2Proof/Tests/Slice0.lean ====
section
/-! SUPPORT. Tests: ill-formed commands that `wellFormed` refuses, words and values worked out from the spec by hand, and for each
statement states and operands that meet its hypotheses (`witness_…`). -/
namespace Sys2Proof.Tests
open Sys2Proof Sys2Proof.Machine
-- One test at a time: a kernel evaluation waits for every earlier declaration to be checked.
set_option Elab.async false

/-! ### Hypotheses as Bools -/

theorem recordable_of {h : HostHdr} {s : State} (a : (s.live && (s.ring (h.ring % 4)).en && !s.hif.stopped) = true) :
    Recordable h s := by
  simp only [Bool.and_eq_true, Bool.not_eq_true'] at a
  exact ⟨a.1.1, a.1.2, a.2⟩

theorem tablesOk_of {s : State} (a : (Memory.wf s && tabWf resetWord s.regs && tabWf flagDefault s.flg.flags
    && tabWf storeDefault s.flg.store) = true) : TablesOk s := by
  simp only [Bool.and_eq_true] at a
  exact ⟨a.1.1.1, a.1.1.2, a.1.2, a.2⟩

theorem nth_all {α : Type} (d : α) (p : α → Bool) (hd : p d = true) (l : List α) (a : l.all p = true) (i : Nat) :
    p (nth d l i) = true := by
  induction l generalizing i with
  | nil => exact hd
  | cons x t ih =>
    simp only [List.all_cons, Bool.and_eq_true] at a
    cases i with
    | zero => exact a.1
    | succ i => exact ih a.2 i

theorem nth_but {α : Type} (d : α) (p : α → Bool) (hd : p d = true) (l : List α) (y : Nat) (a : (l.eraseIdx y).all p = true)
    (i : Nat) (n : i ≠ y) : p (nth d l i) = true := by
  induction l generalizing i y with
  | nil => exact hd
  | cons x t ih =>
    cases y with
    | zero =>
      cases i with
      | zero => exact absurd rfl n
      | succ i => exact nth_all d p hd t a i
    | succ y =>
      simp only [List.eraseIdx_cons_succ, List.all_cons, Bool.and_eq_true] at a
      cases i with
      | zero => exact a.1
      | succ i => exact ih y a.2 i (fun e => n (congrArg (· + 1) e))

theorem otherWaits_of {s : State} {y : Nat} (a : ((s.ctxs.eraseIdx y).all fun c => c.wait.isNone) = true) :
    ∀ z, z ≠ y → (s.ctx z).wait = none := fun z n =>
  Option.isNone_iff_eq_none.1 (nth_but Ctx.none (fun c => c.wait.isNone) rfl s.ctxs y a z n)

theorem noSeqWait_of {s : State} (a : (s.ctxs.all fun c => c.wait.isNone) = true) : NoSeqWait s := fun x =>
  Option.isNone_iff_eq_none.1 (nth_all Ctx.none (fun c => c.wait.isNone) rfl s.ctxs a x)

theorem noStuck_of {s : State} (a : (s.ports.all fun q => q.rxPart.all fun r => r.stuck == 0) = true) : NoStuck s := fun p r h =>
  beq_iff_eq.1 (List.all_eq_true.1 (nth_all Port.reset (fun q => q.rxPart.all fun r => r.stuck == 0) rfl s.ports a p) r h)

theorem batches_of {s : State} (a : (s.ctxs.all fun c => c.batches.isEmpty && c.experts.isEmpty) = true) (x : Nat) :
    (s.ctx x).batches = [] ∧ (s.ctx x).experts = [] := by
  have e := nth_all Ctx.none (fun c => c.batches.isEmpty && c.experts.isEmpty) rfl s.ctxs a x
  simp only [Bool.and_eq_true] at e
  exact ⟨List.isEmpty_iff.1 e.1, List.isEmpty_iff.1 e.2⟩

theorem noOutgoing_of {s : State} (a : (s.ctxs.all fun c => c.outgoing.isEmpty) = true) : NoOutgoing s := fun x =>
  List.isEmpty_iff.1 (nth_all Ctx.none (fun c => c.outgoing.isEmpty) rfl s.ctxs a x)

theorem entries_of {s : State} (a : (s.ctxs.all fun c => c.aq.entries.isEmpty && c.gq.entries.isEmpty) = true) (x : Nat) :
    (s.ctx x).aq.entries = [] ∧ (s.ctx x).gq.entries = [] := by
  have e := nth_all Ctx.none (fun c => c.aq.entries.isEmpty && c.gq.entries.isEmpty) rfl s.ctxs a x
  simp only [Bool.and_eq_true] at e
  exact ⟨List.isEmpty_iff.1 e.1, List.isEmpty_iff.1 e.2⟩

/-! ### Small states -/

/-- A host header of ring 0 that asks for an interrupt. -/
def hd : HostHdr := ⟨0, 7, 1, true⟩

/-- The module runs, ring 0 is enabled and its driver has unmasked the MSI-X table. -/
def base : State :=
  let s := State.reset
  { s with boot := { s.boot with ready := true, step := 13 },
           glb := { s.glb with vecs := List.replicate 16 { Vec.reset with masked := false } },
           hif := { s.hif with rings := { Ring.reset with en := true } :: List.replicate 3 Ring.reset } }
/-- A driver that has not unmasked it. -/
def maskedBase : State := { base with glb := { base.glb with vecs := List.replicate 16 Vec.reset } }

theorem base_recordable : Recordable hd base := recordable_of (by decide)
theorem base_tables : TablesOk base := tablesOk_of (by decide)

/-! ### Witnesses: completion, interrupts, rings -/

theorem witness_NopCompletes : Recordable hd base ∧ base.hif.fences = [] ∧ base.hif.rings.length = 4 :=
  ⟨base_recordable, rfl, rfl⟩

/-- Vector 3 waits unmasked with RAW set, vector 2 with its holdoff over, vector 1 masked with RAW set. -/
def irqState : State :=
  let s := regPut oIrqRaw 0x0A (regPut oIrqMask 0x02 base)
  { s with glb := { s.glb with vecs := modNth (fun v => { v with deferred := true }) s.glb.vecs 2 } }

theorem witness_RecordsAndInterruptsFollow :
    (Recordable hd base ∧ TablesOk base ∧ hd.irq = true ∧ base.hif.fences = [] ∧ bit (fld base oIrqMask 0 16) 0 = false ∧
      0 < base.glb.vecs.length ∧ (base.vec 0).masked = false ∧ holdoffOver base 0 = true) ∧
    (Recordable hd maskedBase ∧ TablesOk maskedBase ∧ maskedBase.hif.fences = [] ∧ bit (fld maskedBase oIrqMask 0 16) 0 = false ∧
      0 < maskedBase.glb.vecs.length ∧ (maskedBase.vec 0).masked = true) ∧
    ((base.ring (({ hd with ring := 1 } : HostHdr).ring % 4)).en = false) ∧
    (irqState.live = true ∧ TablesOk irqState ∧ (irqState.vec 1).masked = false ∧ irqState.hif.stopped = false ∧
      bit (fld irqState oIrqMask 0 16) 1 = true ∧ bit 0 1 = false ∧ bit (fld irqState oIrqRaw 0 16) 1 = true ∧
      holdoffOver irqState 1 = true ∧ bit (fld irqState oIrqMask 0 16) 2 = false ∧
      (irqState.vec 2).deferred = true ∧ (irqState.vec 2).masked = false ∧
      bit (fld irqState oIrqMask 0 16) 0 = false ∧ (irqState.vec 0).deferred = false ∧ irqState.hif.fences = [] ∧
      ∀ v, v < 16 → bit (fld irqState oIrqMask 0 16) v = true → bit (fld irqState oIrqRaw 0 16) v = true → bit 2 v = true) := by
  and_intros <;> first | exact base_recordable | exact base_tables | decide +kernel

/-- A NOP of ring 0 is outstanding. -/
def busy : State := { base with hif := { base.hif with accepted := [⟨0, 5, 1, false⟩] } }

theorem witness_FenceHoldsItsRing :
    (Recordable hd base ∧ base.hif.fences = [] ∧ ∀ a ∈ base.hif.accepted, a ≠ hd → a.ring ≠ hd.ring ∧ bit 0 a.ring = false) ∧
    (busy.live = true ∧ busy.hif.fences = [] ∧ (⟨0, 5, 1, false⟩ : HostHdr) ∈ busy.hif.accepted ∧
      (⟨0, 5, 1, false⟩ : HostHdr) ≠ hd ∧ (0 = hd.ring ∨ bit 0 0 = true)) :=
  ⟨⟨base_recordable, rfl, by decide⟩, by decide, rfl, by decide, by decide, by decide⟩

theorem witness_RingsStartAndStop :
    (base.live = true ∧ 0 < base.hif.rings.length ∧ (base.ring 0).en = true ∧ (base.ring 1).en = false) ∧
    (TablesOk base ∧ base.hif.rings.length = 4 ∧ base.hif.fences = [] ∧
      (sqBase base 1 + 64 * (16 * 2 ^ 8) ≤ fastTop ∧ 8 ≤ 8 ∧ fld base (oCqSize 1) 0 4 ≤ 12 ∧ outst base 1 = 0) ∧ ¬ (9 ≤ 8)) :=
  ⟨by decide, base_tables, rfl, rfl, by decide, by decide⟩

/-- Ring 0 has one slot to read: a NOP with stamp 1, or with opcode `op` and stamp `st`. -/
def slotState (op st : Nat) (stale : Option Nat) : State :=
  let s := memWrite 0 (leBytes 8 (op + st * 2 ^ 16 + 9 * 2 ^ 32)) base
  modRing 0 (fun r => { r with tail := 1, stale := stale }) s

theorem witness_SlotsAreRead :
    (ringReads (slotState 1 1 none) 0 = true ∧ slotNew (slotState 1 1 none) 0 = true ∧
      slotCommand (slotWord (slotState 1 1 none) 0) ⟨0, 9, 1, false⟩ = some (.nop ⟨0, 9, 1, false⟩) ∧
      slotCommand (slotWord (slotState 0xFF 1 (some 0)) 0) ⟨0, 9, 1, false⟩ = none ∧
      slotNew (slotState 0xFF 1 (some 0)) 0 = true) ∧
    (ringReads (slotState 1 2 none) 0 = true ∧ slotNew (slotState 1 2 none) 0 = false ∧
      fld (slotState 1 2 none) oRetry 0 16 ≠ 0 ∧ fld (regPut oRetry 0 (slotState 1 2 none)) oRetry 0 16 = 0 ∧
      ringReads (slotState 1 2 (some 0)) 0 = true ∧ ((slotState 1 2 (some 0)).ring 0).stale.isSome = true) := by
  decide +kernel

/-! ### Witnesses: host loss, registers, memory -/

/-- A COPY to the host runs. -/
def lossState : State :=
  { base with hif := { base.hif with accepted := [hd], copies := [⟨hd, ⟨2, 0, 0, false, 0, 0, 0, 0x1000, 64, 0⟩, List.replicate 64 9⟩] } }
/-- Host-bound writes are stopped; two records of ring 0, one of ring 1, which is not enabled, and one message are held. -/
def heldState : State :=
  { base with hif := { base.hif with accepted := [hd], stopped := true, heldIrq := [3],
                                     held := [⟨hd, stOk, 5⟩, ⟨{ hd with ring := 1 }, stOk, 6⟩, ⟨{ hd with tag := 8 }, stOk, 7⟩] } }

theorem witness_HostLossAndFunctionResetAct :
    ((base.live = true ∧ TablesOk base ∧ NoJobs base ∧ hostBound base = [] ∧ none ∈ base.glb.log) ∧
      (lossState.live = true ∧ TablesOk lossState ∧ NoJobs lossState ∧
        lossState.hif.copies = [⟨hd, ⟨2, 0, 0, false, 0, 0, 0, 0x1000, 64, 0⟩, List.replicate 64 9⟩] ∧ lossState.upd.snaps = [] ∧
        (lossState.ring (hd.ring % 4)).en = true)) ∧
    (heldState.live = true ∧ heldState.hif.stopped = true ∧ 0xFFFF ≠ heldState.hif.gen ∧ heldState.glb.dieFail = false ∧
      (heldState.hif.held.filter (keptRec heldState))[1]? = some ⟨{ hd with tag := 8 }, stOk, 7⟩ ∧
      (heldState.ring 0).cqTail < cqSlots heldState 0 ∧ 3 ∈ heldState.hif.heldIrq ∧ 3 < heldState.glb.vecs.length ∧
      bit (fld heldState oIrqMask 0 16) 3 = false ∧ holdoffOver heldState 3 = true ∧ base.hif.stopped = false) ∧
    (base.live = true ∧ TablesOk base ∧ NoJobs base ∧ hostBound base = [] ∧ base.hif.quiesceJobs = [] ∧ 16 < base.flg.maps.length ∧
      31 < base.flg.maps.length) := by
  and_intros <;> decide +kernel

/-- A register that stores fields of two access codes: GRP_CTL of group 0 and its status. -/
theorem witness_RegistersReadAndWrite :
    (base.live = true ∧ TablesOk base ∧ oGrp 0 4 % 4 = 0 ∧ plainReg (oGrp 0 4) = true ∧ plainReg (oGrp 0 0x14) = true ∧
      plainReg (oRed 0x410) = true ∧ (base.ring 0).en = true ∧ oSqBase 0 ∈ [oSqBase 0, oSqBase 0 + 4, oCqBase 0, oCqBase 0 + 4, oCqSize 0] ∧
      (2 % 4 ≠ 0 ∨ barEnd < 2 + 4 * [((1 : Word), 15)].length) ∧ barEnd < barEnd - 4 + 4 * [((1 : Word), 15), (2, 15)].length) ∧
    (base.awake = true ∧ tabWf latchReset base.latches = true ∧ base.boot.ready = true ∧ (barEnd - 4) % 4 = 0 ∧ barEnd - 4 < barEnd ∧
      State.reset.awake = true ∧ TablesOk State.reset ∧ tabWf latchReset State.reset.latches = true ∧ State.reset.boot.ready = false ∧
      0x100000 % 4 = 0 ∧ 0x100000 < barEnd ∧ (latchGroup 0x100 ≠ []) ∧ (∃ f ∈ fieldsOf oErrCtl, f.acc = .rc)) := by
  and_intros <;> decide +kernel

theorem witness_HostMemoryActs :
    (Recordable hd base ∧ TablesOk base ∧ badHdm 0 64 = false ∧ badHdm (fastTop - 64) 64 = false ∧ badHdm (fastTop - 64) 128 = true ∧
      badHdm fastTop 64 = true) ∧
    (base.awake = true ∧ slowTop - 64 + 64 ≤ 2 ^ 40 ∧ (List.replicate 64 (7 : Byte)).length = 64 ∧ base.boot.ready = true ∧
      inOneRange (slowTop - 64) 64 = true ∧ inOneRange (fastTop - 32) 64 = false ∧ none ∈ base.glb.log ∧
      State.reset.awake = true ∧ TablesOk State.reset ∧ State.reset.boot.ready = false) := by
  and_intros <;> decide +kernel

/-- A COPY of 64 bytes from `src` to `dst`, to port or context 0. -/
def cpy (kind src dst : Nat) : CopyOps := ⟨kind, 0, 2, false, 0, 0, src, dst, 64, 77⟩
/-- Bytes 1 to 64 stand at address 0x10000, port 0 carries with VC14, and context 0 is a FIRST context with a free buffer. -/
def copyState : State :=
  let s := memWrite 0x10000 ((upto 64).map fun i => BitVec.ofNat 8 (i + 1)) (regPut (oLnk 0 0x138) 0x1000 base)
  let aq : Queue := { Queue.none with depth := 4, nbuf := 2, bufBytes := 64, base := 0x20000, free := [1, 0] }
  modCtx 0 (fun c => { c with state := .running, pat := { c.pat with sched := 0x20 }, aq := aq })
    (modPort 0 (fun q => { q with state := .up, ncap := 0x3FFF, peerMod := 9 }) s)

theorem witness_CopiesAct :
    (Recordable hd copyState ∧ TablesOk copyState ∧ copyJob copyState hd = none ∧ copyBad copyState (cpy 0 0x10000 0x10040) = false ∧
      anyPoison copyState 0x10000 64 = false) ∧
    (copyBad copyState (cpy 0 0x10000 0x10020) = true ∧ copyBad copyState (cpy 1 0 0x10000) = false ∧
      (List.replicate 64 (3 : Byte)).length = (cpy 1 0 0x10000).length ∧ copyBad copyState (cpy 2 0x10000 0) = false ∧
      copyBad base (cpy 3 0x10000 0) = false ∧ peerReady base 0 = false ∧ copyBad copyState (cpy 3 0x10000 0) = false ∧
      peerReady copyState 0 = true ∧ 0 < copyState.ports.length) ∧
    (copyBad copyState (cpy 4 0x10000 0) = false ∧ 0 < copyState.ctxs.length ∧ (copyState.ctx 0).grants = true ∧
      (copyState.ctx 0).aq.free = 1 :: [0] ∧
      (copyState.ctx 0).aq.granted.length + (copyState.ctx 0).aq.entries.length < (copyState.ctx 0).aq.depth) := by
  and_intros <;> decide +kernel

/-- Version 1 of region 0 is LIVE; two pins are allowed and none is taken. -/
def snapState_ : State :=
  { base with regions := [(0, ⟨0, 0, false, false, false, false, 1, 2, 0, false, false, [], [⟨1, .live, 0, 0, false, vsLo⟩]⟩)] }
/-- A SNAPSHOT of `what`, generation `g` of region 0, to the host. -/
def snp (what g len : Nat) : SnapOps := ⟨what, 0, 0, 0, 0, g, 0x1000, len, 0, 0⟩
/-- Its last byte has left; `pin` is the version slot it pins. -/
def snapDone (pin : Option (Nat × Nat)) : State :=
  { snapState_ with hif := { snapState_.hif with accepted := [hd] },
                    regions := [(0, ⟨0, 0, false, false, false, false, 1, 2, 0, false, false, [],
                      [⟨1, .live, 0, if pin.isSome then 1 else 0, true, vsLo⟩, ⟨2, .live, 0, 0, false, vsLo⟩]⟩)],
                    upd := { snapState_.upd with snaps := [⟨hd, snp 2 1 64, none, pin, [1, 2]⟩] } }
/-- A SNAPSHOT to the peer of port 0, which carries with VC14; and its transfer, acknowledged by the flit of FSEQ 0. -/
def snpPeer (what : Nat) : SnapOps := { snp what 1 64 with dest := 1 }
def snapPeer : State := { copyState with regions := snapState_.regions }
def snapX : TxXfer := ⟨14, 9, [], 1, some 0, .snapshot hd⟩
def snapAcked : State :=
  modPort 0 (fun q => { q with tx := [snapX], retry := [⟨0, []⟩], txSeq := 1 })
    { copyState with hif := { copyState.hif with accepted := [hd] },
                     upd := { copyState.upd with snaps := [⟨hd, snpPeer 2, none, none, [1, 2]⟩] } }
/-- An idle flit that acknowledges FSEQ `a`. -/
def ackFlit (a : Nat) : List Byte := flitBytes (flitHdrBytes ⟨0, 0, 0, a, true, false, false, false, 0, 0, 0, 5, 9⟩) []

theorem witness_SnapshotsAct :
    Recordable hd snapState_ ∧ snapBad snapState_ (snp 0 1 64) = true ∧ snapBad snapState_ (snp 1 2 64) = true ∧
    snapBad snapState_ (snp 2 1 63) = false ∧ (snp 2 1 63).dlen < (snapBytes snapState_ (snp 2 1 63)).length ∧
    snapBad snapState_ (snp 3 1 64) = false ∧ (snapBytes snapState_ (snp 3 1 64)).length ≤ (snp 3 1 64).dlen ∧ (snp 3 1 64).dest ≠ 1 ∧
    snapVersion (snp 3 1 64) = true ∧ (snapState_.region 0).pinned < (snapState_.region 0).pins ∧ snapVersion (snp 2 1 64) = false ∧
    (Recordable hd base ∧ snapBad { base with regions := (snapDone (some (0, 0))).regions } (snp 1 1 64) = false ∧
      (({ base with regions := [(0, { (snapDone (some (0, 0))).region 0 with pins := 1 })] } : State).region 0).pins ≤
        (({ base with regions := [(0, { (snapDone (some (0, 0))).region 0 with pins := 1 })] } : State).region 0).pinned) ∧
    (snapBad snapState_ (snpPeer 2) = false ∧ peerReady snapState_ 0 = false ∧ (snapBytes snapState_ (snpPeer 2)).length ≤ 64) ∧
    (Recordable hd snapPeer ∧ snapBad snapPeer (snpPeer 3) = false ∧ peerReady snapPeer 0 = true ∧ 0 < snapPeer.ports.length ∧
      (snapBytes snapPeer (snpPeer 3)).length ≤ 64 ∧ 0 < (snapBytes snapPeer (snpPeer 3)).length ∧
      (snapPeer.region 0).pinned < (snapPeer.region 0).pins) ∧
    (Recordable hd (snapDone none) ∧ (snapDone none).upd.snaps = [⟨hd, snp 2 1 64, none, none, [1, 2]⟩] ∧ NoJobs (snapDone none)) ∧
    (Recordable hd (snapDone (some (0, 0))) ∧ (snapDone (some (0, 0))).upd.snaps = [⟨hd, snp 2 1 64, none, some (0, 0), [1, 2]⟩] ∧
      NoJobs (snapDone (some (0, 0))) ∧ ((snapDone (some (0, 0))).region 0).slots[0]? = some ⟨1, .live, 0, 1, true, vsLo⟩ ∧
      ((snapDone (some (0, 0))).region 0).sharded = false ∧ ((snapDone (some (0, 0))).region 0).landed = []) ∧
    (Recordable hd snapAcked ∧ snapAcked.upd.snaps = [⟨hd, snpPeer 2, none, none, [1, 2]⟩] ∧ TablesOk snapAcked ∧
      (snapAcked.port 0).carrying = true ∧ (snapAcked.port 0).retrain = false ∧ (snapAcked.port 0).tx = [snapX] ∧
      (∀ q ∈ snapAcked.ports, ∀ y ∈ q.tx, y ≠ snapX → y.done ≠ .snapshot hd) ∧ (∀ q ∈ snapAcked.ports.drop 1, snapX ∉ q.tx) ∧
      FlitGood (ackFlit 0) ∧ (flitHdrOf (ackFlit 0)).ftype = 0 ∧ (flitHdrOf (ackFlit 0)).ackv = true ∧
      (flitHdrOf (ackFlit 0)).nak = false ∧ snapX.lastSeq = some (flitHdrOf (ackFlit 0)).ackseq ∧
      (∃ f ∈ (snapAcked.port 0).retry, f.fseq = (flitHdrOf (ackFlit 0)).ackseq)) := by
  and_intros <;> decide +kernel

/-- Address 0 is poisoned; a bank of base die 1 has seen 15 corrected errors of slice 9. -/
def eccState : State :=
  { base with poison := [0], bses := modNth (fun b => { b with banks := [(127, ⟨15, [], 254, [(9, 15)]⟩)] }) base.bses 1 }

theorem witness_MemoryErrorsAndCensusClearsAct :
    (base.live = true ∧ TablesOk base ∧ eccOf (.hdm 0) = some (0, 0x020, 1, 4) ∧ eccOf (.hdm (slowTop - 1)) = some (3, 0x024, 0, 9) ∧
      poisoned base 0 = false ∧ none ∈ base.glb.log ∧ eccState.live = true ∧ TablesOk eccState ∧ poisoned eccState 63 = true) ∧
    (eccOf (.opbuf 3 8) = some (3, 0x020, 3, 3) ∧ sramUnit (.opbuf 3 8) = some ((3, 1), 3 * 2 ^ 59 + 8) ∧
      base.sramPoison.contains (3, 1) = false ∧ (∃ e, eccOf (.updSram 0) = some e) ∧ (∃ e, eccOf (.staging 0) = some e)) ∧
    (bankOf (vsLo + 0x40000000 * 2 - 1) = some (1, 127) ∧ 1 < eccState.bses.length ∧ tabWf bankDefault (eccState.bse 1).banks = true ∧
      9 ≤ 9 ∧ 15 ≤ (tabFind (tabGet bankDefault (eccState.bse 1).banks 127).sliceCe 9).getD 0) ∧
    (3 < base.cmps.length ∧ 4095 < 4096 ∧ tabWf censusDefault (base.cmp 3).census = true ∧ tabWf loadDefault (base.cmp 3).load = true) := by
  and_intros <;> first | decide +kernel | exact base_tables | exact tablesOk_of (by decide +kernel) | exact ⟨_, rfl⟩

/-! ### Witnesses: flags -/

/-- Flag context 16 maps virtual flags 0 to 63 onto page 3 of the hub die: VBASE 0, DIE 4, PAGE 3, one page; `x` exports it. -/
def flagBase (x : Bool) : State :=
  let f : FlagMap := ⟨0, 1, 16, true, false, false, 0⟩
  { base with flg := { base.flg with maps := modNth (fun _ => f) base.flg.maps 16, store := [(0, 4 * 2 ^ 32 + b2n x * 2 ^ 35 + 3 * 2 ^ 40)],
                                     storeOwner := [(0, 16)], pageOwner := [(4 * 0x2000 + 3, 16)] } }
/-- Physical flag 3 × 64 + 63 of the hub die. -/
def k63 : Nat := 4 * 0x80000 + 255
/-- The last flag of the page holds `f`. -/
def flagState (x : Bool) (f : Flag) : State := setFlag k63 f (flagBase x)
/-- A wait on another flag. -/
def otherWait : Wait := ⟨.host hd 5, 16, 0, 4 * 0x80000 + 192, true, false⟩

theorem noSeqWait_flagState (x : Bool) (f : Flag) : NoSeqWait (flagState x f) := noSeqWait_of rfl
theorem noWaitOn_flagState (x : Bool) (f : Flag) : NoWaitOn k63 (flagState x f) := fun _ h => absurd h List.not_mem_nil

/-- Two host waits are held on the flag for 1, the second of which consumes, and a third for 0. -/
def waitsOn63 : State :=
  let s := flagState true ⟨false, 0⟩
  { s with flg := { s.flg with waits := [⟨.host ⟨0, 8, 2, false⟩ 5, 16, 63, k63, true, false⟩, ⟨.host ⟨0, 9, 3, false⟩ 0, 16, 63, k63, true, true⟩,
                                         ⟨.host ⟨0, 10, 4, false⟩ 0, 16, 63, k63, false, false⟩] } }
/-- Only the last of them is held. -/
def zeroOn63 : State :=
  let s := flagState true ⟨true, 0⟩
  { s with flg := { s.flg with waits := [⟨.host ⟨0, 10, 4, false⟩ 0, 16, 63, k63, false, false⟩] } }
/-- An FWAIT of context 2 waits for the flag. -/
def seqOn63 (con : Bool) : State :=
  let s := flagState true ⟨false, 0⟩
  modCtx 2 (fun c => { c with wait := some ⟨0, ⟨0, 1, 0, 0⟩, 0, ⟨true, false, con, false, 3, 16, 63, 0⟩, none⟩ })
    { s with flg := { s.flg with waits := [⟨.seq 2, 16, 63, k63, true, con⟩] } }

theorem witness_FlagReleasesAct :
    (Recordable hd waitsOn63 ∧ TablesOk waitsOn63 ∧ NoSeqWait waitsOn63 ∧ findFlag waitsOn63 16 63 = .at k63 true ∧
      (flagAt waitsOn63 k63).set = !true ∧ waitsOn63.flg.waits.find? (fun w => w.key == k63 && w.consume && w.val) =
        some ⟨.host ⟨0, 9, 3, false⟩ 0, 16, 63, k63, true, true⟩) ∧
    (∀ w ∈ waitsOn63.flg.waits, w.key = k63 → ∃ g us, w.who = .host g us ∧ Recordable g waitsOn63) ∧
    (Recordable hd zeroOn63 ∧ TablesOk zeroOn63 ∧ NoSeqWait zeroOn63 ∧ findFlag zeroOn63 16 63 = .at k63 true ∧
      (flagAt zeroOn63 k63).set = !false ∧ ∀ w ∈ zeroOn63.flg.waits, w.key = k63 → w.val = false → w.consume = false) ∧
    (∀ w ∈ zeroOn63.flg.waits, w.key = k63 → ∃ g us, w.who = .host g us ∧ Recordable g zeroOn63) ∧
    (Recordable hd (seqOn63 true) ∧ TablesOk (seqOn63 true) ∧ Sized (seqOn63 true) ∧ findFlag (seqOn63 true) 16 63 = .at k63 true ∧
      (flagAt (seqOn63 true) k63).set = !true ∧ ((seqOn63 true).flg.waits.filter fun w => w.key == k63) = [⟨.seq 2, 16, 63, k63, true, true⟩] ∧
      ((seqOn63 true).ctx 2).wait = some ⟨0, ⟨0, 1, 0, 0⟩, 0, ⟨true, false, true, false, 3, 16, 63, 0⟩, none⟩) ∧
    (∀ y, y ≠ 2 → ((seqOn63 true).ctx y).wait = none) := by
  and_intros <;> first
    | exact noSeqWait_of rfl | decide +kernel
    | (intro w h; have e : w ∈ [_, _, _] := h
       simp only [List.mem_cons, List.not_mem_nil, or_false] at e
       rcases e with rfl | rfl | rfl <;> exact fun _ => ⟨_, _, rfl, recordable_of (by decide +kernel)⟩)
    | (intro w h; have e : w ∈ [_] := h
       rw [List.mem_singleton.1 e]
       exact fun _ => ⟨_, _, rfl, recordable_of (by decide +kernel)⟩)
    | exact otherWaits_of (by decide +kernel)

theorem witness_FlagCommandsAct :
    (Recordable hd (flagState true ⟨false, 0⟩) ∧ TablesOk (flagState true ⟨false, 0⟩) ∧ NoSeqWait (flagState true ⟨false, 0⟩) ∧
      NoWaitOn k63 (flagState true ⟨false, 0⟩) ∧ findFlag (flagState true ⟨false, 0⟩) 16 63 = .at k63 true ∧
      (flagAt (flagState true ⟨false, 0⟩) k63).set = !true ∧ Recordable hd (flagState true ⟨true, 3⟩) ∧ TablesOk (flagState true ⟨true, 3⟩) ∧
      findFlag (flagState true ⟨true, 3⟩) 16 63 = .at k63 true ∧ (flagAt (flagState true ⟨true, 3⟩) k63).set = !false) ∧
    ((flagAt (flagState true ⟨true, 3⟩) k63).set = true ∧ (flagAt (flagState true ⟨true, 3⟩) k63).ovr ≠ 254 ∧
      (flagAt (flagState true ⟨true, 255⟩) k63).ovr ≠ 254) ∧
    (63 < (flagState true ⟨true, 3⟩).flg.maps.length ∧ findFlag (flagState true ⟨true, 3⟩) 16 64 = .unmapped ∧
      findFlag (modMap 63 (fun m => { m with poison := true }) (flagState true ⟨true, 3⟩)) 63 0 = .poisoned) := by
  and_intros <;> first
    | exact noSeqWait_flagState _ _ | exact noWaitOn_flagState _ _ | decide +kernel

/-- 1,024 host waits are held on another flag. -/
def fullWaits : State :=
  let s := flagState true ⟨true, 0⟩
  { s with flg := { s.flg with waits := List.replicate 1024 otherWait } }
/-- One host wait is held. -/
def oneWait : State :=
  let s := flagState true ⟨true, 0⟩
  { s with hif := { s.hif with accepted := [hd] }, flg := { s.flg with waits := [otherWait] } }
/-- Header of another command. -/
def hd2 : HostHdr := ⟨1 + 3, 8, 2, false⟩

theorem witness_FlagWaitsActAndEnd :
    (Recordable hd (flagState true ⟨true, 0⟩) ∧ TablesOk (flagState true ⟨true, 0⟩) ∧ NoSeqWait (flagState true ⟨true, 0⟩) ∧
      NoWaitOn k63 (flagState true ⟨true, 0⟩) ∧ findFlag (flagState true ⟨true, 0⟩) 16 63 = .at k63 true ∧
      hostWaits (flagState true ⟨true, 0⟩) < 1024 ∧ (flagAt (flagState true ⟨true, 0⟩) k63).set = true ∧
      (flagAt (flagState true ⟨false, 0⟩) k63).set = !true ∧ Recordable hd fullWaits ∧ TablesOk fullWaits ∧ NoSeqWait fullWaits ∧
      NoWaitOn k63 fullWaits ∧ findFlag fullWaits 16 63 = .at k63 true ∧ 1024 ≤ hostWaits fullWaits) ∧
    (Recordable hd2 oneWait ∧ Recordable hd oneWait ∧ otherWait.who = .host hd 5 ∧ oneWait.flg.waits.find? (hostTag 7) = some otherWait ∧
      oneWait.flg.waits.find? (hostTag 8) = none ∧ 5 ≠ 0 ∧ otherWait ∈ oneWait.flg.waits) ∧
    (∀ u ∈ oneWait.flg.waits, ∀ n, u.who = .host hd n → u = otherWait) := by
  and_intros <;> first
    | exact noSeqWait_flagState _ _ | exact noWaitOn_flagState _ _ | exact noSeqWait_of rfl | decide +kernel
    | exact tablesOk_of (by decide +kernel) | exact recordable_of (by decide +kernel)
    | (unfold NoWaitOn; decide +kernel) | (intro u h; exact fun _ _ => List.mem_singleton.1 h)

/-- Die ports 0 and 3 are up with every capability. -/
def dieUp (s : State) : State :=
  let f := fun q : DiePort => { q with up := true, cap := 0x7FF, maxlen := 64, credits := List.replicate 8 [4, 4, 4, 4],
                                       granted := List.replicate 8 [4, 4, 4, 4], owed := List.replicate 8 [0, 0, 0, 0] }
  { s with dies := modNth f (modNth f s.dies 0) 3 }
/-- A FLAG message of CD0 to the hub die. -/
def flagMsg (sub addr : Nat) : IxHdr := ⟨4, sub, 0, 8, 5, 15, 0, 0, addr, 0, 0, false, 0⟩

/-- The owner of the flag is lost. -/
def lostDie : State := modMap 16 (fun m => { m with poison := true }) (dieUp (flagState true ⟨false, 0⟩))

theorem witness_DirectAndDieFlagsAct :
    ((flagState true ⟨false, 0⟩).live = true ∧ TablesOk (flagState true ⟨false, 9⟩) ∧ findFlag (flagState true ⟨false, 9⟩) 16 63 = .at k63 true ∧
      (flagAt (flagState true ⟨false, 9⟩) k63).set = false ∧ (flagAt (flagState true ⟨true, 9⟩) k63).set = true) ∧
    ((dieUp (flagState true ⟨false, 0⟩)).awake = true ∧ TablesOk (dieUp (flagState true ⟨false, 0⟩)) ∧
      Comes 4 (flagMsg 1 255) [] (dieUp (flagState true ⟨false, 0⟩)) ∧ Comes 4 (flagMsg 4 255) [] (dieUp (flagState true ⟨true, 0⟩)) ∧
      NoSeqWait (dieUp (flagState true ⟨false, 0⟩)) ∧ NoWaitOn k63 (dieUp (flagState true ⟨false, 0⟩)) ∧
      bit (flagMsg 1 255).addr 39 = false ∧ physicalFlag (flagMsg 1 255) = some k63 ∧
      (flagAt (dieUp (flagState true ⟨false, 0⟩)) k63).set = !true ∧ bit (flagMsg 3 (2 ^ 36 + 255)).addr 36 = true ∧
      physicalFlag (flagMsg 3 (2 ^ 36 + 255)) = some k63 ∧ Comes 4 (flagMsg 5 0) [] (dieUp (flagState true ⟨false, 0⟩)) ∧
      Comes 4 (flagMsg 6 0) [] (dieUp (flagState true ⟨false, 0⟩)) ∧ openPort 8 0 = some 0 ∧
      ((dieUp (flagState true ⟨false, 0⟩)).map (nameOf (dieUp (flagState true ⟨false, 0⟩)) k63).1).poison = false ∧
      (Comes 4 (flagMsg 1 255) [] lostDie ∧ Comes 4 (flagMsg 3 255) [] lostDie ∧ TablesOk lostDie ∧ NoSeqWait lostDie ∧ NoWaitOn k63 lostDie ∧
        (tabFind lostDie.flg.pageOwner (k63 / 64)).isSome = true ∧ (nameOf lostDie k63).1 = 16 ∧ 16 < lostDie.flg.maps.length ∧
        (lostDie.map 16).poison = true ∧ agentPort 0 = some 0 ∧ creditsOf (lostDie.die 0).credits 0 2 ≠ 0)) := by
  and_intros <;> first
    | exact noSeqWait_of rfl | exact fun w h => absurd h List.not_mem_nil | decide +kernel

/-- Flag context 40 is not valid; its run is one entry at map-store place 4095, page 1023 of CD3. -/
def mapState (poison : Bool) : State :=
  let s := flagState true ⟨true, 0⟩
  let f : FlagMap := ⟨4095, 1, 0, false, poison, false, 0⟩
  { s with flg := { s.flg with maps := modNth (fun _ => f) s.flg.maps 40, store := s.flg.store ++ [(4095, 3 * 2 ^ 32 + 1023 * 2 ^ 40)] } }
/-- A host wait and a sequencer wait are held on flags of context 16. -/
def waitedMap : State :=
  let s := flagState true ⟨true, 0⟩
  modCtx 15 (fun c => { c with wait := some ⟨0, ⟨0, 1, 0, 0⟩, 0, ⟨true, false, false, false, 3, 16, 0, 0⟩, none⟩ })
    { s with hif := { s.hif with accepted := [hd] }, flg := { s.flg with waits := [otherWait, { otherWait with who := .seq 15 }] } }

theorem witness_FlagMapsAct :
    ((mapState false).live = true ∧ 40 < (mapState false).flg.maps.length ∧ driverMap 40 = true ∧ ((mapState false).map 40).valid = false ∧
      ((mapState false).map 40).poison = false ∧ runOk (mapRun (mapState false) 40) = true ∧
      runFree (mapState false) 40 ((mapState false).map 40).first (mapRun (mapState false) 40) = true ∧
      ((mapState false).map 40).first + ((mapState false).map 40).nent ≤ 4096 ∧ ((mapState true).map 40).poison = true) ∧
    (waitedMap.live = true ∧ driverMap 16 = true ∧ (waitedMap.map 16).valid = true ∧ otherWait ∈ waitedMap.flg.waits ∧
      otherWait.fctx = 16 ∧ Recordable hd waitedMap ∧ { otherWait with who := .seq 15 } ∈ waitedMap.flg.waits ∧
      (waitedMap.ctx 15).wait.isSome = true ∧ none ∈ base.glb.log ∧ ((flagState true ⟨true, 0⟩).map 16).valid = true ∧
      (∀ w ∈ (flagState true ⟨true, 0⟩).flg.waits, w.fctx ≠ 16)) := by
  and_intros <;> decide +kernel

/-- Port 15 carries with every capability; context 2 waits for the wake of wait tag 9; a remote wait with tag 4 is held; `recs`
wait for their fences. -/
def peerWith (recs : List (Nat × FlagRec)) (x : Bool) (f : Flag) : State :=
  let s := flagState x f
  let w : SeqWait := ⟨0, ⟨0, 1, 0, 0⟩, 0, ⟨true, false, true, false, 3, 16, 0, 0⟩, none⟩
  let q := fun q : Port => { q with state := .up, ncap := 0x3FFF, peerMod := 9, fences := [(0, 5, 0)], remoteWaits := 1,
                                    pendingRecs := recs }
  modCtx 2 (fun c => { c with wait := some w }) (modPort 15 q
    { s with flg := { s.flg with farWaits := [⟨15, 9, 9, 2⟩], waits := [{ otherWait with who := .remote 15 9 4 }] } })
def peerState : Bool → Flag → State := peerWith []
/-- The same with no FWAIT; with one fenced record waiting. -/
def peerQuiet (x : Bool) (f : Flag) : State := modCtx 2 (fun c => { c with wait := none }) (peerState x f)
def peerFenced (f : Flag) : State :=
  modCtx 2 (fun c => { c with wait := none }) (peerWith [(9, ⟨1, 0, 16, 63, true, false, 1, 5, 0⟩)] true f)
/-- The held wait is on the last flag, for 1. -/
def peerHeld : State :=
  let s := peerQuiet true ⟨false, 0⟩
  { s with flg := { s.flg with waits := [⟨.remote 15 9 4, 16, 63, k63, true, false⟩] } }
/-- The port has no token for a record. -/
def peerDry : State := regPut (oLnk 15 0x30) 0x40080100 (modPort 15 (fun q => { q with tokens := 0 }) (peerQuiet true ⟨false, 0⟩))
/-- A record of the last flag. -/
def frec (op : Nat) (fence : Bool) : FlagRec := ⟨op, 0, 16, 63, fence, false, 1, 5, 9⟩

theorem witness_RemoteFlagsAndWaitsAct :
    ((peerQuiet true ⟨false, 0⟩).live = true ∧ TablesOk (peerQuiet true ⟨false, 0⟩) ∧ ((peerQuiet true ⟨false, 0⟩).port 15).carrying = true ∧
      NoSeqWait (peerQuiet true ⟨false, 0⟩) ∧ NoWaitOn k63 (peerQuiet true ⟨false, 0⟩) ∧
      findFlag (peerQuiet true ⟨false, 0⟩) 16 63 = .at k63 true ∧ (frec 1 false).op = (if true then 1 else 2) ∧
      recordCaps 15 (frec 1 false) (peerQuiet true ⟨false, 0⟩) = true ∧ (tokenTake 15 (peerQuiet true ⟨false, 0⟩)).2 = true ∧
      (frec 1 false).fence = false ∧ (flagAt (peerQuiet true ⟨false, 0⟩) k63).set = !true ∧
      recordCaps 15 (frec 1 true) (peerQuiet true ⟨false, 0⟩) = true ∧ (frec 1 true).fence = true ∧
      ((peerQuiet true ⟨false, 0⟩).port 15).pendingRecs = [] ∧
      (TablesOk (peerFenced ⟨false, 0⟩) ∧ (peerFenced ⟨false, 0⟩).live = true ∧ ((peerFenced ⟨false, 0⟩).port 15).carrying = true ∧
        NoSeqWait (peerFenced ⟨false, 0⟩) ∧ NoWaitOn k63 (peerFenced ⟨false, 0⟩) ∧ findFlag (peerFenced ⟨false, 0⟩) 16 63 = .at k63 true ∧
        ((peerFenced ⟨false, 0⟩).port 15).pendingRecs = (9, ⟨1, 0, 16, 63, true, false, 1, 5, 0⟩) :: [] ∧
        fenceMet ((peerFenced ⟨false, 0⟩).port 15) ⟨1, 0, 16, 63, true, false, 1, 5, 0⟩ = true ∧
        (flagAt (peerFenced ⟨false, 0⟩) k63).set = !true) ∧
      (TablesOk peerDry ∧ (peerDry.port 15).carrying = true ∧ NoSeqWait peerDry ∧ NoWaitOn k63 peerDry ∧
        findFlag peerDry 16 63 = .at k63 true ∧ recordCaps 15 (frec 1 false) peerDry = true ∧ (tokenTake 15 peerDry).2 = false ∧
        fld peerDry (oLnk 15 0x30) 1 1 = 0) ∧
      fenceMet ((peerQuiet true ⟨false, 0⟩).port 15) ⟨1, 0, 16, 63, true, false, 1, 5, 0⟩ = true ∧
      fenceMet ((peerQuiet true ⟨false, 0⟩).port 15) ⟨1, 0, 16, 63, true, false, 3, 5, 0⟩ = false ∧
      fenceMet ((peerQuiet true ⟨false, 0⟩).port 15) ⟨1, 0, 16, 63, true, false, 1, 6, 0⟩ = false ∧
      findFlag (peerQuiet false ⟨false, 0⟩) 16 63 = .at k63 false ∧
      fld (regPut (oLnk 15 0x30) 0x40081000 (peerQuiet false ⟨false, 0⟩)) (oLnk 15 0x30) 1 1 = 0 ∧
      (tokenTake 15 (regPut (oLnk 15 0x30) 0x40081000 (peerQuiet false ⟨false, 0⟩))).2 = true ∧
      bit ((peerQuiet true ⟨false, 0⟩).port 15).ncap 5 = true) ∧
    (Sized (peerState true ⟨true, 0⟩) ∧ bit ((peerState true ⟨true, 0⟩).port 15).ncap 6 = true ∧ (frec 3 false).fence = false ∧
      ((peerState true ⟨true, 0⟩).port 15).pendingRecs = [] ∧ (tokenTake 15 (peerState true ⟨true, 0⟩)).2 = true ∧
      ((peerQuiet true ⟨false, 0⟩).port 15).remoteWaits < 256 ∧ (flagAt (peerQuiet true ⟨true, 0⟩) k63).set = true ∧
      (flagAt (peerQuiet true ⟨false, 0⟩) k63).set = !true ∧
      (peerState true ⟨true, 0⟩).flg.waits.find? (fun w => w.who == .remote 15 ((peerState true ⟨true, 0⟩).port 15).peerMod 4) =
        some { otherWait with who := .remote 15 9 4 } ∧
      (peerState true ⟨true, 0⟩).flg.farWaits.find? (fun f => f.port == 15 && f.mod == ((peerState true ⟨true, 0⟩).port 15).peerMod &&
        f.wtag == (frec 6 false).wtag) = some ⟨15, 9, 9, 2⟩ ∧
      2 < 16 ∧ (((peerState true ⟨true, 0⟩).ctx 2).wait).isSome = true ∧
      (∀ z, z ≠ 2 → ((peerState true ⟨true, 0⟩).ctx z).wait = none) ∧
      (peerHeld.live = true ∧ TablesOk peerHeld ∧ Sized peerHeld ∧ (peerHeld.port 15).carrying = true ∧ (peerHeld.port 15).pendingRecs = [] ∧
        (tokenTake 15 peerHeld).2 = true ∧ NoSeqWait peerHeld ∧ findFlag peerHeld 16 63 = .at k63 true ∧ (flagAt peerHeld k63).set = !true ∧
        (peerHeld.flg.waits.filter fun w => w.key == k63) = [⟨.remote 15 9 4, 16, 63, k63, true, false⟩] ∧ 15 < peerHeld.ports.length)) := by
  and_intros <;> first
    | exact noSeqWait_of rfl | exact otherWaits_of rfl | decide +kernel
    | exact tablesOk_of (by decide +kernel) | (unfold NoWaitOn; decide +kernel)

/-! Words of a program (R79, R138, R287). -/

/-- A tile instruction of 32 × 32 × 32: opcode, format of all operands, slots. -/
def tileWord (op fmt ta tb tc : Nat) : Nat :=
  op + (fmt + fmt * 2 ^ 4 + fmt * 2 ^ 8) * 2 ^ 16 + 2 ^ 40 + ta * 2 ^ 64 + tb * 2 ^ 80 + tc * 2 ^ 96
/-- A vector instruction: VOP, format of all operands, UNITS, SUB, ROWLEN, CST, slots. -/
def vecWord (vop fmt units sub rowlen cst ta tb tc td : Nat) : Nat :=
  vop + (fmt + fmt * 2 ^ 4 + fmt * 2 ^ 8) * 2 ^ 8 + units * 2 ^ 20 + sub * 2 ^ 24 + rowlen * 2 ^ 32 + cst * 2 ^ 56
    + ta * 2 ^ 64 + tb * 2 ^ 80 + tc * 2 ^ 96 + td * 2 ^ 112
/-- A local flag instruction on a virtual flag of context 16. -/
def flagWord (op v : Nat) : Nat := op + v * 2 ^ 32 + 16 * 2 ^ 56

/-- Slot 0 of step 1 on a context, F open. -/
def slot0 : SlotWork := { SlotWork.none with stamp := ⟨0, 1, 0, 0⟩, tokens := 32 }
/-- Context 15 runs a program of three instructions: flag, vector, flag. Destination 1 is module 9 behind port 15. -/
def progState (f : Flag) : State :=
  let s := flagState true f
  let img : Image := ⟨[[3, 1, 9, 0, 15, 4] ++ List.replicate 58 0], [], [], [], (0, 0), 0, 0, 0, 0⟩
  modCtx 15 (fun c => { c with state := .running, slots := [slot0],
                               pat := { c.pat with prog := [flagWord 0x10 63, vecWord 0x80 6 0 0 1 0 1 2 3 0, flagWord 0x10 63] } })
    (modPort 15 (fun q => { q with state := .up, ncap := 0x3FFF, peerMod := 9 }) { s with boot := { s.boot with image := some img } })
/-- The flag words of a local or a remote operation. -/
def fw (remote val consume : Bool) : FlagWords := ⟨val, consume, remote, false, 63, 16, 1, 0⟩

/-- The record of the first instruction, fenced or not, stands on VC15 of port 15, which has one credit. -/
def flagSends (fence : Bool) : State :=
  modCtx 15 (fun c => { c with remoteOps := [(0, 0, ⟨0, 1, 0, 0⟩)] })
    (modPort 15 (fun q => { q with avail := modNth (fun _ => 1) q.avail 15,
                                   ctl := [(2, 9, recBytes ⟨1, 0, 16, 63, fence, false, 0, 0, 0⟩, .flagOp 15 0 0 ⟨0, 1, 0, 0⟩)] })
      (regPut (oLnk 15 0x13C) 0x1000 (progState ⟨false, 0⟩)))
/-- Another fenced record waits for its markers on port 15. -/
def behindFence : State :=
  modPort 15 (fun q => { q with fenced := [⟨⟨1, 0, 16, 63, true, false, 1, 3, 0⟩, 9, true, .nothing⟩],
                                tx := [⟨0, 9, leBytes 32 7, 0, none, .marker 3⟩] }) (progState ⟨false, 0⟩)
/-- 32,767 fences are outstanding on port 15. -/
def fencesFull : State := modPort 15 (fun q => { q with tx := List.replicate 32767 ⟨15, 9, [], 1, none, .fenced⟩ }) (progState ⟨false, 0⟩)

theorem witness_FlagInstructionsAct :
    (progState ⟨false, 0⟩).live = true ∧ TablesOk (progState ⟨false, 0⟩) ∧ Sized (progState ⟨false, 0⟩) ∧ NoSeqWait (progState ⟨false, 0⟩) ∧
    flagPos (progState ⟨false, 0⟩) 15 ⟨0, 1, 0, 0⟩ 0 = some 0 ∧ isRemote (progState ⟨false, 0⟩) (fw false true false) = false ∧
    allDone (modCtx 15 (fun c => { c with issued := [⟨1, 1, .vec 0 (vecOf 0), ⟨0, 1, 0, 0⟩, [], [], true, Result.none⟩] }) (progState ⟨false, 0⟩)) 15 = false ∧
    flagPos (modCtx 15 (fun c => { c with issued := [⟨1, 1, .vec 0 (vecOf 0), ⟨0, 1, 0, 0⟩, [], [], true, Result.none⟩],
                                          slots := [{ slot0 with done := [(0, 0)] }] })
      (progState ⟨false, 0⟩)) 15 ⟨0, 1, 0, 0⟩ 2 = some 2 ∧
    findFlag (progState ⟨false, 0⟩) (fw false true false).fctx (fw false true false).vflag = .at k63 true ∧ NoWaitOn k63 (progState ⟨false, 0⟩) ∧
    allDone (progState ⟨false, 0⟩) 15 = true ∧ (flagAt (progState ⟨false, 0⟩) k63).set = !true ∧ GoesOn (progState ⟨false, 0⟩) 15 ⟨0, 1, 0, 0⟩ ∧
    ((fw false true true).fctx < 40 ∨ ((progState ⟨true, 0⟩).map (fw false true true).fctx).owner = 15) ∧
    (flagAt (progState ⟨true, 0⟩) k63).set = (fw false true true).val ∧ (flagAt (progState ⟨true, 0⟩) k63).set = !(fw false false false).val ∧
    isRemote (progState ⟨false, 0⟩) (fw true true false) = true ∧ destOf (progState ⟨false, 0⟩) (fw true true false).dest = some (15, 9, 4) ∧
    tempoLate ((progState ⟨false, 0⟩).ctx 15) 0 ⟨0, 1, 0, 0⟩ = false ∧ ((progState ⟨false, 0⟩).port 15).fencesOut < 32767 ∧
    (fencesFull.live = true ∧ TablesOk fencesFull ∧ Sized fencesFull ∧ NoSeqWait fencesFull ∧ flagPos fencesFull 15 ⟨0, 1, 0, 0⟩ 0 = some 0 ∧
      isRemote fencesFull { fw true true false with fence := true } = true ∧ destOf fencesFull (fw true true false).dest = some (15, 9, 4) ∧
      32767 ≤ (fencesFull.port 15).fencesOut) ∧
    ((flagSends true).live = true ∧ Sized (flagSends true) ∧ 15 < (flagSends true).ports.length ∧ ((flagSends true).port 15).carrying = true ∧
      ((flagSends true).port 15).retrain = false ∧ ((flagSends true).port 15).replayFrom = none ∧
      ((flagSends true).port 15).retry.length < 1024 ∧ maySend ((flagSends true).port 15).ncap (nth (0, 0, [], .nothing) ((flagSends true).port 15).ctl 0) = true ∧
      ((flagSends true).port 15).ctl = [(2, 9, recBytes ⟨1, 0, 16, 63, true, false, 0, 0, 0⟩, .flagOp 15 0 0 ⟨0, 1, 0, 0⟩)] ∧
      vcEnabled (flagSends true) 15 15 = true ∧ 0 < nth 0 ((flagSends true).port 15).avail 15 ∧
      ((flagSends true).ctx 15).remoteOps = [(0, 0, ⟨0, 1, 0, 0⟩)] ∧ GoesOn (flagSends true) 15 ⟨0, 1, 0, 0⟩) ∧
    (((progState ⟨false, 0⟩).port 15).fenced = [] ∧ bit ((progState ⟨false, 0⟩).port 15).ncap 5 = true ∧ (∃ v, v < 15 ∧ bit 0x4001 v = true) ∧
      (∀ v, v < 15 → bit 0x8000 v = false) ∧ (∀ y ∈ ((progState ⟨false, 0⟩).port 15).tx, y.done ≠ .marker 1)) ∧
    (behindFence.live = true ∧ TablesOk behindFence ∧ flagPos behindFence 15 ⟨0, 1, 0, 0⟩ 0 = some 0 ∧ (behindFence.port 15).fencesOut < 32767 ∧
      isRemote behindFence { fw true true false with fence := true } = true ∧
      (behindFence.port 15).fenced = ⟨⟨1, 0, 16, 63, true, false, 1, 3, 0⟩, 9, true, .nothing⟩ :: [] ∧
      markersLeft (behindFence.port 15) 3 = false) ∧
    15 < (progState ⟨false, 0⟩).ports.length ∧ (fw true true false).fence = false ∧ ((progState ⟨false, 0⟩).port 15).carrying = true ∧
    ((modPort 15 (fun q => { q with state := .down }) (progState ⟨false, 0⟩)).port 15).carrying = false := by
  and_intros <;> first
    | exact noSeqWait_of rfl | exact fun w h => absurd h List.not_mem_nil | decide +kernel

/-! ### Witnesses: steps and events -/

/-- Step 1 of epoch 7 has been accepted with eight micro-batches. -/
def stepState : State :=
  { base with str := { base.str with epoch := 7, valid := true, now := ⟨7, 1, 0, 0⟩, steps := [⟨7, 1, 8, 0x3F800000, [], []⟩] } }

/-- A STEP_COMMIT of step 1 waits. -/
def behindCommit : State := { stepState with upd := { stepState.upd with commits := [(hd, 1)] } }

theorem witness_StepsBegin :
    (Recordable hd base ∧ StepTurn base ∧ StepTurn stepState ∧ (0xFFFFFFFFFF = 0xFFFFFFFFFF ∨ 1 = 0 ∨ f32finite 0 = false ∨ (bit 0 31 = true ∧ 0 % 2 ^ 31 ≠ 0)) ∧
      f32finite 0x7F800000 = false ∧ (bit 0x80000001 31 = true ∧ 0x80000001 % 2 ^ 31 ≠ 0) ∧
      Recordable hd stepState ∧ (1 : Nat) ≠ 0xFFFFFFFFFF ∧ f32finite 0x7F7FFFFF = true ∧ bit 0x7F7FFFFF 31 = false ∧ stepState.str.valid = true ∧
      (∃ r ∈ stepState.str.steps, r.epoch = 7 ∧ r.step = 1) ∧
      (∀ r ∈ stepState.str.steps, ¬ (r.epoch = 7 ∧ r.step = 3)) ∧ stepState.upd.committed + 2 < 3 ∧ 0 < stepState.upd.committed + 1 ∧
      2 = base.upd.committed + 2 ∧ (∀ r ∈ base.str.steps, ¬ (r.epoch = 7 ∧ r.step = base.upd.committed + 1))) ∧
    (NoJobs base ∧ NoEntries base ∧ 1 = base.upd.committed + 1 ∧ base.str.valid = false ∧
      (NoJobs stepState ∧ NoEntries stepState ∧ (∀ r ∈ stepState.str.steps, ¬ (r.epoch = 7 ∧ r.step = 2)) ∧ 2 = stepState.upd.committed + 2 ∧
        (∃ r ∈ stepState.str.steps, r.epoch = 7 ∧ r.step = stepState.upd.committed + 1) ∧ 7 = stepState.str.epoch)) ∧
    (behindCommit.live = true ∧ behindCommit.hif.ctxJobs = [] ∧ behindCommit.hif.quiescing = false ∧ behindCommit.upd.commits ≠ [] ∧
      (∀ w ∈ behindCommit.upd.commits, w.2 ≠ 2) ∧ (2 ≠ behindCommit.upd.committed ∨ behindCommit.upd.rollbackOk = false)) := by
  and_intros <;> first
    | exact recordable_of (by decide +kernel) | exact noStuck_of (by decide +kernel) | exact entries_of (by decide +kernel) | decide +kernel

/-- The pass of step 1 is complete and READY; a version of it is PENDING. -/
def readyState : State :=
  let r : Region := ⟨0, 0, true, false, false, false, 2, 1, 0, false, false, [], [⟨0, .live, 1, 0, false, vsLo⟩, ⟨1, .pending, 0, 0, false, vsLo⟩]⟩
  { stepState with upd := { stepState.upd with ready := true, readyStep := 1 }, regions := [(0, r)] }
/-- The pass of step 1 runs; event slot 15 is armed for step 1. -/
def passState : State :=
  let s := regPut (oEvt 15 0) (2 ^ 16 + 0x1005) stepState
  { s with upd := { s.upd with pass := some ⟨1, 0⟩, statRows := [(1023, 8)] }, str := { s.str with evtStep := modNth (fun _ => 1) s.str.evtStep 15 } }
/-- Step 5 is committed and may be rolled back. -/
def rollState : State := { base with upd := { base.upd with committed := 5, rollbackOk := true } }
/-- Event slot 15 is armed for step 1 on a stamp that STR_NOW has reached. -/
def reachedState : State := regPut (oEvt 15 0) (2 ^ 16 + 1) passState
/-- A unit of the statistics of entry 1023 is poisoned. -/
def statState : State := { passState with sramPoison := [statUnit 1023 1 9] }
/-- Context 15 is loaded. -/
def loadedOne : State := modCtx 15 (fun c => { c with state := .loaded }) base

theorem witness_StepsEnd :
    (Recordable hd readyState ∧ StepTurn readyState ∧ StepTurn passState ∧ StepTurn base ∧ NoJobs reachedState ∧ NoJobs rollState ∧
      rollState.upd.commits = [] ∧ reachedState.upd.commits = [] ∧ (Recordable hd behindCommit ∧ TablesOk behindCommit ∧ NoJobs behindCommit ∧
        (∃ w ∈ behindCommit.upd.commits, w.2 = 1) ∧ 1 = behindCommit.upd.committed + 1) ∧ NoBatches readyState ∧ 0 = readyState.upd.committed ∧ 1 = readyState.upd.committed + 1 ∧
      readyState.upd.ready = true ∧ readyState.upd.readyStep = 1 ∧ (∀ e ∈ readyState.regions, e.2.sharded = false) ∧
      (readyState.region? 0 = some (readyState.region 0) ∧ (readyState.region 0).sharded = false ∧ (readyState.region 0).landed = [] ∧
        (⟨1, .pending, 0, 0, false, vsLo⟩ : VSlot) ∈ (readyState.region 0).slots ∧
        (∀ u ∈ (readyState.region 0).slots, u ≠ ⟨1, .pending, 0, 0, false, vsLo⟩ →
          u.state = .free ∨ (u.state = .live ∧ (u.dying = true ∨ genNewer 1 u.gen = true)))) ∧
      Recordable hd passState ∧ NoBatches passState ∧ 1 = passState.upd.committed + 1 ∧ ¬ (passState.upd.ready = true ∧ passState.upd.readyStep = 1) ∧
      (readyState.str.valid = true) ∧ updBusy passState = true ∧ (2 ≠ passState.upd.committed ∧ 2 ≠ passState.upd.committed + 1) ∧
      Recordable hd base ∧ NoBatches base ∧ ¬ (base.upd.ready = true ∧ base.upd.readyStep = 1) ∧ updBusy base = false) ∧
    (passState.live = true ∧ TablesOk passState ∧ fld passState (oEvt 15 0) 16 1 = 1 ∧ nth 0 passState.str.evtStep 15 = 1 ∧
      Recordable hd passState ∧ NoSeqWait passState ∧ NoOutgoing passState ∧ 15 < 16 ∧ eventTrue passState 15 = false ∧
      eventTrue reachedState 15 = true ∧ fld reachedState (oEvt 15 0) 16 1 = 1 ∧ Recordable hd reachedState ∧ TablesOk reachedState ∧
      nth 0 reachedState.str.evtStep 15 = reachedState.upd.committed + 1 ∧
      Recordable hd rollState ∧ TablesOk rollState ∧ 5 = rollState.upd.committed ∧ rollState.upd.rollbackOk = true ∧
      ¬ (0 = base.upd.committed ∧ base.upd.rollbackOk = true)) ∧
    (passState.live = true ∧ 2 ^ 40 - 1 < 2 ^ 40 ∧ (∀ c ∈ passState.ctxs, c.state = .empty) ∧
      tabFind passState.upd.statRows 1023 = some 8 ∧ passState.sramPoison = [] ∧
      (tabFind statState.upd.statRows 1023 = some 8 ∧ statUnit 1023 1 9 ∈ statState.sramPoison ∧
        (statLayout (uentry statState 1023) 8).1 + (statLayout (uentry statState 1023) 8).2 ≠ 0 ∧
        9 < (statLayout (uentry statState 1023) 8).1 + (statLayout (uentry statState 1023) 8).2 + 2) ∧ (∃ c ∈ loadedOne.ctxs, c.state ≠ .empty)) := by
  and_intros <;> first
    | exact recordable_of (by decide +kernel) | exact noStuck_of (by decide +kernel) | exact batches_of (by decide +kernel) | decide +kernel
    | exact noSeqWait_of rfl | exact noOutgoing_of (by decide +kernel) | exact List.mem_singleton.2 rfl

/-- Event slot 15: armed for a committed step, with actions; its flag is the last one of context 16. -/
def evtState (act : Nat) : State :=
  regPut (oEvt 15 12) (63 + 16 * 2 ^ 24) (regPut (oEvt 15 0) (2 ^ 16 + 5 + act * 2 ^ 12) (flagState true ⟨false, 0⟩))
theorem noSeqWait_evtState (act : Nat) : NoSeqWait (evtState act) := noSeqWait_of rfl

theorem witness_EventSlotsArmAndFire :
    (base.live = true ∧ TablesOk base ∧ base.str.evtStep.length = 16 ∧ fld base (oEvt 15 0) 16 1 = 0 ∧
      (1 ≤ bits (0x3FF5 : Word).toNat 0 4 ∧ bits (0x3FF5 : Word).toNat 0 4 ≤ 5 ∧
        ¬ (bits (0x3FF5 : Word).toNat 0 4 = 4 ∧ 5 < fld base (oEvt 15 8) 0 3)) ∧
      5 < bits (0x3FF6 : Word).toNat 0 4 ∧ bits (0 : Word).toNat 0 4 = 0 ∧
      (evtState 1).live = true ∧ TablesOk (evtState 1) ∧ (evtState 1).str.evtStep.length = 16 ∧ fld (evtState 1) (oEvt 15 0) 16 1 = 1 ∧
      bit (0 : Word).toNat 17 = false ∧ bit (0 : Word).toNat 18 = false) ∧
    (NoSeqWait (evtState 1) ∧ eventTrue (evtState 1) 15 = true ∧ fld (evtState 1) (oEvt 15 0) 13 1 = 0 ∧
      fld (evtState 1) (oEvt 15 0) 12 1 = 1 ∧ (evtState 2).live = true ∧ TablesOk (evtState 2) ∧ NoSeqWait (evtState 2) ∧
      fld (evtState 2) (oEvt 15 0) 16 1 = 1 ∧ eventTrue (evtState 2) 15 = true ∧ fld (evtState 2) (oEvt 15 0) 13 1 = 1 ∧
      findFlag (evtState 2) (fld (evtState 2) (oEvt 15 12) 24 6) (fld (evtState 2) (oEvt 15 12) 0 24) = .at k63 true ∧
      NoWaitOn k63 (evtState 2) ∧ (flagAt (evtState 2) k63).set = false ∧ ¬ (fld base (oEvt 15 0) 16 1 = 1 ∧ eventTrue base 15 = true) ∧
      NoSeqWait base) := by
  and_intros <;> first
    | exact noSeqWait_evtState _ | exact noSeqWait_of rfl | decide +kernel | exact base_tables | exact tablesOk_of (by decide +kernel)
    | exact fun w h => absurd h List.not_mem_nil

/-! ### Witnesses: Pattern load and contexts -/

/-- Public key of the private key 1 (FIPS 186-5: the base point). -/
def key1 : List Byte := [4] ++ beBytes 48 g384.1 ++ beBytes 48 g384.2
/-- A message with its signature under private key 1 and per-message secret 1: r = x(G) mod n, s = e + r. -/
def signed (m : List Byte) : List Byte :=
  m ++ leBytes 48 (g384.1 % n384) ++ leBytes 48 ((beNat (sha384 m) + g384.1) % n384)

/-- A Pattern image of one VRAND (R245, R248): header, declaration, three section-table entries, the sections. -/
def imgBytes : List Byte :=
  let word := leBytes 4
  let sect := fun ty off bytes count => word ty ++ word off ++ word bytes ++ word count
  let header := word 0x4E545031 ++ word 0x10000 ++ word 384 ++ word 0 ++ word 0 ++ word 3 ++ word 0 ++ List.replicate 36 0
  let decl := word 4 ++ word 0 ++ word 0 ++ word 3 ++ List.replicate 20 0 ++ word 1 ++ word 1 ++ word 1 ++ List.replicate 16 0
  let prog := leBytes 16 (vecWord 0xB0 6 0 0 1 0 0 0 1 0)
  let desc := leBytes 32 (6 * 2 ^ 32 + 2 ^ 160 + 2 ^ 192 + 0xFFFF * 2 ^ 240)
  let sched := leBytes 12 (0x60 + 2 ^ 64)
  signed (padTo 288 (header ++ decl ++ sect 1 176 16 1 ++ sect 3 192 32 1 ++ sect 7 224 12 1 ++ prog ++ desc ++ sched))

/-- The configuration image enrols key 1 and maps context 15: no neighbour, entries from the host. -/
def loadState (b : List Byte) : State :=
  let img : Image := ⟨[[4, 15, 0xFF, 0xFF, 0xFE] ++ List.replicate 59 0], [], [key1], [], (0, 0), 0, 0, 0, 0⟩
  { base with boot := { base.boot with image := some img }, hdm := (upto b.length).filterMap fun i =>
      let c := nth 0 b i
      if c = 0 then none else some (0x1000 + i, c) }

theorem witness_PatternLoadActs :
    Recordable hd (loadState imgBytes) ∧ Sized (loadState imgBytes) ∧ NoJobs (loadState imgBytes) ∧ NoJobs (loadState []) ∧
    (loadState imgBytes).boot.session = none ∧
    (vet (loadState imgBytes) 15 0x1000 0 0x200000 0).status = stOk ∧ (vet (loadState []) 15 0x1000 0 0x200000 0).status ≠ stOk ∧
    Recordable hd (loadState []) ∧ Sized (loadState []) ∧ 1 % 64 ≠ 0 ∧ fastTop < fastTop - 256 + 320 := by
  and_intros <;> decide +kernel

theorem sum_zero (l : List Nat) (f : Nat → Nat) (a : ∀ y, f y = 0) : sumNat (l.map f) = 0 := by
  suffices h : ∀ n, (l.map f).foldl (· + ·) n = n from h 0
  induction l with
  | nil => exact fun _ => rfl
  | cons y t ih => exact fun n => by rw [List.map_cons, List.foldl_cons, a y]; exact ih n

theorem enough_of {s : State} (a : (s.ctxs.all fun c => c.need 0 == 0 && c.need 1 == 0) = true) : Enough s := by
  intro d e he
  have z : ∀ y, (s.ctx y).need e = 0 := fun y => by
    have k := nth_all Ctx.none (fun c => c.need 0 == 0 && c.need 1 == 0) rfl s.ctxs a y
    simp only [Bool.and_eq_true, beq_iff_eq] at k
    have : e = 0 ∨ e = 1 := by omega
    rcases this with rfl | rfl
    · exact k.1
    · exact k.2
  rw [sum_zero _ _ z]; exact Nat.zero_le _

/-- Context 15 in a state, with a slot, a pair, an entry and a flag map of one page; its producer is context 4 of module 9 behind port 3. -/
def ctxState (st : CtxState) : State :=
  let img : Image := ⟨[[4, 15, 1, 0xFF, 1] ++ List.replicate 59 0, [3, 1, 9, 0, 3, 4] ++ List.replicate 58 0], [], [], [], (0, 0), 0, 0, 0, 0⟩
  let aq : Queue := { Queue.none with depth := 4, nbuf := 3, bufBytes := 64, base := 0x20000, entries := [⟨⟨⟨0, 1, 0, 0⟩, 0, 0x21, 32, 0, 64, 2, 15, 0⟩, false⟩], free := [1, 0] }
  let s := flagState true ⟨true, 0⟩
  modCtx 15 (fun c => { c with state := st, die := 3, slots := [slot0], pairs := [⟨⟨0, 1, 0, 0⟩, 0, [], [], none⟩], regionBase := [7], aq := aq })
    { s with boot := { s.boot with image := some img }, bindings := [⟨⟨0, 1, 0, 0⟩, 15, 7, 1⟩], regions := [(7, (snapState_.region 0))],
             flg := { s.flg with maps := modNth (fun m => { m with first := 9, nent := 1, valid := true }) s.flg.maps 15,
                                 pageOwner := s.flg.pageOwner ++ [(99999, 15)] } }
/-- Flag context 15 is poisoned. -/
def ctxPoison : State := modMap 15 (fun m => { m with poison := true }) (ctxState .loaded)
/-- A die port has failed while the module ran. -/
def ctxAlone : State := { ctxState .loaded with glb := { (ctxState .loaded).glb with dieFail := true } }
/-- Context 15 with one instruction issued. -/
def ctxBusy : State :=
  modCtx 15 (fun c => { c with issued := [⟨0, 0, .vec 0x80 (vecOf 0), ⟨0, 1, 0, 0⟩, [], [], true, Result.none⟩] }) (ctxState .running)

theorem noJobs_ctxState (st : CtxState) : NoJobs (ctxState st) := ⟨rfl, rfl, rfl, rfl⟩
theorem noSeqWait_ctxState (st : CtxState) : NoSeqWait (ctxState st) := noSeqWait_of rfl

theorem witness_ContextsStart :
    (Recordable hd (ctxState .loaded) ∧ Sized (ctxState .loaded) ∧ NoJobs (ctxState .loaded) ∧ NoBatches (ctxState .loaded) ∧
      ((ctxState .loaded).ctx 15).state = .loaded ∧ ((ctxState .loaded).map 15).poison = false ∧ startShort (ctxState .loaded) 15 = false ∧
      (∀ e, e < 2 → sumNat ((holders (ctxState .loaded) ((ctxState .loaded).ctx 15).die).map fun y => ((ctxState .loaded).ctx y).need e)
        + ((ctxState .loaded).ctx 15).need e ≤ ((ctxState .loaded).cmp ((ctxState .loaded).ctx 15).die).active e) ∧
      NoOutgoing (ctxState .loaded) ∧ (ctxState .loaded).glb.dieFail = false ∧ ((ctxState .loaded).ctx 15).aq.free.Nodup ∧
      (Recordable hd ctxAlone ∧ Sized ctxAlone ∧ NoJobs ctxAlone ∧ NoBatches ctxAlone ∧ (ctxAlone.ctx 15).state = .loaded ∧
        ctxAlone.glb.dieFail = true) ∧ ctxPoison.glb.dieFail = false ∧ NoBatches (ctxState .running) ∧
      Recordable hd ctxPoison ∧ Sized ctxPoison ∧ NoJobs ctxPoison ∧ NoBatches ctxPoison ∧ (ctxPoison.ctx 15).state = .loaded ∧
      (ctxPoison.map 15).poison = true ∧ Recordable hd (ctxState .running) ∧ ((ctxState .running).ctx 15).state ≠ .loaded) ∧
    (producerOf (ctxState .loaded) 15 0 = .away 3 9 4 ∧ grantable ((ctxState .loaded).ctx 15).aq = 2) := by
  and_intros <;> first
    | exact noStuck_of (by decide +kernel) | exact batches_of (by decide +kernel) | exact noOutgoing_of (by decide +kernel) | decide +kernel

/-- A CONTEXT_RESUME waits behind a CONTEXT_PREEMPT of context 15. -/
def laterState : State :=
  let s := ctxState .running
  { s with hif := { s.hif with ctxJobs := [⟨15, .preempt, false, some hd⟩, ⟨15, .later (.contextResume hd 15), false, some hd⟩] } }

theorem witness_ContextsPreemptAndResume :
    (Recordable hd (ctxState .running) ∧ Sized (ctxState .running) ∧ NoJobs (ctxState .running) ∧ NoSeqWait (ctxState .running) ∧
      ((ctxState .running).ctx 15).state = .running ∧ allDone (ctxState .running) 15 = true ∧
      Recordable hd ctxBusy ∧ Sized ctxBusy ∧ NoJobs ctxBusy ∧ NoSeqWait ctxBusy ∧ (ctxBusy.ctx 15).state = .running ∧ allDone ctxBusy 15 = false ∧
      ((ctxState .preempted).ctx 15).state = .preempted ∧ Recordable hd (ctxState .preempted) ∧ NoSeqWait (ctxState .preempted) ∧
      ((ctxState .stopped).ctx 15).state ≠ .running ∧ ((ctxState .stopped).ctx 15).state ≠ .preempted) ∧
    ((ctxState .running).live = true ∧ (ctxState .running).hif.fences = [] ∧ NoBatches (ctxState .preempted) ∧
      NoOutgoing (ctxState .preempted) ∧ ((ctxState .preempted).ctx 15).pat.seqd = none) ∧
    (Enough (ctxState .preempted) ∧ Enough (ctxState .running) ∧ Enough (ctxState .stopped)) ∧
    (laterState.live = true ∧ (∃ j ∈ laterState.hif.ctxJobs, j.x = 15 ∧ j.h.isSome = true) ∧ Sized laterState ∧ NoSeqWait laterState ∧
      Enough laterState ∧ NoBatches laterState ∧ NoOutgoing laterState ∧ (laterState.ctx 15).pat.seqd = none ∧
      laterState.hif.quiescing = false ∧ laterState.upd.stepWait = [] ∧ laterState.boot.delayedLoads = [] ∧
      laterState.hif.ctxJobs = [⟨15, .preempt, false, some hd⟩, ⟨15, .later (.contextResume hd 15), false, some hd⟩] ∧
      (laterState.ctx 15).state = .running ∧ (laterState.ctx 15).issued = [] ∧ (laterState.ctx 15).chain = none) := by
  and_intros <;> first
    | exact noSeqWait_ctxState _ | exact noSeqWait_of rfl | decide +kernel | exact recordable_of (by decide +kernel)
    | exact enough_of (by decide +kernel) | exact noStuck_of (by decide +kernel) | exact batches_of (by decide +kernel) | exact noOutgoing_of (by decide +kernel)

/-- A snapshot pins region 7. -/
def ctxPin : State := modCtx 15 (fun c => c) { ctxState .loaded with
  regions := [(7, { (snapState_.region 0) with ctx := 15, slots := [⟨1, .live, 0, 1, false, vsLo⟩] })] }

/-- Context 15 has granted buffer 2 to its producer, and no entry stands in its queue. -/
def grantedState : State := modCtx 15 (fun c => { c with aq := { c.aq with entries := [], granted := [2] } }) (ctxState .running)

theorem witness_ContextsResetAndUnload :
    ((ctxState .running).live = true ∧ TablesOk (ctxState .running) ∧ Sized (ctxState .running) ∧ NoJobs (ctxState .running) ∧
      ((ctxState .running).ctx 15).state ≠ .empty ∧ ((ctxState .stopped).ctx 15).state ≠ .empty) ∧
    ((grantedState.live = true ∧ TablesOk grantedState ∧ Sized grantedState ∧ NoJobs grantedState ∧ (grantedState.ctx 15).state ≠ .empty) ∧
      2 ∈ (grantedState.ctx 15).aq.granted ∧ (grantedState.ctx 15).aq.entries = []) ∧
    (ctxPinned (ctxState .running) 15 = false ∧ ctxPin.live = true ∧ Sized ctxPin ∧ NoJobs ctxPin ∧ (ctxPin.ctx 15).state ≠ .empty ∧
      ctxPinned ctxPin 15 = true) ∧
    (Recordable hd base ∧ (base.ctx 15).state = .empty ∧ NoJobs base ∧ base.hif.fences = [] ∧ findIdxN (·.isNone) base.glb.log 0 = some 0) := by
  and_intros <;> decide +kernel

/-- Context 15 waits: it runs with a slot in flight; both limits are set. -/
def waitState : State := regPut (oAnt 0) 0x00100001 (ctxState .running)

/-- The wait has been reported. -/
def warnedState : State := modCtx 15 (fun c => { c with warned := true }) waitState

theorem witness_QuiesceAndWaitLimitsAct :
    ((Recordable hd (ctxState .running) ∧ Sized (ctxState .running) ∧ NoJobs (ctxState .running) ∧ (ctxState .running).hif.quiesceJobs = [] ∧
        NoSeqWait (ctxState .running) ∧ (ctxState .running).upd.pass = none ∧
        (∀ x, ((ctxState .running).ctx x).state = .running → allDone (ctxState .running) x = true)) ∧
      Enough (ctxState .running) ∧ NoBatches (ctxState .running) ∧ NoOutgoing (ctxState .running)) ∧
    (waitState.live = true ∧ TablesOk waitState ∧ Sized waitState ∧ NoJobs waitState ∧ isWaiting waitState 15 = true ∧
      fld waitState (oAnt 0) 0 16 ≠ 0 ∧ (waitState.ctx 15).warned = false ∧ fld waitState (oAnt 0) 16 16 ≠ 0 ∧
      isWaiting (ctxState .preempted) 15 = false ∧ (ctxState .preempted).live = true ∧ TablesOk (ctxState .preempted)) ∧
    (warnedState.live = true ∧ TablesOk warnedState ∧ isWaiting warnedState 15 = true ∧ (warnedState.ctx 15).warned = true) ∧
    (fld (regPut (oAnt 0) 0 (ctxState .running)) (oAnt 0) 0 16 = 0 ∧ fld (regPut (oAnt 0) 0 (ctxState .running)) (oAnt 0) 16 16 = 0 ∧
      TablesOk (regPut (oAnt 0) 0 (ctxState .running))) := by
  and_intros <;> first
    | exact noSeqWait_ctxState _ | decide +kernel | exact recordable_of (by decide +kernel) | exact enough_of (by decide +kernel)
    | exact tablesOk_of (by decide +kernel)
    | exact noStuck_of (by decide +kernel) | exact batches_of (by decide +kernel) | exact noOutgoing_of (by decide +kernel)
    | (intro x _; have k := nth_all Ctx.none (fun c => c.issued.isEmpty && c.chain.isNone && c.remoteOps.isEmpty) rfl
         (ctxState .running).ctxs (by decide +kernel) x
       exact k)

/-! ### Witnesses: sequencers -/

/-- A descriptor of 32 × 32 BF16 elements: KIND, the words of its place, region. -/
def descWord (kind place region : Nat) : Nat :=
  kind * 2 ^ 24 + 3 * 2 ^ 32 + place * 2 ^ 64 + 32 * 2 ^ 160 + 32 * 2 ^ 192 + region * 2 ^ 240
/-- The program: two products of F, one of B, one of W, in BF16; pairs are those of the second product. -/
def workPat : Pattern :=
  { Pattern.none with
    prog := [tileWord 1 3 1 2 3, tileWord 1 3 3 2 9, tileWord 2 3 4 2 5 + 2 ^ 11, tileWord 3 3 6 7 8 + 2 ^ 11],
    tempo := [1, 3, 5, 7],
    descs := [descWord 0 0x10000 0xFFFF, descWord 0 0x11000 0xFFFF, descWord 0 0x12000 0xFFFF, descWord 2 1 0xFFFF, descWord 0 0x13000 0xFFFF,
      descWord 3 1 0, descWord 3 (1 + 2 ^ 16) 0, descWord 1 (2 ^ 16) 0, descWord 0 0x14000 0xFFFF],
    policies := [1], sched := 0x11 + 4 * 2 ^ 64,
    decl := 4 + 2 ^ 8 + 2 ^ 12 + 2 ^ 16 + 2 ^ 21 + 1000 * 2 ^ 256 }
/-- The arrays of a die after a self-test that all have passed (R97). -/
def goodDie : Cmp := selfTest [] Cmp.reset
/-- Context 15 on die 3 runs the program in step 1 of one micro-batch, with one region. -/
def workBase : State :=
  let s := { base with cmps := List.replicate 4 goodDie, str := { base.str with valid := true, steps := [⟨0, 1, 1, 0, [], []⟩] },
                       regions := [(7, ⟨15, 0, true, false, false, false, 2, 1, 0, false, false, [], [⟨0, .live, 0, 0, false, vsLo⟩]⟩)] }
  modCtx 15 (fun c => { c with state := .running, die := 3, pat := workPat, fastBase := 0x10000000, regionBase := [7] }) s
/-- The same with context 15 changed. -/
def work (f : Ctx → Ctx) : State := modCtx 15 f workBase
/-- The stamp of slot 0 in a phase. -/
def st0 (ph : Nat) : Stamp := ⟨0, 1, 0, ph⟩
/-- The tile words of the program. -/
def tw (i : Nat) : TileWords := tileOf (nth 0 workPat.prog i)
/-- The first product, issued; `r` is its result. -/
def first0 (r : Result) : Issued := ⟨0, 0, .tile 1 (tw 0), st0 phF, [0], [], true, r⟩
/-- A result of two bytes in a tensor and a non-finite element of slot 3. -/
def res0 : Result := { Result.none with writes := [(0x12000, [1, 2])], bad := [(3, 5, 6, 1)] }
/-- F of slot 0 is open: nothing issued, or the first product issued. -/
def openF : State := work fun c => { c with slots := [slot0] }
def oneF : State := work fun c => { c with slots := [slot0], issued := [first0 res0] }
/-- A chain of context 14 holds the array. -/
def noneF : State := modCtx 14 (fun c => { c with state := .loaded, die := 3, chain := some ⟨[], [], [0]⟩ }) openF
/-- W of the window runs; its TMM_W holds the chain and has started. -/
def holdW : Issued := ⟨3, 0, .tile 3 { tw 3 with hold := true }, st0 phW, [32], [], true, { Result.none with acc := [7] }⟩
def oneW : State := work fun c => { c with wActive := some (1, 0), issued := [holdW] }

theorem witness_InstructionsIssueAndComplete :
    (openF.live = true ∧ Sized openF ∧ seqRow 15 (st0 phF) 0 (.tile 1 (tw 0)) = some (.tmmF 15 (st0 phF) 0 (tw 0)) ∧
      tempoOpen (openF.ctx 15) 0 (st0 phF) = true ∧ issuePos openF 15 (st0 phF) 0 = some 0 ∧ mayIssue openF 15 = true ∧
      issueArrays openF 15 (st0 phF) 0 0 (.tile 1 (tw 0)) = some [0] ∧ tempoLate (openF.ctx 15) 0 (st0 phF) = false ∧
      demotedOperands openF (atOf openF 15 (st0 phF)) 0 (.tile 1 (tw 0)) = [] ∧ (∀ v, Work.tile 1 (tw 0) = .tile 3 v → wHeldBack openF 15 v = false) ∧
      (∀ j ∈ (openF.ctx 15).issued, j.started = true) ∧ startsNow 15 ⟨0, 0, .tile 1 (tw 0), st0 phF, [0], [], false, Result.none⟩ openF = true ∧
      (oneF.live = true ∧ Sized oneF ∧ tempoOpen (oneF.ctx 15) 1 (st0 phF) = true ∧ issuePos oneF 15 (st0 phF) 1 = some 1 ∧ mayIssue oneF 15 = true ∧
        issueArrays oneF 15 (st0 phF) 1 1 (.tile 1 (tw 1)) = some [0] ∧ tempoLate (oneF.ctx 15) 1 (st0 phF) = false ∧ (∀ j ∈ (oneF.ctx 15).issued, j.started = true) ∧
        startsNow 15 ⟨1, 1, .tile 1 (tw 1), st0 phF, [0], [], false, Result.none⟩ oneF = false) ∧
      issuePos openF 15 (st0 phF) 1 = none ∧ issueArrays noneF 15 (st0 phF) 0 0 (.tile 1 (tw 0)) = none ∧ ((ctxState .preempted).ctx 15).state ≠ .running ∧
      seqRow 15 (st0 phF) 1 (.vec 0xB1 (vecOf 0)) = some (.vdrop 15 (st0 phF) 1 (vecOf 0))) ∧
    (TablesOk oneF ∧ NoJobs oneF ∧ NoBatches oneF ∧ (oneF.ctx 15).pat.seqd = none ∧ NoBatches oneW ∧ NoOutgoing oneW ∧
      (oneF.ctx 15).issued.find? (fun i => i.idx == 0 && i.stamp == st0 phF && i.started) = some (first0 res0) ∧ GoesOn oneF 15 (st0 phF) ∧
      (∀ v, (first0 res0).work ≠ .tile 3 v) ∧ (first0 res0).result.bad = (3, 5, 6, 1) :: [] ∧ (oneF.ctx 15).die < oneF.cmps.length ∧
      fld oneF (oCmp (oneF.ctx 15).die 0x200) 0 1 = 0 ∧
      (oneW.live = true ∧ TablesOk oneW ∧ Sized oneW ∧ NoJobs oneW ∧
        (oneW.ctx 15).issued.find? (fun i => i.idx == 3 && i.stamp == st0 phW && i.started) = some holdW ∧ (st0 phW).phase = phW ∧
        ({ tw 3 with hold := true } : TileWords).hold = true) ∧
      (openF.ctx 15).issued.find? (fun i => i.idx == 0 && i.stamp == st0 phF && i.started) = none) := by
  and_intros <;> first
    | decide +kernel | exact noStuck_of (by decide +kernel) | exact batches_of (by decide +kernel) | exact noOutgoing_of (by decide +kernel)
    | exact fun _ h => absurd (Work.tile.inj h).1 (by decide)

/-- An activation entry and a gradient entry of slot 0. -/
def aEntry : QEntry := ⟨⟨st0 phF, 0, 3, 1, 0, 64, 2, 15, 0⟩, false⟩
def gEntry : QEntry := ⟨⟨st0 phB, 1, 3, 1, 5, 64, 1, 15, 1⟩, false⟩
/-- An entry waits for F. -/
def fState : State := work fun c => { c with aq := { Queue.none with depth := 4, nbuf := 4, bufBytes := 64, entries := [aEntry] } }
/-- F of slot 0 is done and its gradient entry has come; X is done or not. -/
def backState (xDone : Bool) : State :=
  work fun c => { c with slots := [{ slot0 with fDone := true, xStarted := xDone, xDone := xDone }],
                         gq := { Queue.none with depth := 4, nbuf := 4, bufBytes := 64, entries := [gEntry] } }
/-- B of slot 0 is done, so its window is whole. -/
def wState : State := work fun c => { c with slots := [{ slot0 with fDone := true, xStarted := true, xDone := true, bStarted := true, bDone := true }] }

/-- Two contexts of an interleaved group on one die, stages 0 and 1, whose X, or whose B, can start. -/
def mates (xDone : Bool) : State :=
  let s := backState xDone
  let c := fun k => { s.ctx 15 with pat := { (s.ctx 15).pat with sched := 2 + 0x10 + k * 2 ^ 8 + 4 * 2 ^ 64 } }
  modCtx 14 (fun _ => c 1) (modCtx 15 (fun _ => c 0) s)

theorem witness_PhasesStart :
    (fState.live = true ∧ Sized fState ∧ fCandidate fState 15 = some (aEntry, st0 phF) ∧ fReady fState 15 aEntry (st0 phF) = true ∧
      fYields fState 15 (st0 phF) = false ∧ (fState.ctx 15).phaseList phF ≠ [] ∧ slotRec? fState 15 (st0 phF) = none ∧
      bindGen fState 15 (st0 phF) 7 = some 0 ∧ (fState.ctx 15).pat.seqd = none ∧ NoBatches fState ∧ NoOutgoing fState ∧
      (∀ e st, fCandidate base 15 = some (e, st) → fReady base 15 e st = false ∨ fYields base 15 st = true)) ∧
    ((backState false).live = true ∧ Sized (backState false) ∧ ((backState false).ctx 15).state = .running ∧ preempting (backState false) 15 = false ∧
      slotRec? (backState false) 15 (st0 phF) = some { slot0 with fDone := true, xStarted := false, xDone := false } ∧
      (bCandidate (backState false) 15).map (·.stamp) = some (slotOf (st0 phF)) ∧
      (∃ key fwd, nextBack (backState false) 15 = some (key, true, fwd) ∧ mateFirst (backState false) 15 key fwd = false) ∧
      NoBatches (backState false) ∧ NoOutgoing (backState false) ∧ ((backState false).ctx 15).pat.seqd = none ∧
      (({ slot0 with fDone := true } : SlotWork).done.filter fun d => d.1 == phX).length < (((backState false).ctx 15).phaseList phX).length ∧
      (bCandidate (backState true) 15 = some { slot0 with fDone := true, xStarted := true, xDone := true } ∧
        gradEntry ((backState true).ctx 15) (st0 phF) = some gEntry ∧ NoBatches (backState true) ∧ NoOutgoing (backState true) ∧
        (∃ key fwd, nextBack (backState true) 15 = some (key, false, fwd) ∧ mateFirst (backState true) 15 key fwd = false) ∧
        slotRec? (backState true) 15 (st0 phF) = some { slot0 with fDone := true, xStarted := true, xDone := true } ∧
        (({ slot0 with fDone := true } : SlotWork).done.filter fun d => d.1 == phB).length < (((backState true).ctx 15).phaseList phB).length) ∧
      (wState.live = true ∧ Sized wState ∧ preempting wState 15 = false ∧ wReady wState 15 1 0 = true ∧ (wState.ctx 15).units (stepM wState 1) 0 ≠ []) ∧
      ((mates false).live = true ∧ Sized (mates false) ∧
        ∃ key fwd, nextBack (mates false) 15 = some (key, true, fwd) ∧ mateFirst (mates false) 15 key fwd = true) ∧
      ((mates true).live = true ∧ Sized (mates true) ∧
        ∃ key fwd, nextBack (mates true) 15 = some (key, false, fwd) ∧ mateFirst (mates true) 15 key fwd = true) ∧
      nextBack base 15 = none ∧ ((ctxState .stopped).ctx 15).state ≠ .running) := by
  and_intros <;> first
    | decide +kernel | exact noStuck_of (by decide +kernel) | exact batches_of (by decide +kernel) | exact noOutgoing_of (by decide +kernel)
    | exact ⟨_, _, rfl, by decide +kernel⟩
    | exact fun e st h => by rw [show fCandidate base 15 = none by decide +kernel] at h; cases h

/-- Slot 0 with its block input in a state; buffer 2 of the activation queue holds it. -/
def offState (i : InputAt) : State :=
  work fun c => { c with slots := [{ slot0 with fDone := true, input := i, aBuf := if i = .offloading then some 2 else none }],
                         aq := { Queue.none with depth := 4, nbuf := 4, bufBytes := 64, base := 0x20000 },
                         gq := { Queue.none with depth := 4, nbuf := 4, bufBytes := 64, entries := [gEntry] } }

theorem witness_OffloadActs :
    (offState .offloading).live = true ∧ Sized (offState .offloading) ∧
    slotRec? (offState .offloading) 15 (st0 phF) = some { slot0 with fDone := true, input := .offloading, aBuf := some 2 } ∧
    slotRec? (offState .slow) 15 (st0 phF) = some { slot0 with fDone := true, input := .slow } ∧
    (gradEntry ((offState .slow).ctx 15) (st0 phF)).isSome = true ∧ NoOutgoing (offState .offloading) ∧
    ((offState .slow).ctx 15).state = .running ∧
    slotRec? (offState .fetching) 15 (st0 phF) = some { slot0 with fDone := true, input := .fetching } ∧
    slotRec? (offState .fast) 15 (st0 phF) = some { slot0 with fDone := true, input := .fast } := by
  and_intros <;> first | decide +kernel | exact noOutgoing_of (by decide +kernel)

/-- The need of context 15 in `work` fits the arrays. -/
theorem enough_work : Enough workBase := by
  intro d e he
  have h : e = 0 ∨ e = 1 := by omega
  by_cases k : d < 4
  · have : d = 0 ∨ d = 1 ∨ d = 2 ∨ d = 3 := by omega
    rcases h with rfl | rfl <;> rcases this with rfl | rfl | rfl | rfl <;> decide +kernel
  · have z : holders workBase d = [] := by
      refine List.filter_eq_nil_iff.2 fun x _ => ?_
      have q := nth_all Ctx.none (fun c => decide (c.die < 4)) rfl workBase.ctxs (by decide +kernel) x
      have q' : (workBase.ctx x).die < 4 := of_decide_eq_true q
      have : ((workBase.ctx x).die == d) = false := by rw [beq_eq_false_iff_ne]; omega
      simp [this]
    rw [z]; exact Nat.zero_le _

/-- Array 0 of die 3 has failed. -/
def brokenState : State := modCmp 3 (fun c => { c with arrays := modNth (fun _ => ⟨.failed, 31, 1⟩) c.arrays 0 }) base
/-- Context 15 in fixed-tempo mode. -/
def tempoState : State := work fun c => { c with pat := { c.pat with modes := 1 }, slots := [slot0] }
/-- An update pass at the vector site writes an entry of context 15. -/
def passHere : State :=
  { tempoState with regs := (regPut (oEntry 0 0) (15 * 64 + 1) tempoState).regs,
                    upd := { tempoState.upd with pass := some ⟨1, 1⟩, statRows := [(0, 1)] },
                    red := { tempoState.red with buckets := [⟨0, 0, 1, 4, 15, false⟩] } }

/-- The block of the first instruction has its origin already. -/
def blockOpen : State := modCtx 15 (fun c => { c with tempos := [⟨0, st0 phF, 5, 0, false⟩] }) tempoState

theorem witness_ArrayChecksAct :
    (workBase.live = true ∧ TablesOk workBase ∧ Sized workBase ∧ workBase.cmps.length = 4 ∧ (∀ c ∈ workBase.cmps, c.arrays.length = 39) ∧ Enough workBase ∧
      ((workBase.cmp 3).arr 11).state = .active ∧ (workBase.cmp 3).inState (physEngine 11) .spare = 12 :: [] ∧
      ((workBase.cmp 3).arr 38).state = .spare ∧ (brokenState.live = true ∧ TablesOk brokenState ∧ Sized brokenState ∧ brokenState.cmps.length = 4 ∧
        (∀ c ∈ brokenState.cmps, c.arrays.length = 39) ∧ Enough brokenState ∧ ((brokenState.cmp 3).arr 0).state = .failed)) ∧
    (tempoState.live = true ∧ Sized tempoState ∧ (tempoState.ctx 15).tempo = true ∧ (tempoState.ctx 15).state = .running ∧
      bit (nth 0 (tempoState.ctx 15).pat.tempo 0) 0 = true ∧ (∀ b ∈ (tempoState.ctx 15).tempos, b.holds (tempoState.ctx 15) 0 (st0 phF) = false) ∧
      tempoStamp tempoState 15 0 = some (st0 phF) ∧ originMet tempoState 15 0 (st0 phF) = true ∧ vectorPass tempoState 3 = false ∧
      (passHere.live = true ∧ Sized passHere ∧ vectorPass passHere (passHere.ctx 15).die = true) ∧
      (blockOpen.live = true ∧ Sized blockOpen ∧ tempoStamp blockOpen 15 0 = some (st0 phF) ∧
        ∃ b ∈ (blockOpen.ctx 15).tempos, b.holds (blockOpen.ctx 15) 0 (st0 phF) = true) ∧ (workBase.ctx 15).tempo = false) := by
  and_intros <;> first
    | exact enough_work | exact enough_of (by decide +kernel) | exact tablesOk_of (by decide +kernel) | decide +kernel

/-! ### Witnesses: what arrives for contexts -/

/-- A stage-map record of 64 bytes. -/
def mapRec (l : List Byte) : List Byte := padTo 64 l
/-- The configuration image holds a stage map. -/
def withMap (l : List (List Byte)) (s : State) : State :=
  { s with boot := { s.boot with image := some ⟨l.map mapRec, [], [], [], (0, 0), 0, 0, 0, 0⟩ } }
/-- Step 1 of epoch 0 is accepted. -/
def stepOne (s : State) : State := { s with str := { s.str with valid := true, steps := [⟨0, 1, 4, 0, [], []⟩] } }
/-- Port `p` carries with every capability, and no port drops for its rate of errors. -/
def portUp (p : Nat) (s : State) : State :=
  regPut (oLnk p 0x30) 0x40081000 (modPort p (fun q => { q with state := .up, ncap := 0x3FFF, peerMod := 9 }) s)

/-- Context 15 waits for entries of module 9 behind port 3, which also takes what it sends; buffer 2 has been granted. -/
def queueState : State :=
  let q : Queue := { Queue.none with depth := 4, nbuf := 4, bufBytes := 64, base := 0x20000, granted := [2], free := [] }
  modCtx 15 (fun c => { c with state := .running, aq := q, gq := q })
    (portUp 3 (withMap [[4, 15, 1, 1], [3, 1, 9, 0, 3, 4]] (stepOne base)))
/-- An entry for buffer 2 of queue 0 of context 15. -/
def entryD (step : Nat) : QDesc := ⟨⟨0, step, 1, phF⟩, 0, 0, 32, 0, 64, 2, 15, 0⟩
/-- The same with the stamp of an entry taken before. -/
def seenState : State := modQueue 15 0 (fun u => { u with seen := [⟨0, 1, 1, phF⟩] }) queueState
/-- No STEP_BEGIN has been accepted. -/
def earlyState : State := { queueState with str := base.str }
/-- An entry of queue 0 waits for a credit. -/
def outEntry : Outgoing := ⟨0, entryD 1, List.replicate 64 7⟩
def wantState : State := modCtx 15 (fun c => { c with outgoing := [outEntry] }) queueState
/-- A queue entry of CD0. -/
def qentMsg : IxHdr := ⟨5, 0, 0, 8, 5, 15, 0, 1, 0, 0, 0, false, 0⟩

theorem witness_QueueEntriesAndCreditsArrive :
    (queueState.live = true ∧ TablesOk queueState ∧ Sized queueState ∧ (queueState.port 3).carrying = true ∧
      entryBad (queueState.ctx 15) 0 2 (entryD 1) = false ∧ (entryD 1).kind ≠ 2 ∧ (entryD 1).bytes ≤ (List.replicate 64 (7 : Byte)).length ∧
      (verdict queueState (entryD 1).stamp = .accept ∧ ((queueState.ctx 15).queue 0).seen.contains (entryD 1).stamp = false) ∧
      (earlyState.live = true ∧ TablesOk earlyState ∧ Sized earlyState ∧ (earlyState.port 3).carrying = true ∧
        entryBad (earlyState.ctx 15) 0 2 (entryD 1) = false ∧ verdict earlyState (entryD 1).stamp = .hold) ∧
      verdict queueState (entryD 0).stamp = .discard 4 ∧ entryBad (queueState.ctx 15) 0 2 (entryD 0) = false ∧
      entryBad (queueState.ctx 15) 0 3 (entryD 1) = true ∧ fld queueState (oLnk 3 0x30) 1 1 = 0 ∧
      (seenState.live = true ∧ TablesOk seenState ∧ Sized seenState ∧ (seenState.port 3).carrying = true ∧
        verdict seenState (entryD 1).stamp = .accept ∧ ((seenState.ctx 15).queue 0).seen.contains (entryD 1).stamp = true ∧
        fld seenState (oLnk 3 0x30) 1 1 = 0)) ∧
    (3 < queueState.ports.length ∧ creditTaker queueState 3 9 4 0 = some 15 ∧ creditTaker queueState 3 9 4 1 = some 15 ∧
      (∀ x, (queueState.ctx x).outgoing = []) ∧
      (wantState.live = true ∧ Sized wantState ∧ (wantState.port 3).carrying = true ∧ creditTaker wantState 3 9 4 0 = some 15 ∧
        (∀ x, x ≠ 15 → (wantState.ctx x).outgoing = []) ∧ (wantState.ctx 15).outgoing = [outEntry] ∧ outEntry.q = 0 ∧
        (wantState.ctx 15).downCredits = [] ∧ (wantState.ctx 15).upCredits = [])) ∧
    ((dieUp queueState).live = true ∧ TablesOk (dieUp queueState) ∧ Comes 5 qentMsg (padTo 64 (descBytes (entryD 1))) (dieUp queueState) ∧
      (padTo 64 (descBytes (entryD 1))).length = 64 ∧ entryD 1 = descOf (padTo 64 (descBytes (entryD 1))) ∧ Sized (dieUp queueState) ∧
      entryBad ((dieUp queueState).ctx 15) 0 (entryD 1).buf (entryD 1) = false ∧
      (verdict (dieUp queueState) (entryD 1).stamp = .accept ∧
        (((dieUp queueState).ctx 15).queue 0).seen.contains (entryD 1).stamp = false)) := by
  and_intros <;> first
    | decide +kernel | exact tablesOk_of (by decide +kernel)
    | exact fun x => List.isEmpty_iff.1 (nth_all Ctx.none (fun c => c.outgoing.isEmpty) rfl queueState.ctxs (by decide +kernel) x)
    | exact fun x n => List.isEmpty_iff.1 (nth_but Ctx.none (fun c => c.outgoing.isEmpty) rfl wantState.ctxs 15 (by decide +kernel) x n)

/-- Entry 5 is an owned shard with generation 1 LIVE and 2 PENDING; entry 0 is the gathered copy of context 15, generation 5
under way, of members 0 (this module), 1 and 2 of group 0; `l` have landed. -/
def gatherState (l : List Nat) : State :=
  let own : Region := ⟨15, 1, true, true, false, true, 2, 1, 0, false, false, [], [⟨1, .live, 0, 0, false, vsLo⟩, ⟨2, .pending, 0, 0, false, vsLo⟩]⟩
  let copy : Region := ⟨15, 0, true, true, false, false, 2, 1, 0, false, false, l, [⟨5, .pending, 0, 0, false, vsLo + 0x10000⟩]⟩
  modCtx 15 (fun c => { c with state := .running, pat := { c.pat with regions := [2 ^ 128] } })
    { portUp 3 (withMap [[6, 15, 0, 0, 0, 0, 4, 1], [5, 0, 0, 0, 5, 0, 0xFF], [5, 0, 1, 0, 9, 0, 3], [5, 0, 2, 0, 10, 0, 4]] (stepOne base)) with
      regions := [(0, copy), (1, { own with localIdx := 0, slots := [⟨5, .live, 0, 0, false, vsLo + 0x20000⟩] }), (5, own)] }
/-- A gather header for a region and generation. -/
def gatherHd (region gen kind : Nat) : GatherHdr := ⟨⟨0, 0, 0xFFFF, phCommit⟩, region, gen, kind, 0, 4032, 64⟩
/-- No STEP_BEGIN has been accepted. -/
def gatherEarly : State := { gatherState [0] with str := base.str }
/-- Window 63 of port 3 takes gather data. -/
def gatherWin : State :=
  regPut (oLnk 3 0x7F0) 0x30 (regPut (oLnk 3 0x7F4) 1 (regPut (oLnk 3 0x7F8) (0x110 + 2 ^ 23) (regPut (oLnk 3 0x7FC) 0xFFFF (gatherState [0]))))

theorem witness_GathersAct :
    ((gatherState [0]).live = true ∧ 3 < (gatherState [0]).ports.length ∧ ((gatherState [0]).port 3).carrying = true ∧
      gatherClass (gatherState [0]) (gatherHd 5 1 0) = .accept ∧ ((gatherState [0]).region 5).owned = true ∧
      gatherEarly.live = true ∧ (gatherEarly.port 3).carrying = true ∧ gatherClass gatherEarly (gatherHd 5 1 0) = .hold ∧
      gatherClass (gatherState [0]) (gatherHd 5 1 3) = .discard 1 ∧
      ((gatherState [0]).region 5).liveSlot 1 = some ⟨1, .live, 0, 0, false, vsLo⟩ ∧ ((gatherState [0]).region 5).liveSlot 2 = none ∧
      (∃ v ∈ ((gatherState [0]).region 5).slots, v.state = .pending ∧ v.gen = 2) ∧ ((gatherState [0]).region 5).liveSlot 3 = none ∧
      (∀ v ∈ ((gatherState [0]).region 5).slots, ¬ (v.state = .pending ∧ v.gen = 3)) ∧ ((gatherState [0]).region 6).owned = false) ∧
    (TablesOk (gatherState [0]) ∧ gatherEntry (gatherState [0]) 9 (gatherHd 0x104 5 1) = some (0, 1) ∧ NoBatches (gatherState [0]) ∧
      NoJobs (gatherState [0]) ∧ Sized (gatherState [0]) ∧ gatherClass (gatherState [0]) (gatherHd 0x104 5 1) = .accept ∧
      ((gatherState [0]).region 0).landed ≠ [] ∧ ((gatherState [0]).region (0 + 1)).newest = some (gatherHd 0x104 5 1).gen ∧
      gatherWindow (gatherState [0]) 3 9 (gatherHd 0x104 5 1) (List.replicate 64 1) = none ∧
      (gatherWin.live = true ∧ TablesOk gatherWin ∧ gatherEntry gatherWin 9 (gatherHd 0x104 5 1) = some (0, 1) ∧
        gatherWindow gatherWin 3 9 (gatherHd 0x104 5 1) (List.replicate 64 1) = some 63 ∧
        windowAddr gatherWin 3 63 4032 + 64 ≤ vsLo + 0x10000 + 4032) ∧
      ((gatherState [0]).region 0).slots.find? (fun v => (v.state == .pending || v.state == .restoring) && v.gen == (gatherHd 0x104 5 1).gen)
        = some ⟨5, .pending, 0, 0, false, vsLo + 0x10000⟩ ∧ ((gatherState [0]).region 0).ctx < 16 ∧ (gatherHd 0x104 5 1).kind = 1 ∧
      (gatherHd 0x104 5 1).offset + (List.replicate 64 (1 : Byte)).length ≤ versionBytes (gatherState [0]) ((gatherState [0]).region 0).ctx
        ((gatherState [0]).region 0).localIdx ∧
      ¬ (∀ j ∈ members (gatherState [0]) ((gatherState [0]).region 0).grp, j.1 = 1 ∨ j.1 ∈ ((gatherState [0]).region 0).landed) ∧
      ((gatherState [0, 2]).live = true ∧ TablesOk (gatherState [0, 2]) ∧ gatherEntry (gatherState [0, 2]) 9 (gatherHd 0x104 5 1) = some (0, 1) ∧
        (∀ j ∈ members (gatherState [0, 2]) ((gatherState [0, 2]).region 0).grp, j.1 = 1 ∨ j.1 ∈ ((gatherState [0, 2]).region 0).landed) ∧
        (∀ u ∈ ((gatherState [0, 2]).region 0).slots, u = ⟨5, .pending, 0, 0, false, vsLo + 0x10000⟩ ∨ u.state = .free)) ∧
      (gatherHd 0x104 5 2).kind = 2 ∧ gatherEntry (gatherState [0]) 9 (gatherHd 0x104 5 2) = some (0, 1)) := by
  and_intros <;> first | decide +kernel | exact tablesOk_of (by decide +kernel) | exact noStuck_of (by decide +kernel) | exact batches_of (by decide +kernel)

/-- A router of two experts, DEPTH 1: sources, and the owner, LOCAL and OCTX of each. -/
def routerOf (sources o0 l0 o1 l1 : Nat) : List Nat :=
  [1, (sources - 1) * 2 ^ 10 + 2 ^ 20, 2 ^ 16, 2 + 3 * 2 ^ 16, o0 + l0 * 2 ^ 8 + 15 * 2 ^ 18, o1 + l1 * 2 ^ 8 + 15 * 2 ^ 18]
/-- Context 15 is member 1 of its expert group: router 0 has expert LOCAL 0 here and LOCAL 3 on member 2, router 1 has its experts
on members 0 and 2. -/
def moeState (sources : Nat) : State :=
  let pat : Pattern := { Pattern.none with
    descs := [3 * 2 ^ 32 + 0x1000 * 2 ^ 64 + 32 * 2 ^ 160 + 1 * 2 ^ 192 + 0xFFFF * 2 ^ 240, 3 * 2 ^ 32 + 0x2000 * 2 ^ 64 + 32 * 2 ^ 160 + 1 * 2 ^ 192 + 0xFFFF * 2 ^ 240,
      descWord 0 0x10000 0xFFFF, descWord 0 0x11000 0xFFFF],
    routers := [routerOf sources 1 0 2 3, routerOf sources 0 0 2 0] }
  modCtx 15 (fun c => { c with state := .running, pat := pat, slots := [slot0] })
    (portUp 3 (withMap [[5, 23, 0, 0, 9, 0, 3], [5, 23, 1, 0, 5, 0, 0xFF], [5, 23, 2, 0, 10, 0, 4]] (stepOne base)))
/-- A batch of two rows: direction, expert. -/
def batchHd (ph dir expert : Nat) : BatchHdr := ⟨⟨0, 1, 0, ph⟩, 0, expert, 0, dir, 2, 64⟩
def batchIdx : List Nat := [0, 5]
/-- The state before any STEP_BEGIN. -/
def moeEarly : State := { moeState 1 with str := base.str }
/-- No slot of work is open; or a batch of slot 1 of the same source fills the partition. -/
def moeIdle : State := modCtx 15 (fun c => { c with slots := [] }) (moeState 1)
def moeFull : State :=
  modCtx 15 (fun c => { c with batches := [⟨9, { batchHd phF 0 0 with stamp := ⟨0, 1, 1, phF⟩ }, [0, 5], []⟩] }) (moeState 2)

theorem witness_ExpertBatchesTravel :
    ((moeState 1).live = true ∧ Sized (moeState 1) ∧ ((moeState 1).ctx 15).state = .running ∧ preempting (moeState 1) 15 = false ∧
      slotRec? (moeState 1) 15 (st0 phF) = some slot0 ∧ 1 < ((moeState 1).ctx 15).pat.routers.length ∧ slot0.fDone = false ∧
      writtenFor ((moeState 1).ctx 15) slot0 phF [((moeState 1).ctx 15).tIdx 1, ((moeState 1).ctx 15).tGate 1, ((moeState 1).ctx 15).tTok 1] = true ∧
      routeOf slot0 1 = none ∧
      (∀ e, e < ((moeState 1).ctx 15).nExperts 1 →
        ∃ m p, memberAt (moeState 1) (expertKind 15) (((moeState 1).ctx 15).expertAt 1 e).1 = some (m, p) ∧ p ≤ 15)) ∧
    (TablesOk (moeState 2) ∧ Sized (moeState 2) ∧ NoBatches (moeState 2) ∧
      batchBad (moeState 2) 15 9 (batchHd phF 0 0) batchIdx = false ∧ verdict (moeState 2) (batchHd phF 0 0).stamp = .accept ∧
      1 < ((moeState 2).ctx 15).nSources (batchHd phF 0 0).router ∧
      (TablesOk (moeState 1) ∧ NoBatches (moeState 1) ∧ batchBad (moeState 1) 15 9 (batchHd phF 0 0) batchIdx = false ∧
        verdict (moeState 1) (batchHd phF 0 0).stamp = .accept ∧ ((moeState 1).ctx 15).nSources 0 = 1 ∧
        partitionFull (moeState 1) 15 (batchHd phF 0 0) = false ∧ partitionFull (moeState 2) 15 (batchHd phF 0 0) = false ∧
        (batchHd phF 0 0).stamp.slot = 0 ∧
        canBindAll (moeState 1) 15 (batchHd phF 0 0).stamp (unbound (moeState 1) 15 (batchHd phF 0 0)) = true ∧
        slotRec? (moeState 1) 15 (batchHd phF 0 0).stamp = some slot0 ∧
        writtenFor ((moeState 1).ctx 15) slot0 phF [((moeState 1).ctx 15).moeSlot (0, 0) 1] = true ∧
        memberAt (moeState 1) (expertKind 15) (batchHd phF 0 0).src = some (9, 3) ∧ 3 < (moeState 1).ports.length) ∧
      (moeIdle.live = true ∧ TablesOk moeIdle ∧ Sized moeIdle ∧ NoBatches moeIdle ∧
        batchBad moeIdle 15 9 (batchHd phF 0 0) batchIdx = false ∧ verdict moeIdle (batchHd phF 0 0).stamp = .accept ∧
        partitionFull moeIdle 15 (batchHd phF 0 0) = false ∧ (moeIdle.ctx 15).state = .running ∧
        canBindAll moeIdle 15 (batchHd phF 0 0).stamp (unbound moeIdle 15 (batchHd phF 0 0)) = true ∧
        slotRec? moeIdle 15 (batchHd phF 0 0).stamp = none) ∧
      (moeFull.live = true ∧ batchBad moeFull 15 9 (batchHd phF 0 0) batchIdx = false ∧
        verdict moeFull (batchHd phF 0 0).stamp = .accept ∧ partitionFull moeFull 15 (batchHd phF 0 0) = true) ∧
      batchBad (moeState 1) 15 10 (batchHd phB 1 3) batchIdx = false ∧ verdict (moeState 1) (batchHd phB 1 3).stamp = .accept ∧
      ((moeState 1).ctx 15).combines = [] ∧
      (∃ e, e < ((moeState 1).ctx 15).nExperts (batchHd phB 1 3).router ∧
        (((moeState 1).ctx 15).expertAt (batchHd phB 1 3).router e).2.1 ≠ (batchHd phB 1 3).expert) ∧
      (moeEarly.live = true ∧ TablesOk moeEarly ∧ Sized moeEarly ∧ NoBatches moeEarly ∧
        batchBad moeEarly 15 9 (batchHd phF 0 0) batchIdx = false ∧ verdict moeEarly (batchHd phF 0 0).stamp = .hold) ∧
      batchBad (moeState 1) 15 9 (batchHd phF 0 0) [5, 0] = true ∧ batchBad (moeState 1) 15 9 (batchHd phF 0 3) batchIdx = true) := by
  and_intros <;> first
    | decide +kernel | exact tablesOk_of (by decide +kernel) | exact noStuck_of (by decide +kernel) | exact batches_of (by decide +kernel)
    | (intro e h; have h' : e < 2 := h
       have : e = 0 ∨ e = 1 := by omega
       rcases this with rfl | rfl
       · exact ⟨9, 3, by decide +kernel, by decide⟩
       · exact ⟨10, 4, by decide +kernel, by decide⟩)

/-- Context 15 is member 1 of a sequence group of three of 96 tokens. -/
def ringState : State :=
  modCtx 15 (fun c => { c with state := .running, pat := { c.pat with seqd := some (96 + 2 * 2 ^ 32) } })
    (portUp 3 (withMap [[5, 39, 0, 0, 9, 0, 3], [5, 39, 1, 0, 5, 0, 0xFF], [5, 39, 2, 0, 10, 0, 4]] (stepOne base)))
/-- A forward block. -/
def ringHd (origin hop : Nat) : RingHdr := ⟨⟨0, 1, 0, phF⟩, 2, origin, hop, 0, 32⟩
/-- No STEP_BEGIN has been accepted. -/
def ringEarly : State := { ringState with str := base.str }

/-- Slot 0 of step 1 is in phase F. -/
def ringWork : State := modCtx 15 (fun c => { c with slots := [slot0] }) ringState

theorem witness_RingBlocksArrive :
    ringState.live = true ∧ TablesOk ringState ∧ Sized ringState ∧ ringBad ringState 15 (ringHd 2 2) = false ∧
    verdict ringState (ringHd 2 2).stamp = .accept ∧ (ringState.ctx 15).slots = [] ∧ (ringState.ctx 15).issued = [] ∧
    (ringWork.live = true ∧ TablesOk ringWork ∧ Sized ringWork ∧ ringBad ringWork 15 (ringHd 0 1) = false ∧
      verdict ringWork (ringHd 0 1).stamp = .accept ∧ (ringWork.ctx 15).ringHeld = [] ∧ (ringWork.ctx 15).slots = [slot0] ∧
      slot0.stamp = (ringHd 0 1).stamp ∧ slot0.xStarted = false ∧ slot0.bStarted = false ∧ (ringHd 0 1).hop + 1 < seqSize (ringWork.ctx 15) ∧
      hopDone (ringWork.ctx 15) slot0 (ringHd 0 1).stamp 2 ((ringHd 0 1).hop - 1) = true ∧
      (ringWork.ctx 15).ringPlaced 2 (ringHd 0 1).hop (ringHd 0 1).stamp = false ∧ (ringWork.ctx 15).ringSent = [] ∧
      (members ringWork (seqKind 15)).find? (fun k => k.1 == (ownMember ringWork (seqKind 15) + 1) % seqSize (ringWork.ctx 15))
        = some (2, 10, 4) ∧ 4 < ringWork.ports.length) ∧
    (ringEarly.live = true ∧ TablesOk ringEarly ∧ Sized ringEarly ∧ ringBad ringEarly 15 (ringHd 0 1) = false ∧
      verdict ringEarly (ringHd 0 1).stamp = .hold) ∧
    ringBad ringState 15 (ringHd 0 2) = true ∧ phaseRank (ringHd 0 2).stamp.phase ≠ 7 := by
  and_intros <;> decide +kernel

/-- Window 63 of port 15 covers a page: EN, TKIND 0x0, VC14, any sender. A write of VC14 is not committed yet. -/
def windowState : State :=
  regPut (oLnk 15 0x7F0) 0x30 (regPut (oLnk 15 0x7F4) 1 (regPut (oLnk 15 0x7F8) (0x101 + 2 ^ 30) (regPut (oLnk 15 0x7FC) 0xFFFF
    (portUp 15 (modPort 15 (fun q => { q with inWrite := [(14, 63, true)] }) (withMap [[1, 0, 5, 0]] (flagState true ⟨false, 0⟩)))))))
/-- A window write of the last 64 bytes of the page. -/
def writeHd : XferHdr := ⟨0, 63, 0, 4032, 64, false, false, 0, 0, 0, false⟩

theorem witness_WindowWritesCommit :
    windowState.live = true ∧ TablesOk windowState ∧ (windowState.port 15).carrying = true ∧ writeHd.tkind = 0 ∧ xferOk 14 writeHd = true ∧
    windowOk windowState 15 writeHd.win 0 14 9 writeHd.offset writeHd.bytes = true ∧ (List.replicate 64 (7 : Byte)).length = writeHd.bytes ∧
    inOneRange (windowAddr windowState 15 writeHd.win writeHd.offset) writeHd.bytes = true ∧ xferOk 13 writeHd = false ∧
    windowOk windowState 15 writeHd.win 0 14 9 4096 64 = false ∧ fld windowState (oLnk 15 0x30) 1 1 = 0 ∧ 6 ≠ modId windowState ∧
    (windowState.port 15).inWrite.find? (fun v => v.1 == 14) = some (14, 63, true) ∧ (frec 1 false).op = 1 ∧
    (tokenTake 15 windowState).2 = true ∧ findFlag windowState (frec 1 false).fctx (frec 1 false).vflag = .at k63 true ∧ NoSeqWait windowState ∧ NoWaitOn k63 windowState ∧
    (flagAt windowState k63).set = !((frec 1 false).op == 1) := by
  and_intros <;> first
    | decide +kernel | exact tablesOk_of (by decide +kernel) | exact noSeqWait_of rfl | exact fun w h => absurd h List.not_mem_nil

/-! ### Witnesses: stage links -/

/-- Port 15 in a state, changed by `f`; no port drops for its rate of errors. -/
def linkState (st : LinkState) (f : Port → Port) : State :=
  modPort 15 f (modPort 15 (fun q => { q with state := st, lanes := [0, 1, 2, 3], spare := 4 }) (portUp 15 base))
/-- A flit kept for replay. -/
def kept : SentFlit := ⟨4095, flitHdrBytes ⟨1, 0, 4095, 0, false, false, true, true, 0, 0, 64, 9, 5⟩ ++ List.replicate 64 7⟩
def retrying : State := linkState .up fun q => { q with retry := [kept] }
def retraining : State := linkState .degraded fun q => { q with retrain := true }

theorem witness_PortsGoDownAndReset :
    ((linkState .up id).live = true ∧ TablesOk (linkState .up id) ∧ 15 < 16 ∧ (linkState .up id).ports.length = 16 ∧
      ((linkState .up id).port 15).carrying = true ∧ ((linkState .up id).port 15).retrain = false ∧ ((linkState .auth id).port 15).carrying = false) ∧
    (retraining.live = true ∧ TablesOk retraining ∧ retraining.ports.length = 16 ∧ (retraining.port 15).carrying = true ∧
      (retraining.port 15).retrain = true ∧ (linkState .training id).live = true ∧ TablesOk (linkState .training id) ∧
      ((linkState .training id).port 15).state = .training ∧ (linkState .auth id).live = true ∧ TablesOk (linkState .auth id) ∧
      ((linkState .auth id).port 15).state = .auth ∧ retrying.live = true ∧ TablesOk retrying ∧ (retrying.port 15).carrying = true ∧
      (retrying.port 15).retry ≠ [] ∧ ((linkState .up id).port 15).state ≠ .auth ∧ ((linkState .up id).port 15).retry = [] ∧
      bit (retraining.port 15).ncap 2 = true) := by
  and_intros <;> decide +kernel

/-- A control record of `hd` is in flight on VC15 under FSEQ 0. -/
def ctlX : TxXfer := ⟨15, 9, [], 1, some 0, .control hd⟩
def ctlState : State := linkState .up fun q => { q with tx := [ctlX], retry := [⟨0, []⟩], txSeq := 1 }
/-- The rate limit of control records is 1, and one has come at this moment; or there is no limit. -/
def rateState (rate : Nat) : State := regPut (oLnk 15 0x30) (0x40001000 + rate * 2 ^ 16) (linkState .up fun q => { q with ctlTimes := [0], paused := 3 })

theorem witness_LinkControlActs :
    Recordable hd (linkState .up id) ∧ TablesOk (linkState .up id) ∧ (linkState .up id).ports.length = 16 ∧ (3 ≠ 1 ∧ 3 ≠ 2) ∧
    Recordable hd (linkState .down id) ∧ TablesOk (linkState .down id) ∧ ((linkState .down id).port 15).carrying = false ∧
    bit ((linkState .up fun q => { q with ncap := 0x1FFF }).port 15).ncap 13 = false ∧
    ((linkState .up id).port 15).carrying = true ∧ bit ((linkState .up id).port 15).ncap 13 = true ∧
    Recordable hd ctlState ∧ TablesOk ctlState ∧ (ctlState.port 15).carrying = true ∧ (ctlState.port 15).retrain = false ∧
    ctlX ∈ (ctlState.port 15).tx ∧ ctlX.done = .control hd ∧ (∀ y ∈ (ctlState.port 15).tx, y ≠ ctlX → y.lastSeq = none) ∧
    (ctlState.port 15).tx.Nodup ∧ FlitGood (ackFlit 0) ∧ (flitHdrOf (ackFlit 0)).ftype = 0 ∧ (flitHdrOf (ackFlit 0)).ackv = true ∧
    (flitHdrOf (ackFlit 0)).nak = false ∧ ctlX.lastSeq = some (flitHdrOf (ackFlit 0)).ackseq ∧
    (∃ f ∈ (ctlState.port 15).retry, f.fseq = (flitHdrOf (ackFlit 0)).ackseq) ∧
    (Recordable hd (rateState 0) ∧ TablesOk (rateState 0) ∧ ((rateState 0).port 15).carrying = true ∧ fld (rateState 0) (oLnk 15 0x30) 16 8 = 0) ∧
    (Recordable hd (rateState 1) ∧ TablesOk (rateState 1) ∧ ((rateState 1).port 15).carrying = true ∧ fld (rateState 1) (oLnk 15 0x30) 16 8 ≠ 0 ∧
      fld (rateState 1) (oLnk 15 0x30) 1 1 = 0 ∧
      fld (rateState 1) (oLnk 15 0x30) 16 8 ≤ (recent (rateState 1) ((rateState 1).port 15).ctlTimes).length) ∧
    (recent (rateState 2) ((rateState 2).port 15).ctlTimes).length < fld (rateState 2) (oLnk 15 0x30) 16 8 := by
  and_intros <;> first
    | decide +kernel

/-- A training record: MAJOR, capabilities, lane mask, credits of VC15. -/
def recWith (major caps mask g15 : Nat) : List Byte :=
  [BitVec.ofNat 8 major, 0, 9, 0] ++ leBytes 8 caps ++ [0, BitVec.ofNat 8 mask] ++ List.replicate 2 0 ++ List.replicate 80 3
    ++ List.replicate 30 0 ++ leBytes 2 g15 ++ List.replicate 108 0
/-- EN = 1 on port 15 in DOWN. -/
def enabled : State := setFld (oLnk 15 0) 3 1 0 (setBit (oLnk 15 0) 0 (linkState .down id))
/-- Port 15 trains and hears every lane pair. -/
def trains : State := linkState .training fun q => { q with rxMask := 0x1F, ownRec := recWith 1 0x3FFF 0x1F 8 }

/-- The same with a record of its own that says CLOSED. -/
def closedTraining : State := modPort 15 (fun q => { q with ownRec := (recWith 1 0x3FFF 0x1F 8).set 12 1 }) trains

theorem witness_LinksTrain :
    (linkState .up id).live = true ∧ TablesOk (linkState .up id) ∧ ((linkState .up id).port 15).carrying = true ∧
    ((linkState .up id).port 15).retrain = false ∧ bit ((linkState .up id).port 15).failed 3 = false ∧ 3 ∈ ((linkState .up id).port 15).lanes ∧
    3 ≤ (laneList (0x1F - (((linkState .up id).port 15).failed ||| 2 ^ 3))).length ∧
    (laneList (0x1F - (((linkState .up fun q => { q with failed := 3 }).port 15).failed ||| 2 ^ 3))).length < 3 ∧
    4 ∉ ((linkState .up id).port 15).lanes ∧ ((linkState .up id).port 15).spare = 4 ∧ bit ((linkState .up id).port 15).failed 4 = false ∧
    (enabled.live = true ∧ TablesOk enabled ∧ enabled.ports.length = 16 ∧ fld enabled (oLnk 15 0) 0 1 = 1 ∧ enabled.boot.hold = false ∧
      (enabled.port 15).state = .down ∧ fld enabled (oLnk 15 0) 3 1 = 0) ∧
    (trains.live = true ∧ TablesOk trains ∧ trains.ports.length = 16 ∧ (trains.port 15).state = .training ∧
      (trains.port 15).ownRec ≠ [] ∧ recMajor (recWith 2 0 0x1F 8) ≠ 1 ∧ recMajor (recWith 1 0 3 8) = 1 ∧
      (laneList (recMask (recWith 1 0 3 8) &&& (trains.port 15).rxMask)).length < 3 ∧ recMajor (recWith 1 0 0xF 7) = 1 ∧
      4 ≤ (laneList (recMask (recWith 1 0 0xF 7) &&& (trains.port 15).rxMask)).length ∧ grantsBad (recGrants (recWith 1 0 0xF 7)) = true ∧
      grantsBad (recGrants (recWith 1 0 0xF 8)) = false ∧
      (closedTraining.live = true ∧ TablesOk closedTraining ∧ (closedTraining.port 15).state = .training ∧
        4 ≤ (laneList (recMask (recWith 1 0 0xF 8) &&& (closedTraining.port 15).rxMask)).length ∧
        bit (leAt (closedTraining.port 15).ownRec 12 1) 0 = true ∧ bit (recCaps (recWith 1 0 0xF 8) &&& ownCaps) 3 = false) ∧
      peerModBad trains 15 (recWith 1 0 0xF 8) = false ∧ bit (recPolicy (recWith 1 0 0xF 8)) 0 = false ∧
      bit (leAt (trains.port 15).ownRec 12 1) 0 = false ∧ bit (recCaps (recWith 1 0x3FFF 0xF 8) &&& ownCaps) 3 = true) := by
  and_intros <;> decide +kernel

/-- Port 15 in AUTH: 228 bytes of the chain have come, or the leaf key is known. -/
def authState (leaf : Option (List Byte)) : State :=
  linkState .auth fun q => { q with lastRec := some (recWith 1 0x3FFF 0xF 8), certBuf := List.replicate 228 1, leaf := leaf }
/-- A piece of the chain, and a signature message over the partner's record. -/
def chainMsg (i : Nat) : List Byte := [1, 0] ++ leBytes 2 i ++ leBytes 4 1000 ++ List.replicate 228 2
def sigMsg : List Byte := [2, 0, 0, 0] ++ leBytes 4 96 ++ (signed (recWith 1 0x3FFF 0xF 8)).drop 236

theorem witness_AuthenticationActs :
    ((authState none).live = true ∧ TablesOk (authState none) ∧ (authState none).ports.length = 16 ∧ ((authState none).port 15).state = .auth ∧
      ((authState none).port 15).lastRec = some (recWith 1 0x3FFF 0xF 8) ∧ leAt (chainMsg 1) 0 1 = 1 ∧
      leAt (chainMsg 1) 2 2 * 228 = ((authState none).port 15).certBuf.length ∧
      ((authState none).port 15).certBuf.length + min 228 ((chainMsg 1).length - 8) < leAt (chainMsg 1) 4 4 ∧
      leAt (chainMsg 0) 0 1 = 1 ∧ leAt (chainMsg 0) 2 2 * 228 ≠ ((authState none).port 15).certBuf.length ∧
      leAt sigMsg 0 1 = 2 ∧ ((authState none).port 15).leaf = none) ∧
    ((authState (some key1)).live = true ∧ TablesOk (authState (some key1)) ∧ ((authState (some key1)).port 15).state = .auth ∧
      ((authState (some key1)).port 15).leaf = some key1 ∧
      ecdsaVerify key1 ((sigMsg.drop 8).take 96) (recWith 1 0x3FFF 0xF 8 ++ ((authState (some key1)).port 15).ownRec) = true ∧
      ((authState (some [])).port 15).leaf = some [] ∧
      ecdsaVerify [] ((sigMsg.drop 8).take 96) (recWith 1 0x3FFF 0xF 8 ++ ((authState (some [])).port 15).ownRec) = false) := by
  and_intros <;> decide +kernel

/-- Port 15 carries with credits on every VC. -/
def sendState (f : Port → Port) : State := linkState .up fun q => f { q with avail := List.replicate 16 8, deficit := List.replicate 16 0, txSeq := 4095 }
/-- Two flag records and one control record wait on VC15. -/
def recs : List (Nat × Nat × List Byte × TxDone) :=
  [(2, 9, List.replicate 16 1, .nothing), (2, 9, List.replicate 16 2, .nothing), (3, 9, List.replicate 16 3, .nothing)]
/-- A transfer of two flits on VC14. -/
def dataX : TxXfer := ⟨14, 9, List.replicate 288 5, 0, none, .nothing⟩
def recState : State := regPut (oLnk 15 0x13C) 0x1000 (sendState fun q => { q with ctl := recs })
def dataState : State := regPut (oLnk 15 0x138) 0x11000 (sendState fun q => { q with tx := [dataX] })

theorem witness_FlitsSent :
    (retrying.live = true ∧ 15 < retrying.ports.length ∧ (retrying.port 15).carrying = true ∧ (retrying.port 15).retrain = false ∧
      ((sendState fun q => { q with retry := [kept], replayFrom := some 4095 }).port 15).replayFrom = some 4095 ∧
      ((sendState fun q => { q with retry := [kept], replayFrom := some 4095 }).port 15).retry.find? (fun f => f.fseq == 4095) = some kept) ∧
    (recState.live = true ∧ (recState.port 15).replayFrom = none ∧ (recState.port 15).retry.length < 1024 ∧ sendable (recState.port 15) ≠ [] ∧
      vcEnabled recState 15 15 = true ∧ 0 < nth 0 (recState.port 15).avail 15) ∧
    (dataState.live = true ∧ 15 < dataState.ports.length ∧ (dataState.port 15).carrying = true ∧ (dataState.port 15).retrain = false ∧
      (dataState.port 15).replayFrom = none ∧ (dataState.port 15).retry.length < 1024 ∧ sendable (dataState.port 15) = [] ∧
      drrPick dataState 15 = some (14, 1) ∧ txNext (dataState.port 15) 14 = some dataX) ∧
    ((trains.live = true ∧ 15 < trains.ports.length ∧ (trains.port 15).retrain = false ∧ (trains.port 15).state = .training ∧
      (trains.port 15).ownRec ≠ []) ∧ (linkState .auth id).live = true ∧ ((linkState .auth id).port 15).state = .auth ∧
      ((linkState .auth id).port 15).retrain = false ∧ (linkState .down id).live = true ∧ ((linkState .down id).port 15).state = .down ∧
      ((linkState .down id).port 15).retrain = false) ∧
    ((sendState id).live = true ∧ ((sendState id).port 15).replayFrom = none ∧ sendable ((sendState id).port 15) = [] ∧
      drrPick (sendState id) 15 = none) := by
  and_intros <;> decide +kernel

/-- Port 15 expects FSEQ 4095, holds its partner's credits, and window 63 takes writes of VC14. -/
def hearState (f : Port → Port) : State :=
  modPort 15 (fun q => f { q with rxSeq := 4095, held := List.replicate 16 8, returned := List.replicate 16 0, inWrite := [] }) windowState
/-- A flit of FTYPE, VC and FSEQ: no acknowledgement. -/
def flitOf (ftype vc fseq fill : Nat) (first last : Bool) (body : List Byte) : List Byte :=
  flitBytes (flitHdrBytes ⟨ftype, vc, fseq, 0, false, false, first, last, 0, 0, fill, 5, 9⟩) body
/-- The first flit of a window write of 256 bytes. -/
def firstFlit : List Byte := flitOf 1 14 4095 236 true false (xferBytes ⟨0, 63, 0, 0, 256, false, false, 0, 0, 0, false⟩ ++ List.replicate 204 7)

/-- Window 63 takes batches of VC4; and the first flit of a dispatch batch of a step that is not accepted yet. -/
def hearBatch : State := regPut (oLnk 15 0x7F8) (0x104 + 2 ^ 20) (hearState id)
def batchFlit : List Byte :=
  flitOf 1 4 4095 236 true false
    (xferBytes ⟨2, 63, 0, 0, 256, false, false, 0, 0, 0, false⟩ ++ batchHdrBytes (batchHd phF 0 0) ++ List.replicate 172 7)

theorem witness_FlitsReceived :
    ((hearState id).live = true ∧ TablesOk (hearState id) ∧ (hearState id).ports.length = 16 ∧ ((hearState id).port 15).carrying = true ∧
      ((hearState id).port 15).retrain = false ∧ ¬ FlitGood (List.replicate 256 1) ∧ (flitHdrOf (List.replicate 256 1)).ftype ≠ 0) ∧
    (FlitGood (flitOf 1 14 4094 236 true false []) ∧ (flitHdrOf (flitOf 1 14 4094 236 true false [])).ftype = 1 ∧
      flitBreaks (hearState id) 15 (flitHdrOf (flitOf 1 14 4094 236 true false [])) = false ∧
      (flitHdrOf (flitOf 1 14 4094 236 true false [])).fseq ≠ ((hearState id).port 15).rxSeq) ∧
    (FlitGood (flitOf 2 15 4095 0 false false []) ∧ flitBreaks (hearState id) 15 (flitHdrOf (flitOf 2 15 4095 0 false false [])) = false ∧
      (flitHdrOf (flitOf 2 15 4095 0 false false [])).fseq = ((hearState id).port 15).rxSeq ∧
      (flitHdrOf (flitOf 2 15 4095 0 false false [])).nak = false ∧ (flitHdrOf (flitOf 2 15 4095 0 false false [])).ackv = false ∧
      0 < nth 0 ((hearState id).port 15).held (flitHdrOf (flitOf 2 15 4095 0 false false [])).vc ∧
      ((hearState id).port 15).held.length = 16 ∧ ((hearState id).port 15).returned.length = 16 ∧
      (flitHdrOf (flitOf 2 15 4095 0 false false [])).ftype = 2 ∧ (flitHdrOf (flitOf 2 15 4095 0 false false [])).fill < 16) ∧
    (FlitGood firstFlit ∧ flitBreaks (hearState id) 15 (flitHdrOf firstFlit) = false ∧ (flitHdrOf firstFlit).fseq = ((hearState id).port 15).rxSeq ∧
      (flitHdrOf firstFlit).nak = false ∧ (flitHdrOf firstFlit).ackv = false ∧ 0 < nth 0 ((hearState id).port 15).held (flitHdrOf firstFlit).vc ∧
      (flitHdrOf firstFlit).ftype = 1 ∧ (flitHdrOf firstFlit).first = true ∧ (flitHdrOf firstFlit).last = false ∧ (flitHdrOf firstFlit).fill = 236 ∧
      ((hearState id).port 15).rxPart.find? (fun r => r.vc == (flitHdrOf firstFlit).vc) = none ∧
      (xferOf ((firstFlit.drop 16).take 236)).tkind = 0 ∧ xferOk (flitHdrOf firstFlit).vc (xferOf ((firstFlit.drop 16).take 236)) = true ∧
      windowOk (hearState id) 15 63 0 (flitHdrOf firstFlit).vc (flitHdrOf firstFlit).src 0 256 = true ∧
      (xferOf ((firstFlit.drop 16).take 236)).win = 63 ∧ (xferOf ((firstFlit.drop 16).take 236)).offset = 0 ∧
      (xferOf ((firstFlit.drop 16).take 236)).bytes = 256 ∧ (flitHdrOf firstFlit).dst = modId (hearState id) ∧
      inOneRange (windowAddr (hearState id) 15 63 0) 204 = true) ∧
    (hearBatch.live = true ∧ TablesOk hearBatch ∧ (hearBatch.port 15).carrying = true ∧ FlitGood batchFlit ∧
      flitBreaks hearBatch 15 (flitHdrOf batchFlit) = false ∧ (flitHdrOf batchFlit).fseq = (hearBatch.port 15).rxSeq ∧
      (flitHdrOf batchFlit).nak = false ∧ (flitHdrOf batchFlit).ackv = false ∧ 0 < nth 0 (hearBatch.port 15).held (flitHdrOf batchFlit).vc ∧
      (flitHdrOf batchFlit).ftype = 1 ∧ (flitHdrOf batchFlit).first = true ∧ (flitHdrOf batchFlit).last = false ∧
      (flitHdrOf batchFlit).fill = 236 ∧ (hearBatch.port 15).rxPart.find? (fun r => r.vc == (flitHdrOf batchFlit).vc) = none ∧
      (xferOf ((batchFlit.drop 16).take 236)).tkind = 2 ∧ (xferOf ((batchFlit.drop 16).take 236)).tflag = false ∧
      (admitXfer 15 4 (flitHdrOf batchFlit).src (flitHdrOf batchFlit).dst (xferOf ((batchFlit.drop 16).take 236)) hearBatch).2 = true ∧
      verdict hearBatch (batchHdrOf (((batchFlit.drop 16).take 236).drop 32)).stamp = .hold) ∧
    (FlitGood (ackFlit 4095) ∧ retrying.live = true ∧ TablesOk retrying ∧ (retrying.port 15).tx = [] ∧
      (∃ f ∈ (retrying.port 15).retry, f.fseq = (flitHdrOf (ackFlit 4095)).ackseq) ∧ (flitHdrOf (ackFlit 4095)).ackv = true ∧
      (flitHdrOf (ackFlit 4095)).nak = false ∧ (retrying.port 15).retry = kept :: [] ∧ (retrying.port 15).replays < 63) ∧
    ((linkState .up fun q => { q with tx := [dataX] }).live = true ∧ TablesOk (linkState .up fun q => { q with tx := [dataX] }) ∧
      dataX ∈ ((linkState .up fun q => { q with tx := [dataX] }).port 15).tx ∧ dataX.vc = 14 ∧ dataX.lastSeq = none ∧
      nth 0 ((linkState .up fun q => { q with tx := [dataX] }).port 15).avail 14 = 0 ∧
      bit ((linkState .up fun q => { q with tx := [dataX] }).port 15).stalls 14 = false) := by
  and_intros <;> first
    | decide +kernel | exact tablesOk_of (by decide +kernel) | (unfold FlitGood; decide +kernel)

/-! ### Witnesses: reduction and update -/

theorem witness_ReductionValues : [RVal.zero, widen 0x3F800000].Perm [widen 0x3F800000, RVal.zero] ∧ (widen 0x7F7FFFFF).a.natAbs < 2 ^ 308 :=
  ⟨List.Perm.swap _ _ _, by decide +kernel⟩

/-- Bucket 5 of group 0: three FP32 elements. -/
def bk5 : Bucket := ⟨0, 5, 1, 3, 15, false⟩
/-- A group of three modules in which this module is member `me`; member 1 or 0 lies behind port 3, member 2 behind port 4. The shard
of owner 0 takes `inn` inputs here and leaves on `out`. Arrivals come over port 15 by window 63. -/
def redState (me out inn : Nat) (segs : List Seg) : State :=
  let w := fun off v s => regPut off v s
  let s := withMap [[5, 0, 0, 0, if me = 0 then 5 else 9, 0, if me = 0 then 0xFF else 3],
    [5, 0, 1, 0, if me = 0 then 9 else 5, 0, if me = 0 then 3 else 0xFF], [5, 0, 2, 0, 10, 0, 4]] (stepOne base)
  let s := w (oLnk 15 0x7F0) 0x30 (w (oLnk 15 0x7F4) 1 (w (oLnk 15 0x7F8) 0xFFFF01FF (w (oLnk 15 0x7FC) 0xFFFF (portUp 15 s))))
  let s := w (oGrp 0 0) (63 * 16 + me * 1024 + 2 * 2 ^ 20) (w (oGrp 0 8) 0x40 (w (oGrp 0 12) 2 s))
  let s := w (oRoute 0 0) (out * 1024 + inn * 2 ^ 16) (w oStrCfg 2 s)
  { s with red := { s.red with buckets := [bk5], segs := segs } }
/-- A raw partial of member 2 for the shard of owner 0: 1.0 three times. -/
def partHd : PartialHdr := ⟨⟨0, 1, 0xFFFF, phReduce⟩, 5, 0, 1, 0, 2, 0, 1, 0, 3, 3, false⟩
def partData : List Byte := (List.replicate 3 0x3F800000).flatMap (leBytes 4)
def ones : List RVal := List.replicate 3 (widen 0x3F800000)
/-- The segment with this module's own elements, and the input of member 1 or none. -/
def openSeg0 (inputs : List Nat) : Seg := ⟨0, 5, 1, 0, ones, [true, true, true], [0, 0, 0], 3, inputs, inputs.length + 1, true, false, false, false, false⟩

theorem witness_PartialsArrive :
    ((redState 0 31 2 []).live = true ∧ TablesOk (redState 0 31 2 []) ∧ PartialFits (redState 0 31 2 []) 15 8 10 partHd partData bk5 ones ∧
      segAt (redState 0 31 2 []) 0 5 1 0 = none ∧ 0 < routeIn (redState 0 31 2 []) 0 0 ∧ ones.filter escapes = []) ∧
    ((redState 0 31 2 [openSeg0 [1]]).live = true ∧ TablesOk (redState 0 31 2 [openSeg0 [1]]) ∧
      PartialFits (redState 0 31 2 [openSeg0 [1]]) 15 8 10 partHd partData bk5 ones ∧ OnlySeg (redState 0 31 2 [openSeg0 [1]]) 0 5 1 0 (openSeg0 [1]) ∧
      (openSeg0 [1]).localIn = true ∧ 2 ∉ (openSeg0 [1]).inputs ∧ (openSeg0 [1]).inputs.length + 1 = routeIn (redState 0 31 2 [openSeg0 [1]]) 0 0 ∧
      0 = ownerOf bk5.elems (grpSize (redState 0 31 2 [openSeg0 [1]]) 0) (segElems (redState 0 31 2 [openSeg0 [1]]) 0) 0 ∧
      (openSeg0 [1]).vals.length = ones.length ∧
      (addVals ((openSeg0 [1]).read (redState 0 31 2 [openSeg0 [1]]) 0 3).vals 0 ones).filter escapes = [] ∧
      (addVals ((openSeg0 []).read (redState 1 3 1 [openSeg0 []]) 0 3).vals 0 ones).filter escapes = [] ∧ 0 = grpMember (redState 0 31 2 [openSeg0 [1]]) 0 ∧
      routeOut (redState 0 31 2 [openSeg0 [1]]) 0 0 = 0x1F ∧
      (openSeg0 [1]).ncontrib + partHd.ncontrib = grpSize (redState 0 31 2 [openSeg0 [1]]) 0) ∧
    ((redState 1 3 1 [openSeg0 []]).live = true ∧ TablesOk (redState 1 3 1 [openSeg0 []]) ∧
      PartialFits (redState 1 3 1 [openSeg0 []]) 15 8 10 partHd partData bk5 ones ∧ OnlySeg (redState 1 3 1 [openSeg0 []]) 0 5 1 0 (openSeg0 []) ∧
      (openSeg0 []).inputs.length + 1 = routeIn (redState 1 3 1 [openSeg0 []]) 0 0 ∧ 0 ≠ grpMember (redState 1 3 1 [openSeg0 []]) 0 ∧
      0 = ownerOf bk5.elems (grpSize (redState 1 3 1 [openSeg0 []]) 0) (segElems (redState 1 3 1 [openSeg0 []]) 0) 0 ∧
      routeOut (redState 1 3 1 [openSeg0 []]) 0 0 ≤ 15 ∧ routeOut (redState 1 3 1 [openSeg0 []]) 0 0 < (redState 1 3 1 [openSeg0 []]).ports.length) ∧
    (({ partHd with resv := true } : PartialHdr).resv = true ∧ ({ partHd with ncontrib := 0 } : PartialHdr).ncontrib = 0 ∧
      verdict (redState 0 31 2 []) ⟨1, 1, 0xFFFF, phReduce⟩ = .hold) := by
  and_intros <;> first
    | decide +kernel | exact tablesOk_of (by decide +kernel) | (unfold OnlySeg; decide +kernel)

/-- Two FP32 elements of step 1 from element 0 of bucket 5, or the marker of an empty tile, by CD0. -/
def redMsg (prec : Nat) (marker : Bool) : IxHdr := ⟨6, if marker then 1 else 0, 0, 8, 5, 15, 0, 1, prec * 2 ^ 35, 0, 5, false, 0⟩
def redBytes (marker : Bool) : List Byte :=
  padTo 64 (leBytes 10 (packStamp (st0 phW)) ++ [0, 0] ++ leBytes 2 2 ++ [0, 0]
    ++ if marker then [] else (List.replicate 2 0x3F800000).flatMap (leBytes 4))
/-- Segments of group 0 of this module as member 0, with a timeout of 1 ms or none. -/
def timeState (ms : Nat) (segs : List Seg) : State := regPut (oGrp 0 4) ms (dieUp (redState 0 31 2 segs))
/-- A segment that was sent by port 7, which is DOWN. -/
def sentSeg : Seg := { openSeg0 [1] with sent := true, vals := [], raw := [] }
def strandState : State := modPort 7 (fun q => { q with tx := [⟨8, 9, [], 0, none, .partialOf 0 5 0 1⟩] }) (timeState 1 [sentSeg])

theorem witness_SegmentsFillAndTimeOut :
    (∀ marker, (timeState 1 []).live = true ∧ TablesOk (timeState 1 []) ∧
      Comes 6 { redMsg 1 marker with sub := if marker then 1 else 0 } (redBytes marker) (timeState 1 []) ∧
      bucketOf (timeState 1 []) (bits (redMsg 1 marker).addr 32 3) ((redMsg 1 marker).ext % 65536) = some bk5 ∧
      bk5.grp = bits (redMsg 1 marker).addr 32 3 ∧ bk5.id = (redMsg 1 marker).ext % 65536 ∧ isFar (timeState 1 []) bk5.grp = false ∧
      (timeState 1 []).str.valid = true ∧ (unpackStamp (leAt (redBytes marker) 0 10)).epoch = (timeState 1 []).str.epoch ∧
      (unpackStamp (leAt (redBytes marker) 0 10)).step = 1 ∧ bits (redMsg 1 marker).addr 0 32 = 0 ∧ leAt (redBytes marker) 12 2 = 2 ∧
      (if marker then 16 else 16 + 4 * 2) ≤ (redBytes marker).length ∧ bits (redMsg 1 marker).addr 35 1 = bk5.prec ∧
      stepOpen (timeState 1 []) bk5.grp 1 = true ∧ segAt (timeState 1 []) bk5.grp bk5.id 1 0 = none ∧
      0 = segStart (segElems (timeState 1 []) bk5.grp) 0 ∧ 0 + 2 ≤ 0 + segElems (timeState 1 []) bk5.grp ∧ 0 + 2 ≤ bk5.elems ∧
      2 < segCount bk5.elems (segElems (timeState 1 []) bk5.grp) 0 * rounds (timeState 1 []) bk5 1 ∧
      (addVals (List.replicate (segCount bk5.elems (segElems (timeState 1 []) bk5.grp) 0) RVal.zero) (0 - 0)
        ((if marker then List.replicate 2 0 else (upto 2).map fun i => leAt (redBytes marker) (16 + 4 * i) 4).map (widenPrec bk5.prec))).filter escapes = [] ∧
      bits (redMsg 0 marker).addr 35 1 ≠ bk5.prec) ∧
    ((timeState 1 [openSeg0 [1]]).live = true ∧ TablesOk (timeState 1 [openSeg0 [1]]) ∧
      segAt (timeState 1 [openSeg0 [1]]) 0 5 ((timeState 1 [openSeg0 [1]]).upd.committed + 1) 0 = some (openSeg0 [1]) ∧
      fld (timeState 1 [openSeg0 [1]]) (oGrp 0 4) 0 16 ≠ 0 ∧ (openSeg0 [1]).locals_ ≠ 0 ∧
      strandState.live = true ∧ TablesOk strandState ∧ segAt strandState 0 5 1 0 = some sentSeg ∧ fld strandState (oGrp 0 4) 0 16 ≠ 0 ∧
      givenOut strandState sentSeg = true ∧ sentSeg.sent = true ∧ none ∈ strandState.glb.log ∧ (openSeg0 [1]).sent = false ∧
      givenOut (timeState 1 [openSeg0 [1]]) (openSeg0 [1]) = false ∧ (0, 1) ∉ (timeState 1 [openSeg0 [1]]).red.timeoutLogged ∧
      none ∈ (timeState 1 [openSeg0 [1]]).glb.log ∧ (0, 1) ∈ { (timeState 1 [openSeg0 [1]]).red with timeoutLogged := [(0, 1)] }.timeoutLogged ∧
      strandedOn (timeState 1 [openSeg0 [1]]) 0 5 1 0 = none ∧ strandedOn (timeState 1 [sentSeg]) 0 5 1 0 = none ∧
      sentSeg.timedOut = false ∧ strandedOn strandState 0 5 1 0 = some 7 ∧ (timeState 0 [openSeg0 [1]]).live = true ∧
      TablesOk (timeState 0 [openSeg0 [1]]) ∧ segAt (timeState 0 [openSeg0 [1]]) 0 5 1 0 = some (openSeg0 [1]) ∧
      fld (timeState 0 [openSeg0 [1]]) (oGrp 0 4) 0 16 = 0) := by
  constructor
  · intro marker
    cases marker <;> and_intros <;> decide +kernel
  · and_intros <;> decide +kernel

/-- The far group is group 1, of two members; bucket 5 takes part; its pod segment has landed or not. -/
def farState (landed : Bool) : State :=
  let s := regPut (oRed 0x420) 3 (regPut (oGrp 1 0) (2 ^ 20) (regPut (oRoute 1 1) (3 * 1024) (redState 0 31 2 [{ openSeg0 [1] with landed := landed }])))
  { s with red := { s.red with buckets := [{ bk5 with far := true }] } }
/-- Update entry 1023 covers the bucket, with its planes at 1 MiB; or the residual slot it writes is pinned. -/
def farKeeps : State :=
  let w := fun off v s => regPut off v s
  let s := w (oEntry 1023 0) (5 * 2 ^ 16 + 1) (w (oEntry 1023 8) 1 (w (oEntry 1023 12) 3 (w (oEntry 1023 0x10) 0x100 (farState true))))
  { s with upd := { s.upd with statRows := [(1023, 1)], rollbackOk := true } }
def farHeld : State := { farKeeps with upd := { farKeeps.upd with snaps := [⟨hd, { snp 2 1 64 with entry := 1023, nent := 1 }, some 1, none, []⟩] } }

theorem witness_FarCompressActs :
    (farState true).live = true ∧ TablesOk (farState true) ∧ farOn (farState true) = true ∧
    bucketOf (farState true) (farGroup (farState true)) 5 = some { bk5 with far := true } ∧
    groupClosed (farState true) (farGroup (farState true)) 1 = false ∧ 1 = (farState true).upd.committed + 1 ∧
    farPinned (farState true) { bk5 with far := true } 1 0 = false ∧ (farState true).glb.dieFail = false ∧
    segAt (farState true) 0 5 1 0 = some { openSeg0 [1] with landed := true } ∧ 0 ≠ farGroup (farState true) ∧
    segAt (farState true) (farGroup (farState true)) 5 1 0 = none ∧ 2 ≤ grpSize (farState true) (farGroup (farState true)) ∧
    (farKeeps.live = true ∧ TablesOk farKeeps ∧ farOn farKeeps = true ∧ bucketOf farKeeps (farGroup farKeeps) 5 = some { bk5 with far := true } ∧
      segAt farKeeps 0 5 1 0 = some { openSeg0 [1] with landed := true } ∧ segAt farKeeps (farGroup farKeeps) 5 1 0 = none ∧
      groupClosed farKeeps (farGroup farKeeps) 1 = false ∧ farPinned farKeeps { bk5 with far := true } 1 0 = false ∧
      farEntries farKeeps { bk5 with far := true } 0 3 ≠ [] ∧ entryFor farKeeps { bk5 with far := true } 2 = some (uentry farKeeps 1023) ∧
      residualAddr farKeeps (uentry farKeeps 1023) 1 1 + 4 ≤ residualAddr farKeeps (uentry farKeeps 1023) 1 2) ∧
    (farHeld.live = true ∧ TablesOk farHeld ∧ farOn farHeld = true ∧ segAt farHeld 0 5 1 0 = some { openSeg0 [1] with landed := true } ∧
      farPinned farHeld { bk5 with far := true } 1 0 = true) ∧
    (farCompress (fld (farState true) (oRed 0x420) 7 1 == 0) (farD (farState true)) 0
      ((upto (segCount 3 (segElems (farState true) 0) 0)).map fun i =>
        fvAdd (ofFp32 (memF32 (farState true) (landAddr (farState true) { bk5 with far := true } 1 (0 + i)))) (ofFp32 0))).own.filter escapes = [] ∧
    ((farState false).live = true ∧ TablesOk (farState false) ∧ segAt (farState false) 0 5 1 0 = some (openSeg0 [1]) ∧
      segAt (farState false) (farGroup (farState false)) 5 1 0 = none ∧ (openSeg0 [1]).landed = false) := by
  and_intros <;> decide +kernel

/-- Update entry 1023 covers bucket 5 as one row of three elements and writes region 7. `valid`: it is valid. -/
def entryState (valid : Bool) (slots : List VSlot) : State :=
  let w := fun off v s => regPut off v s
  let s := w (oEntry 1023 8) 1 (w (oEntry 1023 12) 3 (w (oEntry 1023 0x18) 7 (w (oUpd 0x70) (1023 + 5 * 2 ^ 11) (stepOne base))))
  let s := if valid then w (oEntry 1023 0) (5 * 2 ^ 16 + 1) s else s
  { s with regions := [(7, ⟨15, 0, true, false, false, false, 2, 1, 0, false, false, [], slots⟩)], red := { s.red with buckets := [bk5] },
           upd := { s.upd with statRows := if valid then [(1023, 1)] else [] } }
/-- A LIVE version, a FREE slot. -/
def liveV : VSlot := ⟨0, .live, 0, 0, false, vsLo⟩
def freeV : VSlot := ⟨0, .free, 0, 0, false, vsLo + 4096⟩
/-- Nothing has landed in a group without buckets, so a pass may start. -/
def mayPass (slots : List VSlot) : State :=
  let s := regPut (oUpd 0) 0 (entryState true slots)
  { s with red := { s.red with buckets := [] } }
/-- The region has one version, which the update replaces. -/
def flushPass : State :=
  { mayPass [liveV] with regions := [(7, { (mayPass [liveV]).region 7 with overlap := false })] }
/-- A pass of step 1 runs on the update die; the hub moves a faulted pass to the compute dies, or not. -/
def passRuns (auto : Nat) : State :=
  let s := regPut (oUpd 4) (2 * auto) (entryState true [liveV, { freeV with state := .pending, gen := 1 }])
  { s with upd := { s.upd with pass := some ⟨1, 0⟩ } }

theorem witness_UpdatePassStarts :
    ((mayPass [liveV, freeV]).live = true ∧ TablesOk (mayPass [liveV, freeV]) ∧ NoJobs (mayPass [liveV, freeV]) ∧
      1 = (mayPass [liveV, freeV]).upd.committed + 1 ∧ passWaits (mayPass [liveV, freeV]) = true ∧ gateOpen (mayPass [liveV, freeV]) 1 = true ∧
      passPinned (mayPass [liveV, freeV]) 1 = false ∧ (mayPass [liveV, freeV]).glb.dieFail = false ∧ (mayPass [liveV, freeV]).hif.quiesced = false ∧
      (∀ r ∈ writtenRegions (mayPass [liveV, freeV]), canPend (mayPass [liveV, freeV]) r = true) ∧ (mayPass [liveV, freeV]).upd.udFault = false ∧
      7 ∈ writtenRegions (mayPass [liveV, freeV]) ∧ ((mayPass [liveV, freeV]).region 7).versioned = true ∧
      (if ((mayPass [liveV, freeV]).region 7).has .free then ((mayPass [liveV, freeV]).region 7).slots.find? (·.state == .free)
        else none) = some freeV ∧
      ((mayPass [liveV, freeV]).region 7).has .free = true) ∧
    ((mayPass [liveV]).live = true ∧ TablesOk (mayPass [liveV]) ∧ passWaits (mayPass [liveV]) = true ∧ gateOpen (mayPass [liveV]) 1 = true ∧
      passPinned (mayPass [liveV]) 1 = false ∧ 7 ∈ writtenRegions (mayPass [liveV]) ∧ canPend (mayPass [liveV]) 7 = false ∧
      ((mayPass [liveV]).region 7).overlap = true ∧ ((mayPass [liveV]).region 7).waitSlot = false) ∧
    (flushPass.live = true ∧ TablesOk flushPass ∧ NoJobs flushPass ∧ passWaits flushPass = true ∧ gateOpen flushPass 1 = true ∧
      passPinned flushPass 1 = false ∧ (∀ r ∈ writtenRegions flushPass, canPend flushPass r = true) ∧ 7 ∈ writtenRegions flushPass ∧
      (flushPass.region 7).versioned = false ∧ (flushPass.region 7).slots.find? (·.state == .live) = some liveV) ∧
    (passWaits base = false ∧ TablesOk (passRuns 1) ∧ (passRuns 1).live = true ∧ NoJobs (passRuns 1) ∧ (passRuns 1).upd.pass = some ⟨1, 0⟩ ∧
      fld (passRuns 1) (oUpd 4) 1 1 = 1 ∧ fld (passRuns 0) (oUpd 4) 1 1 = 0 ∧ TablesOk (passRuns 0) ∧ (passRuns 0).upd.pass = some ⟨1, 0⟩ ∧
      (mayPass [liveV]).upd.pass = none) := by
  and_intros <;> decide +kernel

/-- The pass runs at the vector site, and a tempo block of a context on die 3 that it writes for is open. -/
def siteRuns : State :=
  let s := passRuns 0
  modCtx 15 (fun c => { c with state := .running, die := 3, tempos := [⟨0, ⟨0, 1, 0, 0⟩, 5, 0, false⟩] })
    (regPut (oEntry 1023 0) (5 * 2 ^ 16 + 15 * 64 + 1) (regPut (oCmp 3 0x300) 1 { s with upd := { s.upd with pass := some ⟨1, 1⟩ } }))
/-- The pass runs at the vector site while context 15 has a slot whose B has started. -/
def siteBusy : State :=
  modCtx 15 (fun c => { c with tempos := [], slots := [{ slot0 with fDone := true, bStarted := true }] }) siteRuns
/-- A STEP_COMMIT of step 1 waits for the pass. -/
def commitWaits : State := { passRuns 0 with upd := { (passRuns 0).upd with commits := [(hd, 1)] } }
/-- A second STEP_COMMIT of it waits for its turn. -/
def turnWaits : State := { commitWaits with upd := { commitWaits.upd with stepWait := [.stepCommit hd 1] } }
/-- Region 7 is being rewritten. -/
def restoring : State := entryState false [liveV, { freeV with state := .restoring }]

theorem witness_UpdatePassCompletes :
    ((passRuns 0).live = true ∧ TablesOk (passRuns 0) ∧ NoJobs (passRuns 0) ∧ NoBatches (passRuns 0) ∧ (passRuns 0).upd.pass = some ⟨1, 0⟩ ∧
      (passRuns 0).stepRec 1 = some ⟨0, 1, 4, 0, [], []⟩ ∧ (∀ w ∈ (passRuns 0).upd.commits, w.2 ≠ 1) ∧
      validEntries (passRuns 0) = [uentry (passRuns 0) 1023] ∧ (uentry (passRuns 0) 1023).kind ≠ 2 ∧
      (loadedIn (passRuns 0) (uentry (passRuns 0) 1023).grp (uentry (passRuns 0) 1023).bucket).isSome = true ∧ (passRuns 0).glb.dieFail = false ∧
      tabWf statDefault (passRuns 0).upd.stats = true ∧ (passRuns 0).sramPoison = [] ∧
      (siteRuns.live = true ∧ TablesOk siteRuns ∧ NoJobs siteRuns ∧ NoBatches siteRuns ∧ siteRuns.upd.pass = some ⟨1, 1⟩ ∧
        siteRuns.stepRec 1 = some ⟨0, 1, 4, 0, [], []⟩ ∧ inTempoBlock siteRuns 3 = true ∧ passOn siteRuns 3 = true ∧
        siteBusy.upd.pass = some ⟨1, 1⟩ ∧ passOn siteBusy 3 = true ∧ inTempoBlock siteBusy 3 = false ∧ backWork siteBusy 3 = true ∧
        backWork siteRuns 3 = false) ∧
      (turnWaits.live = true ∧ TablesOk turnWaits ∧ NoBatches turnWaits ∧ turnWaits.upd.pass = some ⟨1, 0⟩ ∧
        turnWaits.stepRec 1 = some ⟨0, 1, 4, 0, [], []⟩ ∧ turnWaits.hif.ctxJobs = [] ∧ turnWaits.hif.quiescing = false ∧
        turnWaits.upd.commits = [(hd, 1)] ∧ turnWaits.upd.stepWait = [.stepCommit hd 1]) ∧ commitWaits.live = true ∧ TablesOk commitWaits ∧ NoJobs commitWaits ∧ NoBatches commitWaits ∧
      commitWaits.upd.pass = some ⟨1, 0⟩ ∧ commitWaits.stepRec 1 = some ⟨0, 1, 4, 0, [], []⟩ ∧ Recordable hd commitWaits ∧
      commitWaits.upd.commits = [(hd, 1)]) ∧
    (restoring.live = true ∧ TablesOk restoring ∧ NoBatches restoring ∧ (∀ e ∈ restoring.regions, e.2.sharded = false) ∧
      (restoring.region 7).has .restoring = true ∧ (∀ e ∈ validEntries restoring, e.vregion ≠ 7) ∧ (restoring.region 8).has .restoring = false) := by
  and_intros <;> first
    | exact noStuck_of (by decide +kernel) | exact batches_of (by decide +kernel) | decide +kernel

/-- The entry with no bucket to cover. -/
def orphan : State := { entryState false [liveV] with red := base.red }

theorem witness_UpdateEntriesAct :
    ((entryState false [liveV]).live = true ∧ TablesOk (entryState false [liveV]) ∧ fld (entryState false [liveV]) (oEntry 1023 0) 0 1 = 0 ∧
      fld (entryWritten 1023 0x50000 (entryState false [liveV])) (oEntry 1023 0) 0 1 = 1 ∧
      entryOk (entryWritten 1023 0x50000 (entryState false [liveV])) (uentry (entryWritten 1023 0x50000 (entryState false [liveV])) 1023) = true ∧
      orphan.live = true ∧ TablesOk orphan ∧ fld orphan (oEntry 1023 0) 0 1 = 0 ∧ fld (entryWritten 1023 0x50000 orphan) (oEntry 1023 0) 0 1 = 1 ∧
      entryOk (entryWritten 1023 0x50000 orphan) (uentry (entryWritten 1023 0x50000 orphan) 1023) = false) ∧
    ((entryState true [liveV]).live = true ∧ TablesOk (entryState true [liveV]) ∧ fld (entryState true [liveV]) (oEntry 1023 0) 0 1 = 1 ∧
      selectedStat (entryState true [liveV]) = some (1023, 0, 5) ∧ tabWf statDefault (entryState true [liveV]).upd.stats = true ∧
      updBusy (entryState true [liveV]) = true ∧
      updBusy { entryState true [liveV] with str := base.str } = false ∧
      selectedStat { entryState true [liveV] with str := base.str } = some (1023, 0, 5)) := by
  and_intros <;> decide +kernel

/-! ### Witnesses: power and boot -/

/-- Die 0 at 95.0 °C, die 1 at 92.0 °C, die 2 cool for its tenth tick, die 3 cool for its first; the power limit is 100 × 8 W. -/
def warmState : State :=
  let s := regPut (oPwr 0) 760 (regPut (oPwr 4) 736 (regPut (oPwr 0x40) (0x2000 + 100) base))
  { s with pwr := { s.pwr with therm := [0, 1, 3, 2], cool := [0, 5, 9, 0], pwr := 2, pcool := 9 } }
/-- A tempo block runs on die 3. -/
def tempoRuns : State := modCtx 15 (fun c => { c with tempos := [⟨0, ⟨0, 1, 0, 0⟩, 5, 0, false⟩] }) (regPut (oCmp 3 0x300) 1 oneF)

theorem witness_ClockLevelsFollow :
    (TablesOk warmState ∧ warmState.pwr.level.length = 4 ∧ warmState.live = true ∧ warmState.awake = true ∧ 760 ≤ tempAt warmState (4 * 0) ∧
      736 ≤ tempAt warmState (4 * 1) ∧ tempAt warmState (4 * 1) < 760 ∧ tempAt warmState (4 * 2) < 736 ∧ 0 < nth 0 warmState.pwr.therm 2 ∧
      nth 0 warmState.pwr.cool 2 = 9 ∧ tempAt warmState (4 * 3) < 736 ∧ 0 < nth 0 warmState.pwr.therm 3 ∧ nth 0 warmState.pwr.cool 3 ≠ 9 ∧
      fld warmState (oPwr 0x40) 13 1 = 1 ∧ 8 * fld warmState (oPwr 0x40) 0 13 < 801 ∧ 784 * fld warmState (oPwr 0x40) 0 13 ≤ 100 * 784 ∧
      784 ≤ 8 * fld warmState (oPwr 0x40) 0 13 ∧ 0 < warmState.pwr.pwr ∧ 100 * 783 < 784 * fld warmState (oPwr 0x40) 0 13 ∧
      nth 0 warmState.pwr.therm 0 = 0) ∧
    (3 < warmState.pwr.applied.length ∧ fld warmState (oCmp 3 0x300) 0 1 = 0 ∧ (∀ c ∈ warmState.ctxs, c.die = 3 → c.tempos = [] ∨ (c.state ≠ .running ∧ c.issued = [])) ∧
      (TablesOk tempoRuns ∧ tempoRuns.awake = true ∧ fld tempoRuns (oCmp 3 0x300) 0 1 = 1 ∧
        ∃ c ∈ tempoRuns.ctxs, c.die = 3 ∧ c.tempos ≠ [] ∧ (c.state = .running ∨ c.issued ≠ []))) := by
  and_intros <;> decide +kernel

/-- A module without power. -/
def dark : State := { State.reset with pwr := { State.reset.pwr with powered := false } }
/-- The update die at 100.0 °C. -/
def hotState : State := regPut (oPwr 0x24) 800 base

theorem witness_HeatAndPowerRemoveRails :
    (base.awake = true ∧ TablesOk base ∧ toSigned 839 12 < (840 : Int) ∧ tempAt base (tempReg 7) < 800 ∧ 800 ≤ toSigned 839 12 ∧
      none ∈ base.glb.log ∧ toSigned 879 12 < (880 : Int) ∧ (hotState.awake = true ∧ TablesOk hotState ∧ 800 ≤ tempAt hotState (tempReg 9)) ∧
      toSigned 0xFFF 12 < (800 : Int) ∧ (840 : Int) ≤ toSigned 840 12 ∧ (880 : Int) ≤ toSigned 880 12) ∧
    (base.live = true ∧ 0xA55A ≠ 0xA55B ∧ base.pwr.powered = true ∧ base.boot.ready = true ∧ dark.pwr.powered = false) := by
  and_intros <;> decide +kernel

/-- A configuration image (R464): LENGTH 1,024, the root key, no register default, one module record; signed. -/
def cfgBytes : List Byte :=
  let word := leBytes 4
  signed (padTo 928 ([0x31, 0x50, 0x46, 0x43, 0, 0, 1, 0] ++ word 1024 ++ word 0 ++ [0, 0, 2, 0] ++ word 0 ++ List.replicate 40 0 ++ key1
    ++ List.replicate 31 0 ++ word 1 ++ word 224 ++ word 0 ++ word 0 ++ word 2 ++ word 256 ++ word 64 ++ word 1
    ++ List.replicate 32 0 ++ mapRec [1, 0, 5, 0]))
/-- A module without power whose flash holds that image and whose fuses hold its key. -/
def bootable : State :=
  { dark with boot := { State.reset.boot with flash := cfgBytes, fuses := { State.reset.boot.fuses with rootHash := digestNat key1 } } }
/-- Nothing fails. -/
def goodEnv : BootEnv := ⟨true, true, true, true, none, none, none, none, [], [], none⟩
/-- A module that has not booted, whose MOD_RST_N or PERST is low. -/
def heldLow (modRst perst : Bool) : State := { State.reset with pwr := { State.reset.pwr with modRstLow := modRst, perstLow := perst } }
/-- The boot has failed. -/
def inHold : State := { State.reset with boot := { State.reset.boot with hold := true, step := 4, cause := 4 } }

theorem witness_ResetsBoot :
    (bootable.pwr.powered = false ∧ pinsHigh bootable = true ∧ earlyFault goodEnv (freshLogic false dark) = some (4, 4) ∧
      earlyFault goodEnv (freshLogic false bootable) = none ∧
      lateFault { goodEnv with memFail := some 4 } (imaged (freshLogic false bootable)) = some (10, 0x0D, 4) ∧
      lateFault goodEnv (imaged (freshLogic false bootable)) = none ∧ cfgDefaults (cfgImage (freshLogic false bootable).boot.flash) = [] ∧
      pinsHigh { dark with pwr := { dark.pwr with perstLow := true } } = false ∧
      State.reset.awake = true ∧ TablesOk State.reset ∧ State.reset.boot.ready = false ∧ State.reset.boot.hold = false ∧ State.reset.boot.step = 0) ∧
    (base.live = true ∧ base.boot.rstPending = false ∧ base.awake = true ∧ (heldLow true false).pwr.modRstLow = true ∧
      (heldLow false true).pwr.perstLow = true ∧ (heldLow true false).pwr.powered = true ∧ TablesOk (heldLow true false) ∧
      (heldLow true false).pwr.perstLow = false ∧ TablesOk (heldLow true true) ∧ (heldLow true true).pwr.perstLow = true ∧
      TablesOk (heldLow false true) ∧ (heldLow false true).pwr.modRstLow = false ∧ base.boot.ready = true ∧
      (heldLow false true).awake = false ∧ (heldLow true false).awake = false ∧ State.reset.awake = true) := by
  and_intros <;> decide +kernel

/-- A session of a transport on an image, being written or not; in hold or with a context loaded. -/
def session (committing : Bool) (data : List Byte) (s : State) : State :=
  { s with boot := { s.boot with session := some ⟨.doe, 1024, data, committing⟩, fuses := { s.boot.fuses with rootHash := digestNat key1 } } }

theorem witness_BootIsReportedAndImagesLoad :
    (inHold.awake = true ∧ inHold.boot.step < 16 ∧ inHold.boot.cause < 256 ∧ inHold.boot.dieCode < 16 ∧ inHold.boot.fuses.svn < 128 ∧
      inHold.boot.fuses.revoked < 16 ∧ inHold.boot.image = none ∧ fusesRead inHold = true ∧ fusesRead State.reset = false ∧
      (loadState []).boot.image.isSome = true ∧ ∀ m, (loadState []).boot.image = some m → m.keysel < 8) ∧
    (NoJobs inHold ∧ NoJobs base ∧ NoJobs (session false [] base) ∧ NoJobs (session true cfgBytes inHold) ∧ inHold.boot.session = none ∧ inHold.boot.hold = true ∧
      (base.boot.session = none ∧ (∀ c ∈ base.ctxs, c.state = .empty) ∧ base.red.buckets = []) ∧
      (session false [] base).boot.session.isSome = true ∧ (loadedOne.awake = true ∧ loadedOne.boot.session = none ∧ loadedOne.boot.hold = false ∧
        ∃ c ∈ loadedOne.ctxs, c.state ≠ .empty) ∧
      imageCause (session false [1] base).boot.fuses [1] = some 4 ∧ imageCause (session false cfgBytes base).boot.fuses cfgBytes = none ∧
      (Transport.doe ≠ Transport.i3c) ∧ (session true cfgBytes base).boot.hold = false ∧ (session true cfgBytes inHold).boot.hold = true ∧
      TablesOk (session true cfgBytes inHold) ∧ (session true cfgBytes inHold).awake = true) := by
  and_intros <;> decide +kernel

/-- How far the connection over DOE has come. -/
def spdmState (n : Nat) : State := setPhase .doe n base

theorem witness_AttestationAnswers :
    (spdmState 1).awake = true ∧ spdmPhase (spdmState 1) .doe = 1 ∧ spdmPhase (spdmState 2) .doe = 2 ∧ bit 0x80 7 = true ∧ bit 2 1 = true ∧
    bit 0x7F 7 = false ∧ spdmPhase (spdmState 3) .doe = 3 ∧ spdmPhase (spdmState 0) .doe ≠ 3 ∧ base.boot.hold = false ∧
    (sensorWord base 31).isSome = true ∧ inHold.boot.hold = true ∧ inHold.awake = true ∧ (3 ≤ 5 ∧ 5 < 6 ∧ 6 ≠ 0xFF) ∧
    sensorWord base 200 = none ∧ none ∈ base.glb.log ∧ (loadState []).boot.image.isSome = true ∧ (loadState []).boot.hold = false := by
  and_intros <;> decide +kernel

/-! ### Witnesses: the die interface -/

/-- Ports 0 and 3 are up and a guest stands behind port 5, up or not. -/
def guestState (up : Bool) : State :=
  let s := dieUp base
  { s with dies := s.dies ++ [{ DiePort.reset 2 with guest := some ⟨[], [], []⟩, up := up, cap := 0x7F9, maxlen := 64, credits := [[4, 4, 4, 4], [4, 4, 4, 4]],
                                                     granted := [[64, 64, 64, 64], [64, 64, 64, 64]], owed := [[0, 0, 0, 0], [0, 0, 0, 0]] }] }
/-- The port of the guest has failed. -/
def guestFailed : State := modDie 5 (fun q => { q with failed := true }) (guestState false)
/-- 64 violations of the guest stand in the present millisecond. -/
def guestBad : State := modDie 5 (fun q => { q with violations := List.replicate 64 0 }) (guestState true)
/-- A negotiation record: MAJOR, capabilities, grants of pools 0 to 3, MAXLEN, modules. -/
def dieRec (major : Nat) : List Byte :=
  padTo 96 ([BitVec.ofNat 8 major, 0, 0, 0, 0, 0, 0, 0] ++ leBytes 4 0x7FF ++ leBytes 2 16 ++ leBytes 2 0 ++ leBytes 2 9 ++ leBytes 2 8 ++ [64, 2])
/-- A CTL message of an agent, and a read of a guest. -/
def ctlMsg (src sub crcnt : Nat) : IxHdr := ⟨7, sub, src, 8, 5, 3, crcnt, 0, 0, 0, 0, false, 0⟩
def guestRead : IxHdr := ⟨0, 0, 16, 8, 9, 15, 0, 0, 0x1000, 0, 2, false, 1⟩

theorem noOwed : ∀ p, creditsOf ((guestState true).die 0).owed 0 p = 0 := fun p => by
  rcases p with _ | _ | _ | _ | p <;> rfl

theorem witness_DiePortsTrainAndControl :
    ((guestState false).awake = true ∧ TablesOk (guestState false) ∧ NoJobs (guestState false) ∧ hostBound (guestState false) = [] ∧
      5 < (guestState false).dies.length ∧ (dieRec 1).length = 96 ∧ ((guestState false).die 5).up = false ∧
      ((guestState false).die 5).failed = false ∧ recordBad (guestState false) 5 (dieRec 1) = false ∧ (dieRec 2).length = 96 ∧
      leAt (dieRec 2) 0 1 ≠ 1 ∧ (guestFailed.awake = true ∧ TablesOk guestFailed ∧ NoJobs guestFailed ∧ (guestFailed.die 5).failed = true ∧
        (guestFailed.die 5).up = false) ∧
      ((guestState false).die 4).up = false ∧ (4 < 5 ∧ leAt (dieRec 1) 3 1 ≠ 1) ∧ ((guestState false).die 3).up = true ∧
      7 < ((guestState false).die 3).modules) ∧
    ((guestState true).awake = true ∧ TablesOk (guestState true) ∧ Comes 7 (ctlMsg 0 0 0) [] (guestState true) ∧
      agentPort (ctlMsg 0 0 3).srca = some 0 ∧ agentPort (ctlMsg 0 0 3).dsta = none ∧ ((guestState true).die 0).txq = [] ∧ (ctlMsg 0 0 3).crpool ≤ 3 ∧
      (ctlMsg 0 0 3).crcnt ≠ 0 ∧ (ctlMsg 0 0 3).mdl < ((guestState true).die 0).credits.length ∧
      (nth [] ((guestState true).die 0).credits 0).length = 4 ∧ (nth [] ((guestState true).die 0).owed 0).length = 4 ∧
      (ctlMsg 0 0 3).mdl < ((guestState true).die 0).owed.length ∧ creditsOf ((guestState true).die 0).credits 0 2 ≠ 0 ∧
      creditsOf ((modDie 0 (fun q => { q with credits := [[4, 4, 0, 4]] }) (guestState true)).die 0).credits 0 2 = 0 ∧
      Comes 7 (ctlMsg 0 1 0) [] (guestState true) ∧ ((guestState true).die 5).guest.isSome = true ∧
      ((guestState true).die 5).up = true ∧ bit ((guestState true).die 5).cap 9 = true ∧ creditsOf ((guestState true).die 5).credits 0 2 ≠ 0 ∧
      ((guestState true).die 0).guest = none ∧ Comes 7 (ctlMsg 16 3 0) [] (guestState true) ∧ agentPort 16 = some 5 ∧
      pathUp (guestState true) guestRead = true ∧ breaks (guestState true) guestRead [] = true ∧ guestAgent guestRead.srca = true ∧
      guestRead.crcnt = 0 ∧ (recent (guestState true) ((guestState true).die 5).violations).length < 64 ∧ none ∈ (guestState true).glb.log ∧
      (guestBad.awake = true ∧ TablesOk guestBad ∧ pathUp guestBad guestRead = true ∧ breaks guestBad guestRead [] = true ∧
        64 ≤ (recent guestBad (guestBad.die 5).violations).length)) := by
  and_intros <;> decide +kernel

/-- Messages of CD0: a read of units, a write, a response, a commit acknowledgement. -/
def memMsg (cls addr ext len : Nat) : IxHdr := ⟨cls, 0, 0, 8, 5, 15, 0, len, addr, 0, ext, false, 0⟩
/-- The hub has a read and a write open at CD0. -/
def openState : State := modDie 0 (fun q => { q with openReqs := [(8, 0, 5, 0), (8, 0, 5, 1)] }) (dieUp base)
/-- A unit of memory is poisoned; the partner lacks MRSP SUB 0x2, or not. -/
def poisonState (cap : Nat) : State := modDie 0 (fun q => { q with cap := cap }) { dieUp base with poison := [0x1000] }
/-- Data of so many units. -/
def unitData (n : Nat) : List Byte := List.replicate (64 * n) 1

theorem witness_DieMemoryMessages :
    ((dieUp base).awake = true ∧ TablesOk (dieUp base) ∧ Comes 0 (memMsg 0 (fastTop - 64) 1 0) [] (dieUp base) ∧
      unitsOk (dieUp base) (memMsg 0 (fastTop - 64) 1 0) = true ∧ onePage (fastTop - 64) 1 = true ∧ inOneRange (fastTop - 64) (64 * 1) = true ∧
      anyPoison (dieUp base) (fastTop - 64) (64 * 1) = false ∧ openPort 0 8 = some 0 ∧ 0 < (dieUp base).dies.length ∧
      Comes 0 (memMsg 0 fastTop 64 0) [] (dieUp base) ∧ inOneRange fastTop (64 * 64) = false ∧ onePage 64 64 = false ∧
      Comes 0 { memMsg 0 0 1 0 with space := 1 } [] (dieUp base) ∧ unitsOk (dieUp base) (memMsg 0 0 65 0) = false ∧
      (TablesOk (poisonState 0x7FF) ∧ Comes 0 (memMsg 0 0x1000 1 0) [] (poisonState 0x7FF) ∧ anyPoison (poisonState 0x7FF) 0x1000 (64 * 1) = true ∧
        bothHave (poisonState 0x7FF) (memMsg 0 0x1000 1 0) 7 = true ∧ Comes 0 (memMsg 0 0x1000 1 0) [] (poisonState 0x77F) ∧
        bothHave (poisonState 0x77F) (memMsg 0 0x1000 1 0) 7 = false)) ∧
    (Comes 2 (memMsg 2 0x1000 0 64) (unitData 64) (dieUp base) ∧ onePage 0x1000 64 = true ∧ inOneRange 0x1000 (64 * 64) = true ∧
      onePage 0x1040 64 = false ∧ Comes 2 (memMsg 2 0x1040 0 64) (unitData 64) (dieUp base) ∧ Comes 2 (memMsg 2 0x1000 0 0) [] (dieUp base)) ∧
    (Comes 1 (memMsg 1 0 0 0) [] openState ∧ openState.awake = true ∧ TablesOk openState ∧ openPort 8 0 = some 0 ∧ isOpen openState 8 0 5 0 = true ∧
      isOpen openState 8 0 5 1 = true ∧ Comes 3 (memMsg 3 0 0 0) [] openState ∧ isOpen (dieUp base) 8 0 5 0 = false ∧
      isOpen (dieUp base) 8 0 5 1 = false ∧ none ∈ (dieUp base).glb.log) := by
  and_intros <;> decide +kernel

/-! ### Witnesses: the block, slots, records -/

theorem reset_tables : TablesOk State.reset := tablesOk_of (by decide +kernel)

theorem witness_IdleAdvancesTime : base.pending = [] ∧ base.pwr.powered = true ∧ dark.pending = [] ∧ dark.pwr.powered = false := by
  decide

theorem witness_TablesStayCanonical :
    TablesOk { base with pending := [.nop hd] } ∧ ∃ t, Machine.step { base with pending := [.nop hd] } = .next t :=
  ⟨tablesOk_of (by decide), _, rfl⟩

theorem witness_ResetValues : State.reset.live = false := by decide

theorem witness_BeforeReady : State.reset.awake = true ∧ State.reset.boot.ready = false ∧
    0x000FFC % 4 = 0 ∧ 0x100000 % 4 = 0 ∧ 0x100000 < barEnd ∧ 2 ^ 40 - 8 + 8 ≤ 2 ^ 40 := by decide

/-- A snapshot with every field at its largest value. -/
def bigSnap : SnapOps := ⟨3, 1, 15, 63, 1023, 4095, 2 ^ 64 - 1, 2 ^ 64 - 1, 1023, 2047⟩
/-- A copy with every field at its largest value. -/
def bigCopy : CopyOps := ⟨7, 15, 63, true, 2 ^ 24 - 1, 63, 2 ^ 64 - 1, 2 ^ 64 - 1, 2 ^ 64 - 1, 0xFFFF⟩
/-- Commands whose fields stand at the ends of their ranges. -/
def slotSamples : List Instr :=
  let h : HostHdr := ⟨3, 2 ^ 32 - 1, 0xFFFF, true⟩
  [.nop h, .fence h 15, .patternLoad h 15 (2 ^ 64 - 1) 0 1 (2 ^ 64 - 1), .patternUnload h 15, .contextStart h 0, .contextPreempt h 15,
    .contextResume h 15, .contextReset h 15, .stepBegin h 0xFFFF (2 ^ 40 - 1) 0xFFFF (2 ^ 32 - 1), .stepCommit h (2 ^ 40 - 1),
    .stepAbandon h 0, .snapshot h bigSnap, .copy h bigCopy [], .fill h (2 ^ 64 - 1) (2 ^ 64 - 1) (2 ^ 32 - 1),
    .flagSet h (2 ^ 24 - 1) 63, .flagClear h 0 63, .flagWait h (2 ^ 24 - 1) 63 true true (2 ^ 32 - 1), .flagWaitCancel h (2 ^ 32 - 1),
    .quiesce h, .resumeAll h, .linkControl h 15 15 0xFFFF]

theorem witness_HostSlotsAndLinkRecordsRoundTrip :
    (slotSamples.all fun i => (slotOfCommand i).isSome && i.wellFormed) = true ∧ (⟨0xFFFF, 2 ^ 40 - 1, 0xFFFF, 15⟩ : Stamp).ok = true ∧
    (⟨15, 15, 63, 2 ^ 24 - 1, true, true, 0xFFFF, 0xFFFF, 0xFFFF⟩ : FlagRec).ok = true ∧
    (⟨15, 255, 0xFFFF, 2 ^ 40 - 1, 2 ^ 32 - 1, true, true, 15, 1, 0xFFFF, false⟩ : XferHdr).ok = true ∧
    (⟨⟨0xFFFF, 2 ^ 40 - 1, 0xFFFF, 15⟩, 15, 0, 0xFFFF, 511, 2 ^ 32 - 1, 0xFFFF, 15, 1⟩ : QDesc).ok = true ∧
    (⟨⟨0xFFFF, 2 ^ 40 - 1, 0xFFFF, 15⟩, 0xFFFF, 1023, 255, 1, 2 ^ 21 - 1, 2 ^ 24 - 1⟩ : BatchHdr).ok = true ∧
    (⟨⟨0xFFFF, 2 ^ 40 - 1, 0xFFFF, 15⟩, 0xFFFF, 255, 511, 7, 2 ^ 21 - 1⟩ : RingHdr).ok = true := by decide +kernel

/-! ### Commands that are not well-formed -/

/-- A stamp of phase F. -/
def stp : Stamp := ⟨1, 2, 3, 0⟩

/-- One broken value for each check of each record. -/
theorem test_records_refused :
    ([⟨2 ^ 16, 0, 0, 0⟩, ⟨0, 2 ^ 40, 0, 0⟩, ⟨0, 0, 2 ^ 16, 0⟩, ⟨0, 0, 0, 16⟩] : List Stamp).all (fun r => !r.ok) = true ∧
    ([⟨4, 0, 0, false⟩, ⟨0, 2 ^ 32, 0, false⟩, ⟨0, 0, 2 ^ 16, false⟩] : List HostHdr).all (fun r => !r.ok) = true ∧
    ([{ bigSnap with what := 4 }, { bigSnap with dest := 2 }, { bigSnap with port := 16 }, { bigSnap with win := 64 },
      { bigSnap with region := 1024 }, { bigSnap with gen := 4096 }, { bigSnap with daddr := 2 ^ 64 }, { bigSnap with dlen := 2 ^ 64 },
      { bigSnap with entry := 1024 }, { bigSnap with nent := 2048 }] : List SnapOps).all (fun r => !r.ok) = true ∧
    ([{ bigCopy with kind := 8 }, { bigCopy with portCtx := 16 }, { bigCopy with win := 64 }, { bigCopy with vflag := 2 ^ 24 },
      { bigCopy with fctx := 64 }, { bigCopy with src := 2 ^ 64 }, { bigCopy with dst := 2 ^ 64 }, { bigCopy with length := 2 ^ 64 },
      { bigCopy with tok32 := 2 ^ 16 }] : List CopyOps).all (fun r => !r.ok) = true ∧
    bigSnap.ok = true ∧ bigCopy.ok = true := by decide +kernel

def tw0 : TileWords := ⟨false, false, false, 0, 1, 1, 1, 0, 0, 0, 1, 0, 1, 2, 0⟩
def vw0 : VecWords := ⟨1, 1, 1, 0, 0, 32, 0, 0, 1, 2, 3⟩
def fw0 : FlagWords := ⟨false, false, false, false, 0, 0, 0, 0⟩

theorem test_words_refused :
    ([{ tw0 with eng := 2 }, { tw0 with fmtA := 16 }, { tw0 with fmtB := 16 }, { tw0 with fmtC := 16 }, { tw0 with sparse := 8 },
      { tw0 with mlog := 8 }, { tw0 with nlog := 8 }, { tw0 with kb := 2 ^ 24 }, { tw0 with ta := 2 ^ 16 }, { tw0 with tb := 2 ^ 16 },
      { tw0 with tc := 2 ^ 16 }, { tw0 with arrays := 256 }] : List TileWords).all (fun r => !r.ok) = true ∧
    ([{ vw0 with fmtA := 16 }, { vw0 with fmtB := 16 }, { vw0 with fmtC := 16 }, { vw0 with units := 16 }, { vw0 with sub := 256 },
      { vw0 with rowlen := 2 ^ 24 }, { vw0 with cst := 256 }, { vw0 with ta := 2 ^ 16 }, { vw0 with tb := 2 ^ 16 },
      { vw0 with tc := 2 ^ 16 }, { vw0 with td := 2 ^ 16 }] : List VecWords).all (fun r => !r.ok) = true ∧
    ([{ fw0 with vflag := 2 ^ 24 }, { fw0 with fctx := 64 }, { fw0 with dest := 256 }, { fw0 with vcmask := 2 ^ 16 }]
      : List FlagWords).all (fun r => !r.ok) = true ∧
    tw0.ok = true ∧ vw0.ok = true ∧ fw0.ok = true := by decide +kernel

def fr0 : FlagRec := ⟨0, 0, 0, 0, false, false, 0, 0, 0⟩
def xh0 : XferHdr := ⟨0, 0, 0, 0, 0, false, false, 0, 0, 0, false⟩
def qd0 : QDesc := ⟨stp, 0, 0, 0, 0, 0, 0, 0, 0⟩
def bh0 : BatchHdr := ⟨stp, 0, 0, 0, 0, 0, 0⟩
def rh0 : RingHdr := ⟨stp, 0, 0, 0, 0, 0⟩
def gh0 : GatherHdr := ⟨stp, 0, 0, 0, 0, 0, 0⟩
def ph0 : PartialHdr := ⟨stp, 0, 0, 0, 0, 0, 0, 0, 0, 0, 0, false⟩
def ix0 : IxHdr := ⟨0, 0, 0, 0, 0, 0, 0, 0, 0, 0, 0, false, 0⟩
def badStamp : Stamp := ⟨0, 0, 0, 16⟩

theorem test_headers_refused :
    ([{ fr0 with op := 16 }, { fr0 with status := 16 }, { fr0 with fctx := 64 }, { fr0 with vflag := 2 ^ 24 },
      { fr0 with vcmask := 2 ^ 16 }, { fr0 with seq := 2 ^ 16 }, { fr0 with wtag := 2 ^ 16 }] : List FlagRec).all (fun r => !r.ok) = true ∧
    ([{ xh0 with tkind := 16 }, { xh0 with win := 256 }, { xh0 with seq := 2 ^ 16 }, { xh0 with offset := 2 ^ 40 },
      { xh0 with bytes := 2 ^ 32 }, { xh0 with ctx := 16 }, { xh0 with q := 2 }, { xh0 with count := 2 ^ 16 }]
      : List XferHdr).all (fun r => !r.ok) = true ∧
    ([{ qd0 with stamp := badStamp }, { qd0 with kind := 16 }, { qd0 with src := 256 }, { qd0 with tok32 := 2 ^ 16 }, { qd0 with texp := 512 },
      { qd0 with bytes := 2 ^ 32 }, { qd0 with buf := 2 ^ 16 }, { qd0 with ctx := 16 }, { qd0 with q := 2 }]
      : List QDesc).all (fun r => !r.ok) = true ∧
    ([{ bh0 with stamp := badStamp }, { bh0 with router := 2 ^ 16 }, { bh0 with expert := 1024 }, { bh0 with src := 256 }, { bh0 with dir := 2 },
      { bh0 with count := 2 ^ 21 }, { bh0 with rowbytes := 2 ^ 24 }] : List BatchHdr).all (fun r => !r.ok) = true ∧
    ([{ rh0 with stamp := badStamp }, { rh0 with layer := 2 ^ 16 }, { rh0 with origin := 256 }, { rh0 with hop := 512 }, { rh0 with kind := 8 },
      { rh0 with tokens := 2 ^ 21 }] : List RingHdr).all (fun r => !r.ok) = true ∧
    ([{ gh0 with stamp := badStamp }, { gh0 with region := 2 ^ 16 }, { gh0 with gen := 4096 }, { gh0 with kind := 16 }, { gh0 with src := 1024 },
      { gh0 with offset := 2 ^ 64 }, { gh0 with bytes := 2 ^ 32 }] : List GatherHdr).all (fun r => !r.ok) = true ∧
    ([{ ph0 with stamp := badStamp }, { ph0 with bucket := 2 ^ 16 }, { ph0 with grp := 8 }, { ph0 with prec := 2 }, { ph0 with kind := 16 },
      { ph0 with src := 1024 }, { ph0 with owner := 1024 }, { ph0 with ncontrib := 2 ^ 16 }, { ph0 with first := 2 ^ 32 },
      { ph0 with count := 2 ^ 32 }, { ph0 with esize := 2 ^ 32 }] : List PartialHdr).all (fun r => !r.ok) = true ∧
    ([{ ix0 with cls := 16 }, { ix0 with sub := 16 }, { ix0 with srca := 256 }, { ix0 with dsta := 256 }, { ix0 with tid := 4096 },
      { ix0 with crpool := 16 }, { ix0 with crcnt := 256 }, { ix0 with len64 := 256 }, { ix0 with addr := 2 ^ 40 }, { ix0 with space := 4 },
      { ix0 with ext := 2 ^ 22 }] : List IxHdr).all (fun r => !r.ok) = true := by decide +kernel

theorem test_well_formed_headers : fr0.ok && xh0.ok && qd0.ok && bh0.ok && rh0.ok && gh0.ok && ph0.ok && ix0.ok && goodEnv.ok = true := by
  decide +kernel

/-- A header, stamp, tile words, vector words and flag words, each with one field too wide. -/
def hdBad : HostHdr := { hd with ring := 4 }
def twBad : TileWords := { tw0 with eng := 2 }
def vwBad : VecWords := { vw0 with units := 16 }
def fwBad : FlagWords := { fw0 with fctx := 64 }

theorem test_host_commands_refused :
    ([.nop hdBad, .fence hd 16, .patternLoad hd 16 0 0 0 0, .patternLoad hd 0 (2 ^ 64) 0 0 0, .patternUnload hd 16, .contextStart hd 16,
      .contextPreempt hd 16, .contextResume hd 16, .contextReset hd 16, .stepBegin hd (2 ^ 16) 0 1 0, .stepBegin hd 0 (2 ^ 40) 1 0,
      .stepBegin hd 0 0 (2 ^ 16) 0, .stepBegin hd 0 0 1 (2 ^ 32), .stepCommit hd (2 ^ 40), .stepAbandon hd (2 ^ 40),
      .snapshot hd { bigSnap with what := 4 }, .copy hd { bigCopy with kind := 8 } [], .fill hd (2 ^ 64) 0 0, .fill hd 0 0 (2 ^ 32),
      .flagSet hd (2 ^ 24) 0, .flagClear hd 0 64, .flagWait hd 0 0 true true (2 ^ 32), .flagWaitCancel hd (2 ^ 32), .quiesce hdBad,
      .resumeAll hdBad, .linkControl hd 16 0 0, .linkControl hd 0 16 0, .linkControl hd 0 0 (2 ^ 16), .copyComplete hdBad,
      .snapshotComplete hdBad, .hostFlagWaitTimeout hdBad] : List Instr).all (fun i => !i.wellFormed) = true := by decide +kernel

theorem test_host_rows_refused :
    ([.submissionSlotAccept 4, .ringDoorbell 0 4096, .staleSlotReread 4, .doorbellEarly 4, .ringEnable 0 16, .ringDisable 4,
      .hwgenWrite (2 ^ 32), .urgentRingStop 4, .urgentPreempt 16, .urgentReset 16, .registerWrite 2 [(0, 15)], .registerWrite 0 [],
      .registerWrite 0 [(0, 16)], .registerWrite (2 ^ 26) [(0, 15)], .irqMaskWrite (2 ^ 16), .glbRstModule (2 ^ 32) goodEnv,
      .powerDown (2 ^ 32), .strEvtArm 16 0, .strEvtDisarm 16 0, .strEvtFire 16, .censusClearAll 4 false, .censusClearOne 0 4096 false,
      .flagMapValidate 64 0, .flagMapValidate 0 16, .flagMapInvalidate 64, .ownerlostClear 64, .directQuery (2 ^ 24) 0, .directSet 0 64,
      .directClear 0 64, .directClearOverrun 0 64, .linkEnable 16, .linkDisable 16, .linkRetrain 16, .portReset 16,
      .committedStepWrite (2 ^ 40), .updEntryValidate 1024 0, .updEntryInvalidate 1024, .clockFloorWrite 4 0, .clockFloorWrite 0 8,
      .hdmRead (2 ^ 64) 0, .hdmWrite (2 ^ 64) [], .registerRead 0 0, .registerRead 2 1] : List Instr).all
      (fun i => !i.wellFormed) = true := by decide +kernel

theorem test_tile_and_flag_instructions_refused :
    ([.tmmF 16 stp 0 tw0, .tmmF 0 badStamp 0 tw0, .tmmF 0 stp (2 ^ 16) tw0, .tmmF 0 stp 0 twBad, .tmmB 0 stp 0 twBad, .tmmW 0 stp 0 twBad,
      .fset 0 stp 0 fwBad, .fclr 0 stp 0 fwBad, .fwait 0 stp 0 fwBad] : List Instr).all (fun i => !i.wellFormed) = true := by decide +kernel

theorem test_vector_instructions_refused :
    ([.vadd 0 stp 0 vwBad, .vsub 0 stp 0 vwBad, .vmul 0 stp 0 vwBad, .vfma 0 stp 0 vwBad, .vdiv 0 stp 0 vwBad, .vsqrt 0 stp 0 vwBad,
      .vmin 0 stp 0 vwBad, .vmax 0 stp 0 vwBad, .vcvt 0 stp 0 vwBad, .vfunc 0 stp 0 vwBad, .vsum 0 stp 0 vwBad, .vmaxr 0 stp 0 vwBad,
      .vlnorm 0 stp 0 vwBad, .vrnorm 0 stp 0 vwBad, .vsmx 0 stp 0 vwBad, .vsmxm 0 stp 0 vwBad, .vtopk 0 stp 0 vwBad, .vcount 0 stp 0 vwBad,
      .vscan 0 stp 0 vwBad, .vgather 0 stp 0 vwBad, .vscatter 0 stp 0 vwBad, .vialu 0 stp 0 vwBad, .vrand 0 stp 0 vwBad,
      .vdrop 0 stp 0 vwBad] : List Instr).all (fun i => !i.wellFormed) = true := by decide +kernel

theorem test_compute_rows_refused :
    ([.instructionComplete 0 stp (2 ^ 16), .arrayCheckFail 4 0 0, .arrayCheckFail 0 40 0, .spareCheckFail 0 0 16, .tempoBlockOrigin 16 0 0,
      .phaseFStart 16, .phaseXStart 0 badStamp, .phaseBStart 16, .phaseWStart 0 (2 ^ 40) 0, .phaseWStart 0 0 (2 ^ 16), .offloadComplete 16 stp,
      .offloadFetchBack 0 badStamp, .fetchBackComplete 16 stp, .moeDispatch 0 (2 ^ 16) stp, .moeBatchArrival (some 16) 0 0 bh0 [] [],
      .moeBatchArrival none 0 (2 ^ 16) bh0 [] [], .moeBatchArrival none 0 0 bh0 [2 ^ 32] [], .ringBlockArrival 0 16 0 rh0 [],
      .queueEntryArrival 0 0 (2 ^ 16) 0 0 qd0 [], .queueEntryArrival 0 0 0 16 0 qd0 [], .queueEntryArrival 0 0 0 0 2 qd0 [],
      .queueCreditReturn 0 0 0 0 [2 ^ 16], .gatherRequest 16 0 gh0, .gatherResponse 0 (2 ^ 16) gh0 [], .contextWaitWarn 16,
      .contextWaitStop 16, .irqHoldoffExpiry 16] : List Instr).all (fun i => !i.wellFormed) = true := by decide +kernel

theorem test_link_rows_refused :
    ([.windowWrite 0 16 0 0 xh0 [], .windowWrite 0 0 0 (2 ^ 16) xh0 [], .transferCommit 0 0 (some { qd0 with q := 2 }) none,
      .transferCommit 0 0 none (some { fr0 with op := 16 }), .fenceMarker 0 0 (2 ^ 16), .fencedRecordApply 16 fr0, .remoteFlagSet 16 fr0,
      .remoteFlagClear 16 fr0, .remoteWaitFor1 16 fr0, .remoteWaitFor0 16 fr0, .remoteWaitCancel 0 (2 ^ 16), .remoteWake 16 fr0,
      .linkPause 0 (2 ^ 16), .linkResume 16 0, .flitReceive 0 [0] false 0 0, .flitTransmit 16, .replayTimer 16, .deliveryBoundExpiry 16,
      .creditStall 0 16, .laneFail 0 5, .retrainTimeout 16, .linkTrainingStart 0 32 0, .linkTrainingStart 0 0 32, .trainingRecordReceived 0 [],
      .trainingTimeout 16, .authMessageReceived 16 [], .authTimeout 16, .reductionPartialArrival 16 0 0 ph0 [], .segmentTimeout 6 0 0 0,
      .segmentTimeout 0 0 0 2, .farCompress (2 ^ 16) 0 0, .restoreComplete 1024] : List Instr).all (fun i => !i.wellFormed) = true := by
  decide +kernel

theorem test_die_boot_rows_refused :
    ([.uncorrectableMemoryError (.hdm (2 ^ 64)) none, .correctedMemoryError (.opbuf 4 0) none, .correctedMemoryError (.staging (2 ^ 32)) none,
      .correctedMemoryError (.updSram (2 ^ 32)) none, .iluxaNegotiationRecord 21 [], .iluxaNegotiationTimeout 21,
      .iluxaModuleRetrainTimeout 0 8, .mrd { ix0 with cls := 16 }, .mrsp { ix0 with tid := 4096 } [], .mwr { ix0 with space := 4 } [],
      .mack { ix0 with ext := 2 ^ 22 }, .iluxaFlag { ix0 with addr := 2 ^ 40 }, .qent { ix0 with srca := 256 } [],
      .redData { ix0 with dsta := 256 } [], .redEmptyTileMarker { ix0 with len64 := 256 } [], .ctlCreditReturn { ix0 with crcnt := 256 },
      .ctlErrorReport { ix0 with crpool := 16 } [], .ctlDrainRequest 21, .ctlDrainDone { ix0 with sub := 16 },
      .powerOn { goodEnv with dieFail := some 16 }, .powerOn { goodEnv with arrayFail := [(0, 40)] },
      .powerOn { goodEnv with badSlices := [(4, 0, 0)] }, .powerRemoval (.trip 16), .bootStepTimeout 16, .hostLoss 16, .tempSample 16 0 false,
      .tempSample 0 4096 false, .thermalTick (2 ^ 16) 0, .clockLevelApply 4, .imgBegin .doe (2 ^ 32), .imgData .doe (2 ^ 32) [],
      .imgCommitComplete true { goodEnv with memFail := some 16 }, .moduleReset .doe { goodEnv with idFail := some 16 },
      .negotiateAlgorithms .doe (2 ^ 32) 0, .getCertificate .doe 16 0 0, .challenge .doe 16 0, .challenge .doe 0 (2 ^ 256),
      .getMeasurements .doe 256 0, .pldmSensorRead (2 ^ 16), .resetPinRelease .modRst { goodEnv with sramFail := some 16 }]
      : List Instr).all (fun i => !i.wellFormed) = true := by decide +kernel

/-! ### Words and values from the manual -/

/-- Slots written out byte by byte from R416 and R425: OPCODE in byte 0, IRQ in bit 8, SSTAMP 1, TAG 7. -/
def slotOf_ (op : Nat) (operands : List (Nat × Nat)) : Nat :=
  op + 256 + 1 * 0x10000 + 7 * 0x100000000 + sumNat (operands.map fun o => o.2 * 256 ^ o.1)

theorem test_slots_decode :
    slotCommand 0x0000_0007_0001_0101 hd = some (.nop hd) ∧ slotCommand (slotOf_ 0x02 [(8, 0xA)]) hd = some (.fence hd 0xA) ∧
    slotCommand (slotOf_ 0x10 [(8, 5), (16, 0x40), (24, 1), (32, 2), (40, 3)]) hd = some (.patternLoad hd 5 0x40 1 2 3) ∧
    ([0x11, 0x12, 0x13, 0x14, 0x15].map fun op => slotCommand (slotOf_ op [(8, 15)]) hd) =
      [.patternUnload hd 15, .contextStart hd 15, .contextPreempt hd 15, .contextResume hd 15, .contextReset hd 15].map some ∧
    slotCommand (slotOf_ 0x20 [(8, 3), (16, 1204), (24, 64), (28, 0x3F800000)]) hd = some (.stepBegin hd 3 1204 64 0x3F800000) ∧
    slotCommand (slotOf_ 0x21 [(16, 9)]) hd = some (.stepCommit hd 9) ∧ slotCommand (slotOf_ 0x22 [(16, 9)]) hd = some (.stepAbandon hd 9) ∧
    slotCommand (slotOf_ 0x30 [(8, 3 + 4), (9, 2), (10, 7), (12, 8), (14, 9), (16, 10), (24, 11), (32, 12), (34, 13)]) hd =
      some (.snapshot hd ⟨3, 1, 2, 7, 8, 9, 10, 11, 12, 13⟩) ∧
    slotCommand (slotOf_ 0x40 [(8, 3), (9, 4), (10, 5), (11, 1), (12, 6), (15, 7), (16, 8), (24, 9), (32, 10), (40, 11)]) hd =
      some (.copy hd ⟨3, 4, 5, true, 6, 7, 8, 9, 10, 11⟩ []) ∧
    slotCommand (slotOf_ 0x41 [(16, 1), (24, 2), (32, 3)]) hd = some (.fill hd 1 2 3) := by decide +kernel

theorem test_flag_and_link_slots_decode :
    slotCommand (slotOf_ 0x50 [(8, 0x4011), (11, 3)]) hd = some (.flagSet hd 0x4011 3) ∧
    slotCommand (slotOf_ 0x51 [(8, 0x4011), (11, 3)]) hd = some (.flagClear hd 0x4011 3) ∧
    slotCommand (slotOf_ 0x52 [(8, 1), (11, 2), (12, 3), (16, 50)]) hd = some (.flagWait hd 1 2 true true 50) ∧
    slotCommand (slotOf_ 0x52 [(1, 2), (20, 77)]) hd = some (.flagWaitCancel hd 77) ∧
    slotCommand (slotOf_ 0x60 []) hd = some (.quiesce hd) ∧ slotCommand (slotOf_ 0x61 []) hd = some (.resumeAll hd) ∧
    slotCommand (slotOf_ 0x70 [(8, 7), (9, 2), (10, 0x4000)]) hd = some (.linkControl hd 7 2 0x4000) ∧
    slotCommand (slotOf_ 0x03 []) hd = none ∧ slotCommand (slotOf_ 0x01 [(63, 1)]) hd = none ∧
    slotCommand (slotOf_ 0x50 [(1, 2)]) hd = none := by decide +kernel

/-- The stamp (3, 1,204, 37, B) of R37, and its low 64 bits. -/
theorem test_stamp : packStamp ⟨3, 1204, 37, 1⟩ = 0x0003_0000_0004_B400_2510 ∧ low64 ⟨3, 1204, 37, 1⟩ = 0x0000_0004_B400_2510 := by decide

/-- Generations across the wrap (R61). -/
theorem test_generations : genNewer 0x000 0xFFE = true ∧ genNewer 0xFFE 0x000 = false ∧ genNewer 0x001 0xFFF = true := by decide

/-- The MXFP8 block of the example after R124: 52.7, 0.00310 and -1.00e-9 under T = 1. -/
theorem test_mxfp8 :
    let b := mxEncode 4 1 [fvDiv (fvInt 527) (fvInt 10), fvDiv (fvInt 31) (fvInt 10000), fvDiv (fvInt (-1)) (fvInt 1000000000)]
    b.scale = 0x7D ∧ b.codes = [0x7D, 0x0D, 0x80] ∧ b.sats = 0 := by decide +kernel

/-- 1.0 + 2^-70 - 1.0 in either order (R356), and the header of B's escaped partial (R361). -/
theorem test_reduction :
    (((widenPrec 0 0x3F80).add (widenPrec 0 0x1C80)).add (widenPrec 0 0xBF80)).finish = 0x1C80_0000 ∧
    (((widenPrec 0 0xBF80).add (widenPrec 0 0x3F80)).add (widenPrec 0 0x1C80)).finish = 0x1C80_0000 ∧
    (xwEncode ((widenPrec 0 0x3F80).add (widenPrec 0 0x1C80))).take 2 = [0x00, 0x30] ∧
    (xwEncode ((widenPrec 0 0x3F80).add (widenPrec 0 0x1C80))).length = 42 := by decide +kernel

/-- Contexts 0 and 1 on CD1 with REQ 4 and 8, WANT 12 and 24; `bad` are the failed arrays. -/
def sharing (bad : List Nat) : State :=
  let c : Ctx := { Ctx.none with state := .running, pat := { Pattern.none with decl := 4 * 2 ^ 8 + 12 * 2 ^ 12 + 8 * 2 ^ 16 + 24 * 2 ^ 21 }, die := 1 }
  let s := { base with cmps := modNth (selfTest bad) base.cmps 1 }
  modCtx 1 (fun _ => c) (modCtx 0 (fun _ => c) s)

/-- The example after R261: 6 and 6 forward, 12 and 12 backward; with three failed backward arrays 12 and 11; with eleven, 15 are active. -/
theorem test_sharing :
    allotment (sharing []) 1 0 = [(0, 6), (1, 6)] ∧ allotment (sharing []) 1 1 = [(0, 12), (1, 12)] ∧
    allotment (sharing [13, 14]) 1 1 = [(0, 12), (1, 12)] ∧ allotment (sharing [13, 14, 15]) 1 1 = [(0, 12), (1, 11)] ∧
    ((sharing (List.range' 13 11)).cmp 1).active 1 = 15 := by decide +kernel

/-- Flag context 3 of the example after R279: one run on CD1 and one, exported, on the hub. -/
def mapped : State :=
  let e := fun vbase np die page x => vbase / 64 * 2 ^ 6 + die * 2 ^ 32 + b2n x * 2 ^ 35 + page * 2 ^ 40 + np * 2 ^ 52
  let f : FlagMap := ⟨0, 2, 3, true, false, false, 0⟩
  { base with flg := { base.flg with maps := modNth (fun _ => f) base.flg.maps 3,
                                     store := [(0, e 0 3 1 0x0A0 false), (1, e 0x400000 0 4 0x200 true)] } }

theorem test_flag_translation :
    translate mapped 3 0xC5 = some (flagKey 1 10437, false) ∧ translate mapped 3 0x400011 = some (flagKey 4 32785, true) ∧
    translate mapped 3 0x100 = none := by decide +kernel

/-- Images A and B of the example after R470. -/
theorem test_fuses :
    let f := State.reset.boot.fuses
    let a := (applyFuse 0 1 f (1, 1, 0x11)).bind fun f => applyFuse 0 1 f (4, 1, 0)
    let b := a.bind fun f => (applyFuse 1 2 f (3, 0, 0)).bind fun f => applyFuse 1 2 f (4, 2, 0)
    (a.map fun f => (f.owner, f.svn)) = some ([0x11, 0, 0, 0], 1) ∧ (b.map fun f => (f.rootOff, f.svn)) = some (true, 2) := by decide +kernel

/-- The check value of CRC-32 (outside the manual). -/
theorem test_crc32 : crc32 (([0x31, 0x32, 0x33, 0x34, 0x35, 0x36, 0x37, 0x38, 0x39] : List Nat).map (BitVec.ofNat 8)) = 0xCBF43926 := by
  decide +kernel

/-- SHA-384 of "abc" (FIPS 180-4), its first eight bytes. -/
theorem test_sha384 : (sha384 [0x61, 0x62, 0x63]).take 8 = [0xCB, 0x00, 0x75, 0x3F, 0x45, 0xA3, 0x5E, 0x8B] := by decide +kernel

/-- Philox4x32-10 on the all-zero counter and key (the generator's published test value). -/
theorem test_philox : philox 10 0 0 (0, 0, 0, 0) = (0x6627E8D5, 0xE169C58D, 0xBC57AC4C, 0x9B00DBD8) := by decide +kernel

/-- Capacity of the example after R188: E = 64, k = 2, CF = 0x0140, T = 4,096; 1,195 rows pad to 1,216, 1,280 in fixed tempo. -/
theorem test_capacity :
    let c : Ctx := { Ctx.none with pat := { Pattern.none with routers := [[63 + 1 * 2 ^ 10 + 0x0140 * 2 ^ 16, 7 * 2 ^ 10]] } }
    c.capacity 0 4096 = 160 ∧ inputRows c 0 1195 = 1216 ∧ c.nSources 0 = 8 := by decide +kernel

/-- Slot 0 of the log after the discarded window write of the example of GLB_ERR_LOG: event 0x0C, status 0x0B, agent 0x08, VALID. -/
theorem test_log_word :
    liveWord (placeEntry base ⟨0, 0x0C, 0x0B, 8, 0, none, 7, 0x1F, 0x0005002A⟩) 0x000080 = 0x80080B0C := by decide +kernel

/-- R345: CORR stops at 0xF_FFFF and UNCORR counts beside it; a port that is DOWN counts nothing. -/
theorem test_codewords_count :
    let s := countCodewords 3 0x100000 2 (modPort 3 (fun q => { q with state := .training }) State.reset)
    fld s (oLnk 3 0x208) 0 20 = 0xFFFFF ∧ fld s (oLnk 3 0x208) 20 12 = 2 ∧ countCodewords 3 5 2 State.reset = State.reset := by
  decide +kernel

/-- R429: a CONTEXT_RESUME accepted behind a CONTEXT_PREEMPT leaves the context running; a STEP_COMMIT behind one that waits takes its
turn when the pass completes; R445: a CTL message of one unit and no data returns one credit of pool 2. -/
theorem test_turns_and_credits :
    (match Machine.exec (.instructionComplete 15 (st0 phF) 0) laterState with
      | .next t => (t.ctx 15).state = .running ∧ t.hif.ctxJobs = []
      | _ => False) ∧
    (match Machine.exec .updatePassComplete turnWaits with
      | .next t => t.upd.committed = 1 ∧ t.upd.commits = [] ∧ t.upd.stepWait = []
      | _ => False) ∧
    (match Machine.exec (.ctlErrorReport (ctlMsg 0 1 0) []) (guestState true) with
      | .next t => t.out = [.ix 0 [7, 8, 4, 0, 0x20, 1, 0, 0, 0, 0, 0, 0, 0, 0, 0, 0]] ∧ creditsOf (t.die 0).credits 0 2 = 3
      | _ => False) := by
  and_intros <;> decide +kernel

end Sys2Proof.Tests
end

namespace Sys2Proof.Machine

/-! ### Bit fields -/

/-- Two adjacent fields read as one. -/
theorem bits_append (v lo n m : Nat) : bits v lo (n + m) = bits v lo n + 2 ^ n * bits v (lo + n) m := by
  rw [bits_eq, bits_eq, bits_eq, Nat.pow_add, Nat.mod_mul, Nat.div_div_eq_div_mul, ← Nat.pow_add]

theorem bits_or (a b lo n : Nat) : bits (a ||| b) lo n = bits a lo n ||| bits b lo n := by
  rw [bits, Nat.shiftRight_or_distrib, Nat.or_mod_two_pow, bits, bits]

theorem bits_one (v i : Nat) : bits v i 1 = b2n (bit v i) := by
  rw [bits_eq, bit, Nat.testBit_eq_decide_div_mod_eq, b2n]
  have := Nat.mod_two_eq_zero_or_one (v / 2 ^ i)
  split <;> simp_all

/-- A field of a register word is not cut by the width of the word. -/
theorem bits_mod_word (v : Nat) {lo n : Nat} (h : lo + n ≤ 32) : bits (v % 2 ^ 32) lo n = bits v lo n := by
  apply Nat.eq_of_testBit_eq
  intro i
  simp only [bits, Nat.testBit_mod_two_pow, Nat.testBit_shiftRight]
  by_cases hi : i < n
  · simp [hi, show lo + i < 32 by omega]
  · simp [hi]

theorem putBits_self (v lo n : Nat) : putBits v lo n (bits v lo n) = v := by
  rw [putBits_eq, Nat.mod_eq_of_lt (bits_lt v lo n)]
  exact (cut_at v lo n).symm

/-- One bit of a number, in its place. -/
theorem and_bit (v i : Nat) : v &&& 2 ^ i = bits v i 1 <<< i := by
  rw [bits_one, bit]
  apply Nat.eq_of_testBit_eq
  intro j
  rw [Nat.testBit_and, Nat.testBit_two_pow]
  by_cases e : i = j
  · subst e
    cases v.testBit i <;> simp [b2n]
  · cases v.testBit i <;> simp [b2n, e, Nat.shiftLeft_eq]

/-- Clearing one bit of a number. -/
theorem sub_and_bit (v i : Nat) : v - (v &&& 2 ^ i) = putBits v i 1 0 := by
  rw [putBits, and_bit, Nat.zero_mod, Nat.zero_shiftLeft, Nat.add_zero]

/-! ### Software writes of fields (R10, R11) -/

section
variable (locked : Bool) {en v : Nat} {f : Fld}

theorem writeField_is_put (w : Nat) : ∃ x, writeField locked en v w f = putBits w f.lo f.n x := by
  have same : w = putBits w f.lo f.n (bits w f.lo f.n) := (putBits_self w f.lo f.n).symm
  obtain ⟨lo, n, acc, r⟩ := f
  cases acc with
  | ro => exact ⟨_, same⟩
  | rc => exact ⟨_, same⟩
  | rw => exact ⟨_, rfl⟩
  | w1c => exact ⟨_, rfl⟩
  | w1s => exact ⟨_, rfl⟩
  | rwl =>
    cases locked with
    | false => exact ⟨_, rfl⟩
    | true => exact ⟨_, same⟩

/-- A field outside the mask keeps its value. -/
theorem writeField_masked (h : bits en f.lo f.n = 0) (w : Nat) : writeField locked en v w f = w := by
  have same := putBits_self w f.lo f.n
  obtain ⟨lo, n, acc, r⟩ := f
  cases acc <;> simp_all [writeField]

/-- Zeros written to a W1C field clear nothing. -/
theorem writeField_w1c_zero (ha : f.acc = .w1c) (h : bits v f.lo f.n = 0) (w : Nat) : writeField locked en v w f = w := by
  simp [writeField, ha, h, putBits_self]

/-- An RW field under a full mask takes the value written. -/
theorem bits_writeField_rw (ha : f.acc = .rw) (he : bits en f.lo f.n = 2 ^ f.n - 1) (w : Nat) :
    bits (writeField locked en v w f) f.lo f.n = bits v f.lo f.n := by
  simp [writeField, ha, he, bits_putBits_same, Nat.and_two_pow_sub_one_eq_mod, Nat.mod_eq_of_lt (bits_lt _ f.lo f.n)]

/-- Bits that every field written either lies outside of or leaves alone keep their value. -/
theorem bits_writes_kept {l : List Fld} {lo n : Nat}
    (h : ∀ f ∈ l, (lo + n ≤ f.lo ∨ f.lo + f.n ≤ lo) ∨ ∀ w, writeField locked en v w f = w) (w : Nat) :
    bits (l.foldl (writeField locked en v) w) lo n = bits w lo n := by
  induction l generalizing w with
  | nil => rfl
  | cons a t ih =>
    rw [List.foldl_cons, ih fun f hf => h f (List.mem_cons_of_mem a hf)]
    rcases h a List.mem_cons_self with apart | same
    · obtain ⟨x, hx⟩ := writeField_is_put locked (en := en) (v := v) (f := a) w
      rw [hx, bits_putBits_other w x apart]
    · rw [same]

/-- Of the fields of a word, in rising order, an RW field under a full mask takes the value written. -/
theorem bits_writes_rw {l : List Fld} (hl : l.Pairwise fun a b => a.lo + a.n ≤ b.lo) (hf : f ∈ l) (ha : f.acc = .rw)
    (he : bits en f.lo f.n = 2 ^ f.n - 1) (w : Nat) :
    bits (l.foldl (writeField locked en v) w) f.lo f.n = bits v f.lo f.n := by
  induction l generalizing w with
  | nil => cases hf
  | cons a t ih =>
    obtain ⟨above, ht⟩ := List.pairwise_cons.1 hl
    rcases List.mem_cons.1 hf with rfl | hf
    · rw [List.foldl_cons, bits_writes_kept locked fun g hg => .inl (.inl (above g hg)), bits_writeField_rw locked ha he]
    · exact ih ht hf _

end

/-! ### Registers -/

theorem regGet_lt (s : State) (off : Nat) : regGet s off < 2 ^ 32 := BitVec.isLt _

theorem setFld_wf {s : State} (h : tabWf resetWord s.regs = true) (off lo n v : Nat) :
    tabWf resetWord (setFld off lo n v s).regs = true := regPut_wf h off _

/-- Hardware's write of a field is read back. -/
theorem fld_setFld_same {s : State} (h : tabWf resetWord s.regs = true) (off v : Nat) {lo n : Nat} (hn : lo + n ≤ 32) :
    fld (setFld off lo n v s) off lo n = v % 2 ^ n := by
  rw [fld, setFld, regGet_put_same h, bits_mod_word _ hn, bits_putBits_same]

/-- Hardware's write of a field leaves the other fields of the register alone. -/
theorem fld_setFld_apart {s : State} (h : tabWf resetWord s.regs = true) (off v : Nat) {lo n lo' n' : Nat}
    (hn : lo' + n' ≤ 32) (apart : lo' + n' ≤ lo ∨ lo + n ≤ lo') :
    fld (setFld off lo n v s) off lo' n' = fld s off lo' n' := by
  rw [fld, setFld, regGet_put_same h, bits_mod_word _ hn, bits_putBits_other _ _ apart, fld]

/-- Hardware clears a field. -/
theorem fld_setFld_zero {s : State} (h : tabWf resetWord s.regs = true) (off : Nat) {lo n : Nat} (hn : lo + n ≤ 32) :
    fld (setFld off lo n 0 s) off lo n = 0 :=
  (fld_setFld_same h off 0 hn).trans (Nat.zero_mod _)

theorem fld_setBit_same {s : State} (h : tabWf resetWord s.regs = true) (off : Nat) {i : Nat} (hi : i < 32) :
    fld (setBit off i s) off i 1 = 1 :=
  fld_setFld_same h off 1 hi

end Sys2Proof.Machine

namespace Sys2Proof
open Machine

theorem Quiet.fld {s t : State} (h : Quiet s t) {off : Nat} (q : quietReg off) (lo n : Nat) :
    fld t off lo n = fld s off lo n := by
  rw [Machine.fld, h off q, Machine.fld]

theorem onlyReg_regPut (off v : Nat) (s : State) : OnlyReg off s (regPut off v s) := fun _ ho _ => regGet_put_other s v ho

theorem onlyReg_setFld (off lo n v : Nat) (s : State) : OnlyReg off s (setFld off lo n v s) := onlyReg_regPut off _ s

theorem OnlyReg.trans {off : Nat} {s t u : State} (h : OnlyReg off s t) (g : OnlyReg off t u) : OnlyReg off s u :=
  fun o ho qo => (g o ho qo).trans (h o ho qo)

theorem OnlyReg.quiet {off : Nat} {s t u : State} (h : OnlyReg off s t) (q : Quiet t u) : OnlyReg off s u :=
  h.trans fun o _ qo => q o qo

section
variable {s t : State} (h : HostOnly s t)
include h
theorem HostOnly.flg : t.flg = s.flg := by rw [h.1]
theorem HostOnly.str : t.str = s.str := by rw [h.1]
theorem HostOnly.ctxs : t.ctxs = s.ctxs := by rw [h.1]
end

/-- `HostOnly` compares neither registers, flags nor stride state that stand the same in both states. -/
theorem HostOnly.overlay {s t : State} (h : HostOnly s t) (r : List (Nat × Word)) (g : Flg) (x : Str) :
    HostOnly { s with regs := r, flg := g, str := x } { t with regs := r, flg := g, str := x } := by
  obtain ⟨frame, glb, hif, -, out⟩ := h
  exact ⟨by rw [frame], glb, hif, fun _ _ => rfl, out⟩

end Sys2Proof

namespace Sys2Proof.Machine

/-! ### Raised vectors stay raised (R530) -/

/-- From `s` to `t` no vector that stands in GLB_IRQ_RAW is cleared; registers stay in their canonical form. -/
def RawKept (s t : State) : Prop :=
  tabWf resetWord s.regs = true →
    tabWf resetWord t.regs = true ∧ ∀ v, v < 32 → fld s oIrqRaw v 1 = 1 → fld t oIrqRaw v 1 = 1

theorem RawKept.refl (s : State) : RawKept s s := fun wf => ⟨wf, fun _ _ h => h⟩

theorem RawKept.trans {s t u : State} (h : RawKept s t) (g : RawKept t u) : RawKept s u := by
  intro wf
  obtain ⟨wft, ht⟩ := h wf
  obtain ⟨wfu, hu⟩ := g wft
  exact ⟨wfu, fun v hv hs => hu v hv (ht v hv hs)⟩

theorem rawKept_of_regs {s t : State} (h : t.regs = s.regs) : RawKept s t := by
  intro wf
  unfold fld regGet
  rw [h]
  exact ⟨wf, fun _ _ h => h⟩

theorem rawKept_bump (s : State) {off : Nat} (lo n k : Nat) (h : oIrqRaw ≠ off) : RawKept s (bump off lo n k s) :=
  fun wf => ⟨setFld_wf wf off lo n _, fun _ _ hs => (fld_setFld_other s lo n _ _ _ h).trans hs⟩

theorem rawKept_foldl {α : Type} {f : State → α → State} (h : ∀ s a, RawKept s (f s a)) (l : List α) (s : State) :
    RawKept s (l.foldl f s) := by
  induction l generalizing s with
  | nil => exact .refl s
  | cons a t ih => exact (h s a).trans (ih _)

theorem sendLater_regs (v : Nat) (s : State) : (sendLater v s).regs = s.regs := by
  unfold sendLater
  split <;> rfl

/-- Raising a vector sets its bit of GLB_IRQ_RAW. -/
theorem fld_raise {s : State} (wf : tabWf resetWord s.regs = true) {v : Nat} (hv : v < 32) :
    fld (raise v s) oIrqRaw v 1 = 1 := by
  have regs : fld (raise v s) oIrqRaw v 1 = fld (setBit oIrqRaw v s) oIrqRaw v 1 := by
    unfold fld regGet raise
    rw [sendLater_regs]
  rw [regs, fld_setBit_same wf _ (by omega)]

theorem setBit_rawKept {i : Nat} (hi : i < 32) (s : State) : RawKept s (setBit oIrqRaw i s) := by
  refine fun wf => ⟨setFld_wf wf _ _ _ _, fun v hv hs => ?_⟩
  by_cases e : v = i
  · subst e
    exact fld_setBit_same wf _ hv
  · rw [setBit, fld_setFld_apart wf _ _ (by omega) (by omega), hs]

theorem raiseIf_rawKept (b : Bool) {v : Nat} (hv : v < 32) (s : State) : RawKept s (raiseIf b v s) := by
  unfold raiseIf
  split
  · exact (setBit_rawKept hv s).trans (rawKept_of_regs (sendLater_regs v _))
  · exact .refl s

theorem completeWith_rawKept (h : HostHdr) (st r : Nat) (s : State) : RawKept s (completeWith h st r s) := by
  have sq : ∀ n, oIrqRaw ≠ oSqSize n := fun n => by unfold oIrqRaw oSqSize; omega
  unfold completeWith
  generalize h.ring % 4 = n
  dsimp only
  split
  · exact (rawKept_of_regs (dropAccepted_regs h s)).trans (rawKept_bump _ 16 8 1 (sq n))
  · split
    · exact .trans (t := { s with hif := { s.hif with held := s.hif.held ++ [⟨h, st, r⟩] } }) (rawKept_of_regs rfl)
        (raiseIf_rawKept _ (by omega) _)
    · exact (rawKept_of_regs (t := writeRecord n h.tag st h.sstamp r (dropAccepted h s)) rfl).trans
        (raiseIf_rawKept _ (by omega) _)

theorem resolveFences_rawKept (k : Nat) (s : State) : RawKept s (resolveFences k s) := by
  induction k generalizing s with
  | zero => exact .refl s
  | succ k ih =>
    unfold resolveFences
    split
    · exact .refl s
    · next f _ =>
      have drop : RawKept s { s with hif := { s.hif with fences := dropFirst (fun g => g == f) s.hif.fences } } :=
        rawKept_of_regs rfl
      exact (drop.trans (completeWith_rawKept _ _ _ _)).trans (ih _)

theorem messageFor_rawKept (s : State) (v : Nat) : RawKept s (messageFor v s) := by
  apply rawKept_of_regs
  unfold messageFor
  repeat' split
  all_goals rfl

theorem placeEntry_rawKept (s : State) (e : LogE) : RawKept s (placeEntry s e) := by
  unfold placeEntry
  split
  · exact rawKept_of_regs rfl
  · exact rawKept_bump s 16 16 1 (by decide)

/-- The end of a hub cycle leaves every raised vector raised. -/
theorem settle_rawKept (s0 s : State) : RawKept s (settle s0 s) := by
  have adv : ∀ m, RawKept m (countAdv s0 m) := fun m => rawKept_of_regs (by unfold countAdv; split <;> rfl)
  have log : ∀ m, RawKept m (flushLog m) := fun m =>
    .trans (t := { m with glb := { m.glb with logQ := [] } }) (rawKept_of_regs rfl) (rawKept_foldl placeEntry_rawKept _ _)
  exact (resolveFences_rawKept s.hif.fences.length s).trans
    ((adv _).trans ((rawKept_foldl messageFor_rawKept _ _).trans (log _)))

/-! ### STR_EVT_CTL (R55, R65) -/

/-- The fields of STR_EVT_CTL: KIND, PHASE, CTX, ACT_IRQ, ACT_FLAG, EN, and FIRED with ABORTED. -/
def evtCtlFields : List Fld :=
  [⟨0, 4, .rw, 0⟩, ⟨4, 4, .rw, 0⟩, ⟨8, 4, .rw, 0⟩, ⟨12, 1, .rw, 0⟩, ⟨13, 1, .rw, 0⟩, ⟨16, 1, .rw, 0⟩, ⟨17, 2, .w1c, 0⟩]

theorem fieldsOf_evtCtl {k : Nat} (hk : k < 16) : fieldsOf (oEvt k 0) = evtCtlFields := by
  revert k
  decide

theorem evtCtlFields_rising : evtCtlFields.Pairwise fun a b => a.lo + a.n ≤ b.lo := by decide

theorem quietReg_evtCtl (k : Nat) : quietReg (oEvt k 0) := by
  unfold quietReg oEvt oErrCtl oIrqRaw oSqSize
  exact ⟨by omega, by omega, fun n => by omega⟩

/-- The software write of `v` to STR_EVT_CTL of slot `k` under the mask `en`, by itself. -/
def putCtl (k en v : Nat) (s : State) : State :=
  regPut (oEvt k 0) (writeFields s.locked (oEvt k 0) en v (tabGet resetWord s.regs (oEvt k 0))).toNat s

theorem putCtl_wf {s : State} (wf : tabWf resetWord s.regs = true) (k en v : Nat) :
    tabWf resetWord (putCtl k en v s).regs = true := regPut_wf wf _ _

section
variable {k : Nat} {s : State} (wf : tabWf resetWord s.regs = true) (hk : k < 16)
include wf hk

theorem fld_putCtl (en v : Nat) {lo n : Nat} (h : lo + n ≤ 32) : fld (putCtl k en v s) (oEvt k 0) lo n =
    bits (evtCtlFields.foldl (writeField s.locked en v) (regGet s (oEvt k 0))) lo n := by
  rw [fld, putCtl, regGet_put_same wf, bits_mod_word _ h, writeFields, BitVec.toNat_ofNat, bits_mod_word _ h,
    fieldsOf_evtCtl hk, regGet]

theorem fld_putCtl_rw {en : Nat} (v : Nat) {f : Fld} (hf : f ∈ evtCtlFields) (ha : f.acc = .rw)
    (he : bits en f.lo f.n = 2 ^ f.n - 1) (hn : f.lo + f.n ≤ 32) :
    fld (putCtl k en v s) (oEvt k 0) f.lo f.n = bits v f.lo f.n := by
  rw [fld_putCtl wf hk en v hn, bits_writes_rw s.locked evtCtlFields_rising hf ha he]

theorem fld_putCtl_en {en : Nat} (v : Nat) (he : bits en 16 1 = 1) : fld (putCtl k en v s) (oEvt k 0) 16 1 = bits v 16 1 :=
  fld_putCtl_rw wf hk v (f := ⟨16, 1, .rw, 0⟩) (by decide) rfl he (by decide)

theorem fld_putCtl_kind (v : Nat) : fld (putCtl k 0xFFFFFFFF v s) (oEvt k 0) 0 4 = bits v 0 4 :=
  fld_putCtl_rw wf hk v (f := ⟨0, 4, .rw, 0⟩) (by decide) rfl (by decide) (by decide)

/-- A write of the whole word stores KIND, PHASE, CTX, ACT_IRQ and ACT_FLAG. -/
theorem fld_putCtl_stored (v : Nat) : fld (putCtl k 0xFFFFFFFF v s) (oEvt k 0) 0 14 = bits v 0 14 := by
  have split (w : Nat) : bits w 0 14 =
      bits w 0 4 + 2 ^ 4 * (bits w 4 4 + 2 ^ 4 * (bits w 8 4 + 2 ^ 4 * (bits w 12 1 + 2 ^ 1 * bits w 13 1))) := by
    rw [bits_append w 0 4 10, bits_append w (0 + 4) 4 6, bits_append w (0 + 4 + 4) 4 2, bits_append w (0 + 4 + 4 + 4) 1 1]
  have part (f : Fld) (hf : f ∈ evtCtlFields.take 5) : fld (putCtl k 0xFFFFFFFF v s) (oEvt k 0) f.lo f.n = bits v f.lo f.n := by
    have shape : ∀ f ∈ evtCtlFields.take 5, f.acc = .rw ∧ bits 0xFFFFFFFF f.lo f.n = 2 ^ f.n - 1 ∧ f.lo + f.n ≤ 32 := by
      decide
    obtain ⟨ha, he, hn⟩ := shape f hf
    exact fld_putCtl_rw wf hk v (List.mem_of_mem_take hf) ha he hn
  have kind := part ⟨0, 4, .rw, 0⟩ (by decide)
  have phase := part ⟨4, 4, .rw, 0⟩ (by decide)
  have ctx := part ⟨8, 4, .rw, 0⟩ (by decide)
  have irq := part ⟨12, 1, .rw, 0⟩ (by decide)
  have flag := part ⟨13, 1, .rw, 0⟩ (by decide)
  unfold fld at *
  rw [split, split v, kind, phase, ctx, irq, flag]

/-- Under the mask of EN, FIRED and ABORTED the low half of the word keeps its value. -/
theorem fld_putCtl_masked (v : Nat) : fld (putCtl k 0x70000 v s) (oEvt k 0) 0 16 = fld s (oEvt k 0) 0 16 := by
  have outside : ∀ f ∈ evtCtlFields, bits 0x70000 f.lo f.n = 0 ∨ 0 + 16 ≤ f.lo := by decide
  rw [fld_putCtl wf hk _ v (by decide), bits_writes_kept s.locked fun f hf => ?_, fld]
  rcases outside f hf with masked | above
  · exact .inr (writeField_masked s.locked masked)
  · exact .inl (.inl above)

/-- A write with zeros for FIRED and ABORTED clears neither. -/
theorem fld_putCtl_flags (en : Nat) {v : Nat} (h : bits v 17 2 = 0) :
    fld (putCtl k en v s) (oEvt k 0) 17 2 = fld s (oEvt k 0) 17 2 := by
  have below : ∀ f ∈ evtCtlFields, f = ⟨17, 2, .w1c, 0⟩ ∨ f.lo + f.n ≤ 17 := by decide
  rw [fld_putCtl wf hk _ v (by decide), bits_writes_kept s.locked fun f hf => ?_, fld]
  rcases below f hf with rfl | below
  · exact .inr (writeField_w1c_zero s.locked rfl h)
  · exact .inl (.inr below)

end

theorem onlyReg_putCtl (k en v : Nat) (s : State) : OnlyReg (oEvt k 0) s (putCtl k en v s) := onlyReg_regPut _ _ s

/-! ### Arming and disarming (R55, R56) -/

/-- The step of slot `k` is resolved (R56). -/
def resolved (k : Nat) (s : State) : State :=
  { s with str := { s.str with evtStep := modNth (fun _ => resolveStep s.c (regGet s (oEvt k 4))) s.str.evtStep k } }

/-- A write to an armed slot changes EN, FIRED and ABORTED alone. -/
theorem writeEvtCtl_armed {k : Nat} {s : State} (h : fld s (oEvt k 0) 16 1 = 1) (v : Nat) :
    writeEvtCtl k 0xFFFFFFFF v s = putCtl k 0x70000 v s := by
  simp only [writeEvtCtl, h]
  rfl

/-- A write of EN = 1 to a disarmed slot arms it where arming has an effect. -/
theorem writeEvtCtl_arms {k v : Nat} {s : State} (wf : tabWf resetWord s.regs = true) (hk : k < 16)
    (h : fld s (oEvt k 0) 16 1 = 0) (hv : bits v 16 1 = 1) :
    writeEvtCtl k 0xFFFFFFFF v s =
      if armable (putCtl k 0xFFFFFFFF v s) k then resolved k (putCtl k 0xFFFFFFFF v s)
      else setFld (oEvt k 0) 16 1 0 (putCtl k 0xFFFFFFFF v s) := by
  have en : fld (putCtl k 0xFFFFFFFF v s) (oEvt k 0) 16 1 = 1 := (fld_putCtl_en wf hk v (by decide)).trans hv
  unfold putCtl at en
  simp only [writeEvtCtl, h, en]
  cases harm : armable (putCtl k 0xFFFFFFFF v s) k <;> unfold putCtl at harm <;> simp [harm, putCtl, resolved]

/-- What arming asks of the word written and of the GRP of the slot. -/
theorem armable_putCtl {k : Nat} {s : State} (wf : tabWf resetWord s.regs = true) (hk : k < 16) (v : Nat) :
    armable (putCtl k 0xFFFFFFFF v s) k = true ↔
      1 ≤ bits v 0 4 ∧ bits v 0 4 ≤ 5 ∧ ¬ (bits v 0 4 = 4 ∧ 5 < fld s (oEvt k 8) 0 3) := by
  have arg : fld (putCtl k 0xFFFFFFFF v s) (oEvt k 8) 0 3 = fld s (oEvt k 8) 0 3 := by
    rw [fld, putCtl, regGet_put_other _ _ (by unfold oEvt; omega), fld]
  unfold armable
  rw [arg, fld_putCtl_kind wf hk]
  simp only [Bool.and_eq_true, decide_eq_true_eq, Bool.not_eq_true', Bool.and_eq_false_iff, beq_eq_false_iff_ne,
    decide_eq_false_iff_not, ne_eq, and_assoc, Decidable.not_and_iff_not_or_not]

/-- A 32-bit operand is resolved in the window c + 1 to c + 2 (R56). -/
theorem resolveStep_word (c : Nat) {v : Nat} (h : v < 2 ^ 32) : resolveStep c v =
    if (c + 1) % 2 ^ 32 = v then c + 1 else if (c + 2) % 2 ^ 32 = v then c + 2 else c / 2 ^ 32 * 2 ^ 32 + v := by
  rw [resolveStep, Nat.mod_eq_of_lt h]

theorem nth_resolved {k : Nat} {s : State} (h : k < s.str.evtStep.length) :
    nth 0 (resolved k s).str.evtStep k = resolveStep s.c (regGet s (oEvt k 4)) := by
  simp [resolved, nth_modNth, h]

/-! ### The hub cycle of a write or a firing -/

/-- Beside what completions, interrupts and the error log change, `m` differs from `s` in registers, flags and stride state alone. -/
def SlotEffect (s m : State) : Prop := HostOnly { s with regs := m.regs, flg := m.flg, str := m.str } m

namespace SlotEffect
variable {s m : State}

theorem beginCycle (s : State) : SlotEffect s (beginCycle s) := beginCycle_hostOnly s

theorem overlay (h : SlotEffect s m) (r : List (Nat × Word)) (g : Flg) (x : Str) :
    SlotEffect s { m with regs := r, flg := g, str := x } :=
  HostOnly.overlay (s := { s with regs := m.regs, flg := m.flg, str := m.str }) h r g x

theorem hostOnly {t : State} (h : SlotEffect s m) (g : HostOnly m t) : SlotEffect s t :=
  (h.overlay t.regs t.flg t.str).trans (g.overlay t.regs t.flg t.str)

theorem regPut (h : SlotEffect s m) (off v : Nat) : SlotEffect s (regPut off v m) := h.overlay _ m.flg m.str

theorem setFld (h : SlotEffect s m) (off lo n v : Nat) : SlotEffect s (setFld off lo n v m) := h.regPut off _

theorem putCtl (h : SlotEffect s m) (k en v : Nat) : SlotEffect s (putCtl k en v m) := h.regPut _ _

theorem resolved (h : SlotEffect s m) (k : Nat) : SlotEffect s (resolved k m) := h.overlay m.regs m.flg _

theorem setFlag (h : SlotEffect s m) (g : Nat) (f : Flag) : SlotEffect s (setFlag g f m) := h.overlay m.regs _ m.str

end SlotEffect

/-- What the end of a hub cycle leaves of the effect `m` of a command on an event slot. -/
theorem settle_slot {s m : State} (effect : SlotEffect s m) (str : m.str = { s.str with evtStep := m.str.evtStep }) :
    ∃ t, settle s m = t ∧ Quiet m t ∧ RawKept m t ∧ t.flg = m.flg ∧ t.str.evtStep = m.str.evtStep ∧
      HostOnly { s with regs := t.regs, flg := m.flg, str := { s.str with evtStep := m.str.evtStep } } t := by
  have settled := settle_hostOnly s m (by rw [str])
  have frame := effect.hostOnly settled
  unfold SlotEffect at frame
  rw [settled.flg, settled.str, str] at frame
  exact ⟨_, rfl, settle_quiet s m, settle_rawKept s m, settled.flg, settle_str_evtStep s m, frame⟩

/-- A write to an armed slot: KIND to bit 15 stay, EN takes the value written, and zeros clear neither FIRED nor ABORTED. -/
theorem write_armed_slot {k v : Nat} {s : State} (wf : tabWf resetWord s.regs = true) (hk : k < 16)
    (armed : fld s (oEvt k 0) 16 1 = 1) :
    ∃ t, settle s (writeEvtCtl k 0xFFFFFFFF v (beginCycle s)) = t ∧ OnlyReg (oEvt k 0) s t ∧
      HostOnly { s with regs := t.regs } t ∧ fld t (oEvt k 0) 0 16 = fld s (oEvt k 0) 0 16 ∧
      fld t (oEvt k 0) 16 1 = bits v 16 1 ∧
      (bits v 17 2 = 0 → fld t (oEvt k 0) 17 2 = fld s (oEvt k 0) 17 2) := by
  have wf0 : tabWf resetWord (beginCycle s).regs = true := wf
  rw [writeEvtCtl_armed (s := beginCycle s) armed]
  obtain ⟨t, ht, quiet, -, -, -, frame⟩ := settle_slot ((SlotEffect.beginCycle s).putCtl k 0x70000 v) rfl
  have word := quiet.fld (quietReg_evtCtl k)
  refine ⟨t, ht, (onlyReg_putCtl k _ v (beginCycle s)).quiet quiet, frame, ?_, ?_, fun zero => ?_⟩
  · exact (word 0 16).trans (fld_putCtl_masked wf0 hk v)
  · exact (word 16 1).trans (fld_putCtl_en wf0 hk v (by decide))
  · exact (word 17 2).trans (fld_putCtl_flags wf0 hk _ zero)

/-- A write of EN = 1 to a disarmed slot stores the word; it arms the slot and resolves its step where arming has an effect, and
else leaves it disarmed. -/
theorem write_idle_slot {k v : Nat} {s : State} (wf : tabWf resetWord s.regs = true) (hk : k < 16)
    (idle : fld s (oEvt k 0) 16 1 = 0) (hv : bits v 16 1 = 1) :
    ∃ t, settle s (writeEvtCtl k 0xFFFFFFFF v (beginCycle s)) = t ∧ OnlyReg (oEvt k 0) s t ∧
      HostOnly { s with regs := t.regs, str := { s.str with evtStep := t.str.evtStep } } t ∧
      fld t (oEvt k 0) 0 14 = bits v 0 14 ∧
      (armable (putCtl k 0xFFFFFFFF v (beginCycle s)) k = true → fld t (oEvt k 0) 16 1 = 1 ∧
        t.str.evtStep = (resolved k s).str.evtStep) ∧
      (armable (putCtl k 0xFFFFFFFF v (beginCycle s)) k = false → fld t (oEvt k 0) 16 1 = 0 ∧
        t.str.evtStep = s.str.evtStep) := by
  have wf0 : tabWf resetWord (beginCycle s).regs = true := wf
  have only : OnlyReg (oEvt k 0) s (putCtl k 0xFFFFFFFF v (beginCycle s)) := onlyReg_putCtl k _ v (beginCycle s)
  have effect := (SlotEffect.beginCycle s).putCtl k 0xFFFFFFFF v
  have stored := fld_putCtl_stored wf0 hk v
  have en := (fld_putCtl_en wf0 hk v (en := 0xFFFFFFFF) (by decide)).trans hv
  have wfm := putCtl_wf wf0 k 0xFFFFFFFF v
  have flg : (putCtl k 0xFFFFFFFF v (beginCycle s)).flg = s.flg := rfl
  have str : (putCtl k 0xFFFFFFFF v (beginCycle s)).str = s.str := rfl
  have steps : (resolved k (putCtl k 0xFFFFFFFF v (beginCycle s))).str = (resolved k s).str := by
    rw [resolved, putCtl, regGet_put_other (beginCycle s) _ (by unfold oEvt; omega)]; rfl
  rw [writeEvtCtl_arms wf0 hk idle hv]
  generalize putCtl k 0xFFFFFFFF v (beginCycle s) = m at *
  cases arms : armable m k with
  | true =>
    rw [if_pos rfl]
    obtain ⟨t, ht, quiet, -, -, step, frame⟩ := settle_slot (effect.resolved k) (by rw [steps]; rfl)
    have word := quiet.fld (quietReg_evtCtl k)
    rw [← step, show (resolved k m).flg = s.flg from flg] at frame
    refine ⟨t, ht, OnlyReg.quiet (t := resolved k m) only quiet, frame, (word 0 14).trans stored,
      fun _ => ⟨(word 16 1).trans en, ?_⟩, (absurd ·.symm Bool.false_ne_true)⟩
    rw [step, steps]
  | false =>
    rw [if_neg Bool.false_ne_true]
    obtain ⟨t, ht, quiet, -, -, step, frame⟩ := settle_slot (effect.setFld (oEvt k 0) 16 1 0) (by rw [setFld_str, str])
    have word := quiet.fld (quietReg_evtCtl k)
    rw [← step, setFld_flg, flg] at frame
    refine ⟨t, ht, (only.trans (onlyReg_setFld _ _ _ _ m)).quiet quiet, frame, ?_, (absurd · Bool.false_ne_true),
      fun _ => ⟨?_, ?_⟩⟩
    · rw [word, fld_setFld_apart wfm _ _ (by decide) (by decide), stored]
    · rw [word, fld_setFld_zero wfm _ (by decide)]
    · rw [step, setFld_str, str]

/-! ### Firing (R55, R57) -/

/-- Slot `k` is disarmed and shows FIRED. -/
def fired (k : Nat) (s : State) : State := setBit (oEvt k 0) 17 (setFld (oEvt k 0) 16 1 0 s)

theorem fired_wf {k : Nat} {s : State} (wf : tabWf resetWord s.regs = true) : tabWf resetWord (fired k s).regs = true :=
  setFld_wf (setFld_wf wf _ _ _ _) _ _ _ _

/-- EN reads 0 and FIRED reads 1. -/
theorem fld_fired {k : Nat} {s : State} (wf : tabWf resetWord s.regs = true) : fld (fired k s) (oEvt k 0) 16 2 = 2 := by
  have wf1 := setFld_wf wf (oEvt k 0) 16 1 0
  have en : fld (fired k s) (oEvt k 0) 16 1 = 0 :=
    (fld_setFld_apart wf1 _ _ (by decide) (by decide)).trans (fld_setFld_zero wf _ (by decide))
  have shown : fld (fired k s) (oEvt k 0) 17 1 = 1 := fld_setBit_same wf1 _ (by decide)
  have joined := bits_append (regGet (fired k s) (oEvt k 0)) 16 1 1
  unfold fld at *
  rw [en, shown] at joined
  exact joined

theorem onlyReg_fired (k : Nat) (s : State) : OnlyReg (oEvt k 0) s (fired k s) :=
  (onlyReg_setFld _ _ _ _ s).trans (onlyReg_setFld _ _ _ _ _)

/-- Slot `k` has fired and its vector is raised: what ACT_FLAG acts on. -/
def firedIrq (k : Nat) (s : State) : State := raiseIf (fld s (oEvt k 0) 12 1 == 1) 3 (fired k s)

theorem fireNow_without_flag {k : Nat} {s : State} (h : fld s (oEvt k 0) 13 1 = 0) : fireNow k s = firedIrq k s := by
  simp [fireNow, h, firedIrq, fired]

theorem settleWait_without_wait {x : Nat} {s : State} (h : (s.ctx x).wait = none) : settleWait x s = s := by
  simp [settleWait, h]

theorem settleWaits_without_wait {s : State} (h : NoSeqWait s) : settleWaits s = s := by
  unfold settleWaits
  induction upto 16 with
  | nil => rfl
  | cons x t ih => rw [List.foldl_cons, settleWait_without_wait (h x), ih]

/-- Where no held wait is selected, none is finished. -/
theorem finishAll_none {p : Wait → Bool} {st : Nat} {s : State} (h : ∀ w ∈ s.flg.waits, p w = false) : finishAll p st s = s := by
  have served : s.flg.waits.filter p = [] := List.filter_eq_nil_iff.2 fun w hw => by simp [h w hw]
  have held : (s.flg.waits.filter fun w => !p w) = s.flg.waits := List.filter_eq_self.2 fun w hw => by simp [h w hw]
  rw [finishAll, served, held]
  rfl

theorem serveFlag_without_wait {g : Nat} {s : State} (h : NoWaitOn g s) : serveFlag g s = s := by
  have other : ∀ w ∈ s.flg.waits, (w.key == g) = false := fun w hw => beq_false_of_ne (h w hw)
  have idle : finishAll (fun w => w.key == g && !w.consume && w.val == (flagAt s g).set) stOk s = s :=
    finishAll_none fun w hw => by simp [other w hw]
  have consumer : s.flg.waits.find? (fun w => w.key == g && w.consume && w.val) = none :=
    List.find?_eq_none.2 fun w hw => by simp [other w hw]
  simp only [serveFlag, idle, consumer]
  split <;> rfl

/-- Setting a clear flag on which nothing waits. -/
theorem opFlag_sets {c v g : Nat} {e : Bool} {s : State} (found : findFlag s c v = .at g e) (free : NoWaitOn g s)
    (clear : (flagAt s g).set = false) : (opFlag c v true s).1 = setFlag g { flagAt s g with set := true } s := by
  rw [opFlag, found]
  show actFlag c v g true s = _
  have free' : NoWaitOn g (setFlag g { flagAt s g with set := true } s) := free
  rw [actFlag, clear, if_neg (by decide), serveFlag_without_wait free']

theorem flagBecomes_setFlag {s : State} (wf : tabWf flagDefault s.flg.flags = true) (g : Nat) (f : Flag) :
    FlagBecomes g f s (setFlag g f s) :=
  ⟨tabGet_set_same wf g f, fun _ hj => tabGet_set_other _ f hj⟩

theorem firedIrq_hostOnly (k : Nat) (s : State) : HostOnly (fired k s) (firedIrq k s) := raiseIf_hostOnly _ 3 _

theorem firedIrq_flg (k : Nat) (s : State) : (firedIrq k s).flg = s.flg := by
  rw [(firedIrq_hostOnly k s).flg, fired, setBit_flg, setFld_flg]

theorem firedIrq_str (k : Nat) (s : State) : (firedIrq k s).str = s.str := by
  rw [(firedIrq_hostOnly k s).str, fired, setBit_str, setFld_str]

theorem firedIrq_ctxs (k : Nat) (s : State) : (firedIrq k s).ctxs = s.ctxs := by
  rw [(firedIrq_hostOnly k s).ctxs, fired, setBit_ctxs, setFld_ctxs]

theorem onlyReg_firedIrq (k : Nat) (s : State) : OnlyReg (oEvt k 0) s (firedIrq k s) :=
  (onlyReg_fired k s).quiet (raiseIf_quiet _ 3 _)

/-- Firing writes the control word of the slot and GLB_IRQ_RAW, and no other register. -/
theorem regGet_firedIrq (k : Nat) (s : State) {o : Nat} (ctl : o ≠ oEvt k 0) (raw : o ≠ oIrqRaw) :
    regGet (firedIrq k s) o = regGet s o := by
  have marked : regGet (fired k s) o = regGet s o :=
    (regGet_put_other _ _ ctl).trans (regGet_put_other s _ ctl)
  unfold firedIrq raiseIf
  split
  · have sent : regGet (raise 3 (fired k s)) o = regGet (setBit oIrqRaw 3 (fired k s)) o := by
      rw [regGet, raise, sendLater_regs, regGet]
    rw [sent, setBit, setFld, regGet_put_other _ _ raw, marked]
  · exact marked

theorem fld_firedIrq {k : Nat} {s : State} (wf : tabWf resetWord s.regs = true) :
    fld (firedIrq k s) (oEvt k 0) 16 2 = 2 :=
  ((raiseIf_quiet _ 3 (fired k s)).fld (quietReg_evtCtl k) 16 2).trans (fld_fired wf)

theorem firedIrq_wf {k : Nat} {s : State} (wf : tabWf resetWord s.regs = true) : tabWf resetWord (firedIrq k s).regs = true :=
  (raiseIf_rawKept _ (by decide) _ (fired_wf wf)).1

/-- ACT_IRQ raises vector 3. -/
theorem firedIrq_raises {k : Nat} {s : State} (wf : tabWf resetWord s.regs = true) (irq : fld s (oEvt k 0) 12 1 = 1) :
    fld (firedIrq k s) oIrqRaw 3 1 = 1 := by
  rw [firedIrq, irq]
  exact fld_raise (fired_wf wf) (by decide)

theorem slotEffect_firedIrq {s m : State} (h : SlotEffect s m) (k : Nat) : SlotEffect s (firedIrq k m) :=
  ((h.setFld (oEvt k 0) 16 1 0).setFld (oEvt k 0) 17 1 1).hostOnly (firedIrq_hostOnly k m)

theorem findFlag_of_flg {s t : State} (h : t.flg = s.flg) (c v : Nat) : findFlag t c v = findFlag s c v := by
  unfold findFlag translate mapRun storeRun State.map
  rw [h]

/-- ACT_FLAG on a clear flag on which nothing waits, while no FWAIT stands, sets the flag. -/
theorem fireNow_with_flag {k g : Nat} {e : Bool} {s : State} (act : fld s (oEvt k 0) 13 1 = 1)
    (found : findFlag s (fld s (oEvt k 12) 24 6) (fld s (oEvt k 12) 0 24) = .at g e) (free : NoWaitOn g s)
    (clear : (flagAt s g).set = false) (idle : NoSeqWait s) :
    fireNow k s = setFlag g { flagAt s g with set := true } (firedIrq k s) := by
  have flg := firedIrq_flg k s
  have flag : flagAt (firedIrq k s) g = flagAt s g := by rw [flagAt, flg, flagAt]
  have operand (lo n : Nat) : fld (firedIrq k s) (oEvt k 12) lo n = fld s (oEvt k 12) lo n := by
    rw [fld, regGet_firedIrq k s (by unfold oEvt; omega) (by unfold oEvt oIrqRaw; omega), fld]
  have found' : findFlag (firedIrq k s) (fld (firedIrq k s) (oEvt k 12) 24 6) (fld (firedIrq k s) (oEvt k 12) 0 24) = .at g e := by
    rw [operand, operand, findFlag_of_flg flg, found]
  have sets := opFlag_sets found' (by unfold NoWaitOn; rwa [flg]) (by rwa [flag])
  have unwaited : NoSeqWait (setFlag g { flagAt s g with set := true } (firedIrq k s)) := fun x => by
    have ctx : (setFlag g { flagAt s g with set := true } (firedIrq k s)).ctx x = s.ctx x :=
      congrArg (nth Ctx.none · x) (firedIrq_ctxs k s)
    rw [ctx, idle x]
  calc fireNow k s
      = settleWaits (opFlag (fld (firedIrq k s) (oEvt k 12) 24 6) (fld (firedIrq k s) (oEvt k 12) 0 24) true (firedIrq k s)).1 := by
        simp [fireNow, act, firedIrq, fired]
    _ = settleWaits (setFlag g { flagAt s g with set := true } (firedIrq k s)) := by rw [sets, flag]
    _ = _ := settleWaits_without_wait unwaited

/-! ### The commands of an event slot -/

theorem exec_strEvtArm {k : Nat} {s : State} (live : s.live = true) (hk : k < 16) (ctl : Word) :
    exec (.strEvtArm k ctl) s = .next (settle s (writeEvtCtl k 0xFFFFFFFF (ctl.toNat ||| 0x10000) (beginCycle s))) :=
  (runLive_eq _ s live).trans (by rw [if_pos hk])

theorem exec_strEvtDisarm {k : Nat} {s : State} (live : s.live = true) (hk : k < 16) (ctl : Word) :
    exec (.strEvtDisarm k ctl) s =
      .next (settle s (writeEvtCtl k 0xFFFFFFFF (ctl.toNat - (ctl.toNat &&& 0x10000)) (beginCycle s))) :=
  (runLive_eq _ s live).trans (by rw [if_pos hk])

theorem exec_strEvtFire {s : State} (live : s.live = true) (k : Nat) :
    exec (.strEvtFire k) s = .next (settle s (fireEvent k (beginCycle s))) := runLive_eq _ s live

theorem fireEvent_fires {k : Nat} {s : State} (hk : k < 16) (armed : fld s (oEvt k 0) 16 1 = 1) (holds : eventTrue s k = true) :
    fireEvent k s = fireNow k s := if_pos ⟨hk, armed, holds⟩

theorem fireEvent_rests {k : Nat} {s : State} (h : ¬ (fld s (oEvt k 0) 16 1 = 1 ∧ eventTrue s k = true)) :
    fireEvent k s = s := if_neg fun ⟨_, armed, holds⟩ => h ⟨armed, holds⟩

/-- STR_EVT_ARM writes the word with EN = 1; below bit 16 it is the word of the command. -/
theorem bits_armWord_low (ctl : Nat) {n : Nat} (h : bits 0x10000 0 n = 0) : bits (ctl ||| 0x10000) 0 n = bits ctl 0 n := by
  rw [bits_or, h, Nat.or_zero]

theorem bits_armWord_en (ctl : Nat) : bits (ctl ||| 0x10000) 16 1 = 1 := by
  rw [bits_one, bit, Nat.testBit_or, show Nat.testBit 0x10000 16 = true by decide, Bool.or_true]; rfl

/-- STR_EVT_DISARM writes the word with EN = 0. -/
theorem bits_disarmWord_en (ctl : Nat) : bits (ctl - (ctl &&& 0x10000)) 16 1 = 0 := by
  rw [show 0x10000 = 2 ^ 16 by decide, sub_and_bit, bits_putBits_same, Nat.zero_mod]

theorem bits_disarmWord_flags {ctl : Nat} (fired : bit ctl 17 = false) (aborted : bit ctl 18 = false) :
    bits (ctl - (ctl &&& 0x10000)) 17 2 = 0 := by
  rw [show 0x10000 = 2 ^ 16 by decide, sub_and_bit, bits_putBits_other _ _ (by decide),
    bits_append ctl 17 1 1, bits_one, bits_one, fired, aborted]
  rfl

end Sys2Proof.Machine

namespace Sys2Proof
open Machine

/-- STR_EVT_ARM of a disarmed slot. -/
theorem strEvtArm_idle (k : Nat) (ctl : Word) (s : State) (live : s.live = true) (tables : TablesOk s) (hk : k < 16)
    (slots : s.str.evtStep.length = 16) (idle : fld s (oEvt k 0) 16 1 = 0) :
    ∃ t, Machine.exec (.strEvtArm k ctl) s = .next t ∧ OnlyReg (oEvt k 0) s t ∧
      HostOnly { s with regs := t.regs, str := { s.str with evtStep := t.str.evtStep } } t ∧
      fld t (oEvt k 0) 0 14 = bits ctl.toNat 0 14 ∧
      (1 ≤ bits ctl.toNat 0 4 → bits ctl.toNat 0 4 ≤ 5 → ¬ (bits ctl.toNat 0 4 = 4 ∧ 5 < fld s (oEvt k 8) 0 3) →
        fld t (oEvt k 0) 16 1 = 1 ∧
        nth 0 t.str.evtStep k = (if (s.upd.committed + 1) % 2 ^ 32 = regGet s (oEvt k 4) then s.upd.committed + 1
          else if (s.upd.committed + 2) % 2 ^ 32 = regGet s (oEvt k 4) then s.upd.committed + 2
          else s.upd.committed / 2 ^ 32 * 2 ^ 32 + regGet s (oEvt k 4))) ∧
      (5 < bits ctl.toNat 0 4 → fld t (oEvt k 0) 16 1 = 0 ∧ t.str.evtStep = s.str.evtStep) := by
  obtain ⟨-, wf, -, -⟩ := tables
  obtain ⟨t, ht, only, frame, stored, arms, rests⟩ := write_idle_slot wf hk idle (bits_armWord_en ctl.toNat)
  have armable_iff := armable_putCtl (s := beginCycle s) wf hk (ctl.toNat ||| 0x10000)
  rw [bits_armWord_low _ (by decide)] at stored armable_iff
  refine ⟨t, (exec_strEvtArm live hk ctl).trans (congrArg _ ht), only, frame, stored, fun low high grp => ?_, fun reserved => ?_⟩
  · obtain ⟨en, step⟩ := arms (armable_iff.2 ⟨low, high, grp⟩)
    refine ⟨en, ?_⟩
    rw [step, nth_resolved (by omega), resolveStep_word _ (regGet_lt s _), State.c]
  · refine rests (Bool.eq_false_iff.2 fun armed => ?_)
    obtain ⟨-, high, -⟩ := armable_iff.1 armed
    omega

/-- STR_EVT_ARM and STR_EVT_DISARM of an armed slot. -/
theorem strEvt_armed (k : Nat) (ctl : Word) (s : State) (live : s.live = true) (tables : TablesOk s) (hk : k < 16)
    (armed : fld s (oEvt k 0) 16 1 = 1) :
    ∃ t u, Machine.exec (.strEvtArm k ctl) s = .next t ∧
      Machine.exec (.strEvtDisarm k ctl) s = .next u ∧ OnlyReg (oEvt k 0) s t ∧ OnlyReg (oEvt k 0) s u ∧
      HostOnly { s with regs := t.regs } t ∧ HostOnly { s with regs := u.regs } u ∧
      fld t (oEvt k 0) 0 16 = fld s (oEvt k 0) 0 16 ∧ fld u (oEvt k 0) 0 16 = fld s (oEvt k 0) 0 16 ∧
      fld t (oEvt k 0) 16 1 = 1 ∧ fld u (oEvt k 0) 16 1 = 0 ∧
      (bit ctl.toNat 17 = false → bit ctl.toNat 18 = false → fld u (oEvt k 0) 17 2 = fld s (oEvt k 0) 17 2) := by
  obtain ⟨-, wf, -, -⟩ := tables
  obtain ⟨t, ht, onlyT, frameT, lowT, enT, -⟩ := write_armed_slot (v := ctl.toNat ||| 0x10000) wf hk armed
  obtain ⟨u, hu, onlyU, frameU, lowU, enU, flags⟩ := write_armed_slot (v := ctl.toNat - (ctl.toNat &&& 0x10000)) wf hk armed
  exact ⟨t, u, (exec_strEvtArm live hk ctl).trans (congrArg _ ht), (exec_strEvtDisarm live hk ctl).trans (congrArg _ hu),
    onlyT, onlyU, frameT, frameU, lowT, lowU, enT.trans (bits_armWord_en _), enU.trans (bits_disarmWord_en _),
    fun fired aborted => flags (bits_disarmWord_flags fired aborted)⟩

/-- A slot that fires without ACT_FLAG. -/
theorem strEvtFire_without_flag (k : Nat) (s : State) (live : s.live = true) (tables : TablesOk s) (hk : k < 16)
    (armed : fld s (oEvt k 0) 16 1 = 1) (holds : eventTrue s k = true) (noFlag : fld s (oEvt k 0) 13 1 = 0) :
    ∃ t, Machine.exec (.strEvtFire k) s = .next t ∧
      fld t (oEvt k 0) 16 2 = 2 ∧ OnlyReg (oEvt k 0) s t ∧ HostOnly { s with regs := t.regs } t ∧
      (fld s (oEvt k 0) 12 1 = 1 → fld t oIrqRaw 3 1 = 1) := by
  obtain ⟨-, wf, -, -⟩ := tables
  have wf0 : tabWf resetWord (beginCycle s).regs = true := wf
  have only : OnlyReg (oEvt k 0) s (firedIrq k (beginCycle s)) := onlyReg_firedIrq k (beginCycle s)
  have str : (firedIrq k (beginCycle s)).str = s.str := firedIrq_str k (beginCycle s)
  have flg : (firedIrq k (beginCycle s)).flg = s.flg := firedIrq_flg k (beginCycle s)
  obtain ⟨t, ht, quiet, raw, -, -, frame⟩ := settle_slot (slotEffect_firedIrq (.beginCycle s) k) (by rw [str])
  obtain ⟨-, raised⟩ := raw (firedIrq_wf wf0)
  rw [flg, str] at frame
  rw [exec_strEvtFire live, fireEvent_fires (s := beginCycle s) hk armed holds, fireNow_without_flag (s := beginCycle s) noFlag]
  refine ⟨t, congrArg _ ht, ?_, only.quiet quiet, frame, fun irq => raised 3 (by decide) (firedIrq_raises wf0 irq)⟩
  rw [quiet.fld (quietReg_evtCtl k), fld_firedIrq wf0]

/-- A slot that fires with ACT_FLAG, on a flag that is clear and on which nothing waits. -/
theorem strEvtFire_with_flag (k g : Nat) (e : Bool) (s : State) (live : s.live = true) (tables : TablesOk s) (hk : k < 16)
    (unwaited : NoSeqWait s) (armed : fld s (oEvt k 0) 16 1 = 1) (holds : eventTrue s k = true)
    (act : fld s (oEvt k 0) 13 1 = 1) (found : findFlag s (fld s (oEvt k 12) 24 6) (fld s (oEvt k 12) 0 24) = .at g e)
    (free : NoWaitOn g s) (clear : (flagAt s g).set = false) :
    ∃ t, Machine.exec (.strEvtFire k) s = .next t ∧
      fld t (oEvt k 0) 16 2 = 2 ∧ FlagBecomes g { flagAt s g with set := true } s t ∧
      HostOnly { s with regs := t.regs, flg := t.flg } t := by
  obtain ⟨-, wf, wfFlags, -⟩ := tables
  have wf0 : tabWf resetWord (beginCycle s).regs = true := wf
  have str : (firedIrq k (beginCycle s)).str = s.str := firedIrq_str k (beginCycle s)
  have flg : (firedIrq k (beginCycle s)).flg = s.flg := firedIrq_flg k (beginCycle s)
  have shown := fld_firedIrq (k := k) wf0
  have effect := slotEffect_firedIrq (.beginCycle s) k
  have fires : fireNow k (beginCycle s) = setFlag g { flagAt s g with set := true } (firedIrq k (beginCycle s)) :=
    fireNow_with_flag (s := beginCycle s) act found free clear unwaited
  generalize firedIrq k (beginCycle s) = m at *
  obtain ⟨t, ht, quiet, -, flags, -, frame⟩ :=
    settle_slot (effect.setFlag g { flagAt s g with set := true }) (by rw [← str]; rfl)
  have becomes : FlagBecomes g { flagAt s g with set := true } s (setFlag g { flagAt s g with set := true } s) :=
    flagBecomes_setFlag wfFlags g _
  have same : ∀ j, flagAt t j = flagAt (setFlag g { flagAt s g with set := true } s) j := fun j => by
    unfold flagAt; rw [flags, setFlag, flg]; rfl
  rw [exec_strEvtFire live, fireEvent_fires (s := beginCycle s) hk armed holds, fires]
  refine ⟨t, congrArg _ ht, ?_, ⟨?_, fun j hj => ?_⟩, ?_⟩
  · exact (quiet.fld (quietReg_evtCtl k) 16 2).trans shown
  · exact (same g).trans becomes.1
  · exact (same j).trans (becomes.2 j hj)
  · rw [flags]
    rw [show (setFlag g { flagAt s g with set := true } m).str = s.str from str] at frame
    exact frame

/-- A slot that is not armed, or whose condition is false. -/
theorem strEvtFire_rests (k : Nat) (s : State) (live : s.live = true)
    (rests : ¬ (fld s (oEvt k 0) 16 1 = 1 ∧ eventTrue s k = true)) :
    ∃ t, Machine.exec (.strEvtFire k) s = .next t ∧ HostOnly s t := by
  refine ⟨settle s (beginCycle s), ?_, (beginCycle_hostOnly s).trans (settle_hostOnly s _ rfl)⟩
  rw [exec_strEvtFire live, fireEvent_rests (s := beginCycle s) rests]

/-- Settles O26: a write of the control word by its case of EN (R55, R56), a firing by its case of ACT_FLAG. -/
theorem eventSlotsArmAndFire : Obligations.EventSlotsArmAndFire := by
  unfold Obligations.EventSlotsArmAndFire
  refine ⟨fun k ctl s live tables hk slots => ⟨?_, ?_⟩,
    fun k s live tables hk unwaited => ⟨fun armed holds => ⟨?_, ?_⟩, ?_⟩⟩
  · exact strEvtArm_idle k ctl s live tables hk slots
  · exact strEvt_armed k ctl s live tables hk
  · exact strEvtFire_without_flag k s live tables hk armed holds
  · exact fun g e => strEvtFire_with_flag k g e s live tables hk unwaited armed holds
  · exact strEvtFire_rests k s live

end Sys2Proof

namespace Sys2Proof.Machine

/-! ### Bytes that repeat a value (R428) -/

/-- Byte `i` of a little-endian value. -/
theorem getElem?_leBytes {n i : Nat} (v : Nat) (h : i < n) : (leBytes n v)[i]? = some (BitVec.ofNat 8 (v / 256 ^ i)) := by
  induction n generalizing v i with
  | zero => exact absurd h (Nat.not_lt_zero i)
  | succ n ih =>
    cases i with
    | zero => rw [leBytes, List.getElem?_cons_zero, Nat.pow_zero, Nat.div_one]
    | succ i => rw [leBytes, List.getElem?_cons_succ, ih _ (by omega), Nat.div_div_eq_div_mul, Nat.pow_succ']

theorem length_flatMap_const {α β : Type} (l : List α) (piece : List β) :
    (l.flatMap fun _ => piece).length = l.length * piece.length := by
  induction l with
  | nil => rw [List.flatMap_nil, List.length_nil, List.length_nil, Nat.zero_mul]
  | cons a t ih => rw [List.flatMap_cons, List.length_append, ih, List.length_cons, Nat.succ_mul, Nat.add_comm]

/-- A list put down once per element of another repeats with its own length. -/
theorem getElem?_flatMap_const {α β : Type} (l : List α) (piece : List β) {i : Nat} (h : i < l.length * piece.length) :
    (l.flatMap fun _ => piece)[i]? = piece[i % piece.length]? := by
  induction l generalizing i with
  | nil => rw [List.length_nil, Nat.zero_mul] at h; exact absurd h (Nat.not_lt_zero i)
  | cons a t ih =>
    rw [List.length_cons, Nat.succ_mul] at h
    rw [List.flatMap_cons]
    by_cases first : i < piece.length
    · rw [List.getElem?_append_left first, Nat.mod_eq_of_lt first]
    · rw [List.getElem?_append_right (by omega), ih (by omega), ← Nat.mod_eq_sub_mod (by omega)]

/-- The bytes that a FILL stores. -/
def fillBytes (length value : Nat) : List Byte := (upto (length / 4)).flatMap fun _ => leBytes 4 value

theorem fillBytes_length {length : Nat} (h : length % 4 = 0) (value : Nat) : (fillBytes length value).length = length := by
  rw [fillBytes, length_flatMap_const, leBytes_length, upto, List.length_range, Nat.div_mul_cancel (Nat.dvd_of_mod_eq_zero h)]

theorem fillBytes_getElem {length value i : Nat} (h : i < (fillBytes length value).length) :
    (fillBytes length value)[i] = BitVec.ofNat 8 (value / 256 ^ (i % 4)) := by
  have inside : i < (upto (length / 4)).length * (leBytes 4 value).length := by
    rwa [fillBytes, length_flatMap_const] at h
  apply Option.some.inj
  rw [← List.getElem?_eq_getElem h, fillBytes, getElem?_flatMap_const _ _ inside, leBytes_length,
    getElem?_leBytes value (Nat.mod_lt i (by decide))]

/-- A block of R428 is a whole number of 32-bit values. -/
theorem length_of_goodHdm {dst length : Nat} (h : badHdm dst length = false) : length % 4 = 0 := by
  simp only [badHdm, oddBlock, Bool.or_eq_false_iff, bne_eq_false_iff_eq] at h
  obtain ⟨⟨⟨-, units⟩, -⟩, -⟩ := h
  omega

/-! ### Memory after a store -/

theorem memByte_of_hdm {s t : State} (h : t.hdm = s.hdm) (a : Nat) : memByte t a = memByte s a := by
  rw [memByte, h, memByte]

/-- Stored bytes are read back together. -/
theorem memRead_memWrite {s : State} (wf : tabWf hdmDefault s.hdm = true) (a : Nat) (d : List Byte) :
    memRead (memWrite a d s) a d.length = d := by
  apply List.ext_getElem
  · simp only [memRead, upto, List.length_map, List.length_range]
  · intro i _ hi
    simp only [memRead, upto, List.getElem_map, List.getElem_range, memWrite_inside wf a d i hi]

/-- A unit stays poisoned unless the store covers it whole (R512). -/
theorem mem_memWrite_poison (a : Nat) (d : List Byte) (s : State) (u : Nat) :
    u ∈ (memWrite a d s).poison ↔ u ∈ s.poison ∧ ¬ (a ≤ u ∧ u + 64 ≤ a + d.length) := by
  rw [memWrite, List.mem_filter, coversUnit, ← Bool.decide_and, ← decide_not, decide_eq_true_iff]

/-! ### Bias of pages (R412) -/

theorem mem_biasPages (a n p : Nat) :
    p ∈ biasPages a n ↔ n ≠ 0 ∧ a / 2 ^ 21 ≤ p ∧ p ≤ (a + n - 1) / 2 ^ 21 := by
  unfold biasPages
  split
  · next empty => exact iff_of_false List.not_mem_nil fun ⟨touched, _⟩ => touched empty
  · next touched =>
    simp only [upto, List.mem_map, List.mem_range]
    constructor
    · rintro ⟨k, below, rfl⟩
      exact ⟨touched, by omega, by omega⟩
    · rintro ⟨-, low, high⟩
      exact ⟨p - a / 2 ^ 21, by omega, by omega⟩

/-- The pages that a host access touches leave device bias, and no others. -/
theorem mem_hostBias (a n : Nat) (s : State) (p : Nat) :
    p ∈ (hostBias a n s).bias ↔ p ∈ s.bias ∧ (n = 0 ∨ p < a / 2 ^ 21 ∨ (a + n - 1) / 2 ^ 21 < p) := by
  have untouched : p ∉ biasPages a n ↔ n = 0 ∨ p < a / 2 ^ 21 ∨ (a + n - 1) / 2 ^ 21 < p := by
    rw [mem_biasPages]
    omega
  simp only [hostBias, List.contains_eq_mem, List.mem_filter, Bool.not_eq_true', decide_eq_false_iff_not, untouched]

/-! ### The error log at the end of a hub cycle (R515, R528) -/

/-- From `s` to `t` the error log and the queue of entries for it stay. -/
def LogKept (s t : State) : Prop := t.glb.log = s.glb.log ∧ t.glb.logQ = s.glb.logQ

theorem LogKept.refl (s : State) : LogKept s s := ⟨rfl, rfl⟩

theorem LogKept.trans {s t u : State} (h : LogKept s t) (g : LogKept t u) : LogKept s u :=
  ⟨g.1.trans h.1, g.2.trans h.2⟩

theorem sendLater_logKept (v : Nat) (s : State) : LogKept s (sendLater v s) := by
  unfold sendLater
  split <;> exact ⟨rfl, rfl⟩

theorem raise_logKept (v : Nat) (s : State) : LogKept s (raise v s) := sendLater_logKept v (setBit oIrqRaw v s)

theorem raiseIf_logKept (b : Bool) (v : Nat) (s : State) : LogKept s (raiseIf b v s) := by
  unfold raiseIf
  split
  · exact raise_logKept v s
  · exact .refl s

theorem completeWith_logKept (h : HostHdr) (st r : Nat) (s : State) : LogKept s (completeWith h st r s) := by
  unfold completeWith
  dsimp only
  split
  · exact ⟨rfl, rfl⟩
  · split
    · exact raiseIf_logKept h.irq 0 { s with hif := { s.hif with held := s.hif.held ++ [⟨h, st, r⟩] } }
    · exact raiseIf_logKept h.irq 0 (writeRecord (h.ring % 4) h.tag st h.sstamp r (dropAccepted h s))

theorem resolveFences_logKept (k : Nat) (s : State) : LogKept s (resolveFences k s) := by
  induction k generalizing s with
  | zero => exact .refl s
  | succ k ih =>
    unfold resolveFences
    split
    · exact .refl s
    · next f _ =>
      exact (completeWith_logKept f.h stOk _
        { s with hif := { s.hif with fences := dropFirst (fun g => g == f) s.hif.fences } }).trans (ih _)

theorem countAdv_logKept (s0 s : State) : LogKept s (countAdv s0 s) := by
  unfold countAdv
  split <;> exact ⟨rfl, rfl⟩

theorem messageFor_logKept (v : Nat) (s : State) : LogKept s (messageFor v s) := by
  unfold messageFor
  repeat' split
  all_goals exact ⟨rfl, rfl⟩

theorem flushIrq_logKept (s : State) : LogKept s (flushIrq s) := by
  unfold flushIrq
  generalize s.glb.raised.reverse = l
  induction l generalizing s with
  | nil => exact .refl s
  | cons v t ih => exact (messageFor_logKept v s).trans (ih _)

/-- The end of a hub cycle places the entries that the command has queued in the log that the command found. -/
theorem settle_flushes (s0 s : State) : ∃ m, LogKept s m ∧ settle s0 s = flushLog m :=
  ⟨_, (resolveFences_logKept _ s).trans ((countAdv_logKept s0 _).trans (flushIrq_logKept _)), rfl⟩

/-- A list with an element that satisfies `p` has a first one. -/
theorem findIdxN_of_mem {α : Type} (d : α) {p : α → Bool} {l : List α} {x : α} (hx : x ∈ l) (hp : p x = true) (k : Nat) :
    ∃ j, findIdxN p l k = some (k + j) ∧ j < l.length ∧ p (nth d l j) = true := by
  induction l generalizing k with
  | nil => cases hx
  | cons a t ih =>
    unfold findIdxN
    by_cases first : p a = true
    · exact ⟨0, by rw [if_pos first, Nat.add_zero], Nat.succ_pos _, first⟩
    · rcases List.mem_cons.1 hx with rfl | later
      · exact absurd hp first
      · obtain ⟨j, found, inside, holds⟩ := ih later (k + 1)
        exact ⟨j + 1, by rw [if_neg first, found, Nat.add_right_comm, Nat.add_assoc], Nat.succ_lt_succ inside, holds⟩

/-- An entry takes a slot of the log that was free. -/
theorem placeEntry_takes_free {s : State} (room : none ∈ s.glb.log) (e : LogE) :
    ∃ i, nth none s.glb.log i = none ∧ nth none (placeEntry s e).glb.log i = some { e with seq := s.glb.seq } := by
  obtain ⟨i, found, inside, free⟩ := findIdxN_of_mem none (p := fun o => Option.isNone o) room rfl 0
  rw [Nat.zero_add] at found
  refine ⟨i, Option.isNone_iff_eq_none.1 free, ?_⟩
  simp only [placeEntry, found]
  rw [nth_modNth, if_pos ⟨rfl, inside⟩]

end Sys2Proof.Machine

namespace Sys2Proof
open Machine

/-- The one entry that a command has queued stands in the log after its hub cycle, where a slot was free. -/
theorem settle_logged {s s0 : State} {e : LogE} (queued : s.glb.logQ = [e]) (room : none ∈ s.glb.log) :
    Logged e.event e.arg s (settle s0 s) := by
  obtain ⟨m, ⟨log, queue⟩, ends⟩ := settle_flushes s0 s
  have flushed : flushLog m = placeEntry { m with glb := { m.glb with logQ := [] } } e := by
    rw [flushLog, queue, queued]; rfl
  obtain ⟨i, free, placed⟩ := placeEntry_takes_free (s := { m with glb := { m.glb with logQ := [] } }) (log ▸ room) e
  exact ⟨i, { e with seq := m.glb.seq }, log ▸ free, by rw [ends, flushed, placed], rfl, rfl⟩

/-- A command that only queues one log entry and raises one vector. -/
theorem settle_logs_and_raises {s : State} (wf : tabWf resetWord s.regs = true) (event st ag : Nat) (i : LogInfo) {v : Nat}
    (hv : v < 32) :
    HostOnly s (settle s (raise v (logEv event st ag i (beginCycle s)))) ∧
      fld (settle s (raise v (logEv event st ag i (beginCycle s)))) oIrqRaw v 1 = 1 ∧
      (none ∈ s.glb.log → Logged event i.arg s (settle s (raise v (logEv event st ag i (beginCycle s))))) := by
  have queued : LogKept (logEv event st ag i (beginCycle s)) (raise v (logEv event st ag i (beginCycle s))) :=
    raise_logKept v _
  have frame : HostOnly s (raise v (logEv event st ag i (beginCycle s))) :=
    (beginCycle_hostOnly s).trans ((logEv_hostOnly _ _ _ _ _).trans (raise_hostOnly v _))
  have raised := fld_raise (s := logEv event st ag i (beginCycle s)) wf hv
  obtain ⟨wfRaised, -⟩ := raiseIf_rawKept true hv (logEv event st ag i (beginCycle s)) wf
  rw [raiseIf, if_pos rfl] at wfRaised
  generalize raise v (logEv event st ag i (beginCycle s)) = m at *
  obtain ⟨log, queue⟩ := queued
  replace log : m.glb.log = s.glb.log := log
  obtain ⟨-, kept⟩ := settle_rawKept s m wfRaised
  refine ⟨frame.trans (settle_hostOnly s m (by rw [frame.str])), kept v hv raised, fun room => ?_⟩
  obtain ⟨k, e, free, placed⟩ := settle_logged (s0 := s) queue (log ▸ room)
  exact ⟨k, e, log ▸ free, placed⟩

/-! ### Frames of a command on memory -/

section
variable {s t : State}

theorem HostOnly.hdm (h : HostOnly s t) : t.hdm = s.hdm := by rw [h.1]
theorem HostOnly.poison (h : HostOnly s t) : t.poison = s.poison := by rw [h.1]
theorem HostOnly.bias (h : HostOnly s t) : t.bias = s.bias := by rw [h.1]

theorem MemoryOutside.of_hdm {a : Nat} {d : List Byte} (h : t.hdm = (memWrite a d s).hdm) :
    MemoryOutside a d.length s t := fun b outside => by
  rw [memByte_of_hdm h, memWrite_outside s d outside]

/-- What leaves the module stays first in line to the end of the hub cycle. -/
theorem HostOnly.emitted {o : Out} (h : HostOnly (emit o s) t) : ∃ rest, t.out = s.out ++ o :: rest := by
  obtain ⟨-, -, -, -, rest, out⟩ := h
  exact ⟨rest, by rw [out, emit, List.append_assoc, List.singleton_append]⟩

end

/-- A command that completes at once in `m`: only what a completion changes, and its record comes next. -/
theorem settle_complete {h : HostHdr} {s m : State} (st : Nat) (en : (m.ring (h.ring % 4)).en = true)
    (running : m.hif.stopped = false) (now : m.str.now = s.str.now) :
    HostOnly m (settle s (complete h st m)) ∧ Recorded h st (low64 m.str.now) m (settle s (complete h st m)) := by
  have settled : HostOnly (complete h st m) (settle s (complete h st m)) :=
    settle_hostOnly s _ (by rw [complete_str, now])
  exact ⟨(complete_hostOnly h st m).trans settled, (completeWith_recorded h st _ m en running).grow settled⟩

/-! ### FILL (R427, R428) -/

theorem exec_fill {s : State} (live : s.live = true) (h : HostHdr) (dst len v : Nat) :
    Machine.exec (.fill h dst len v) s = .next (settle s (fill h dst len v (beginCycle s))) := runLive_eq _ s live

theorem fill_stores {dst len : Nat} (good : badHdm dst len = false) (h : HostHdr) (v : Nat) (s : State) :
    fill h dst len v s = complete h stOk (memWrite dst (fillBytes len v) s) := by
  rw [fill, good, if_neg Bool.false_ne_true, fillBytes]

theorem fill_refuses {dst len : Nat} (bad : badHdm dst len = true) (h : HostHdr) (v : Nat) (s : State) :
    fill h dst len v s = complete h stFormat s := by rw [fill, if_pos bad]

/-- A FILL of a range that R428 allows. -/
theorem exec_fill_stores {h : HostHdr} {dst len : Nat} {s : State} (good : badHdm dst len = false) (v : Nat)
    (ready : Recordable h s) (wf : Memory.wf s = true) :
    ∃ t, Machine.exec (.fill h dst len v) s = .next t ∧
      HostOnly { s with hdm := t.hdm, poison := t.poison } t ∧ MemoryOutside dst len s t ∧
      (∀ i, i < len → memByte t (dst + i) = BitVec.ofNat 8 (v / 256 ^ (i % 4))) ∧
      Recorded h stOk (low64 s.str.now) s t := by
  obtain ⟨live, en, running⟩ := ready
  have size := fillBytes_length (length_of_goodHdm good) v
  have start : HostOnly (memWrite dst (fillBytes len v) s) (memWrite dst (fillBytes len v) (beginCycle s)) :=
    beginCycle_hostOnly (memWrite dst (fillBytes len v) s)
  obtain ⟨ends, recorded⟩ :=
    settle_complete (h := h) (s := s) (m := memWrite dst (fillBytes len v) (beginCycle s)) stOk en running rfl
  have frame := start.trans ends
  rw [exec_fill live, fill_stores good]
  generalize settle s (complete h stOk (memWrite dst (fillBytes len v) (beginCycle s))) = t at *
  refine ⟨t, rfl, ?_, ?_, fun i inside => ?_, recorded⟩
  · rw [frame.hdm, frame.poison]
    exact frame
  · have outside := MemoryOutside.of_hdm frame.hdm
    rwa [size] at outside
  · have hi : i < (fillBytes len v).length := by rwa [size]
    rw [memByte_of_hdm frame.hdm, memWrite_inside wf dst _ i hi, fillBytes_getElem hi]

/-- A FILL of a range that R428 refuses. -/
theorem exec_fill_refuses {h : HostHdr} {dst len : Nat} {s : State} (bad : badHdm dst len = true) (v : Nat)
    (ready : Recordable h s) :
    ∃ t, Machine.exec (.fill h dst len v) s = .next t ∧ HostOnly s t ∧ Recorded h stFormat (low64 s.str.now) s t := by
  obtain ⟨live, en, running⟩ := ready
  obtain ⟨ends, recorded⟩ := settle_complete (h := h) (s := s) (m := beginCycle s) stFormat en running rfl
  rw [exec_fill live, fill_refuses bad]
  exact ⟨_, rfl, (beginCycle_hostOnly s).trans ends, recorded⟩

/-! ### The HDM window (R410 to R412, R472, R512) -/

theorem live_of_ready {s : State} (awake : s.awake = true) (ready : s.boot.ready = true) : s.live = true := by
  rw [State.live, awake, ready]; rfl

theorem not_live_of_not_ready {s : State} (ready : s.boot.ready = false) : s.live = false := by
  rw [State.live, ready, Bool.and_false]

/-- What a host read of the HDM window answers. -/
def hdmAnswer (a n : Nat) (s : State) : Out :=
  .hdmData a ((upto n).map fun i => if (memRange (a + i)).isSome then memByte s (a + i) else 0) (anyPoison s a n)

theorem exec_hdmRead_ready {a n : Nat} {s : State} (within : a + n ≤ 2 ^ 40) (live : s.live = true) :
    Machine.exec (.hdmRead a n) s =
      .next (settle s (emit (hdmAnswer a n (hostBias a n (beginCycle s))) (hostBias a n (beginCycle s)))) := by
  show (if a + n > 2 ^ 40 then _ else if s.live then _ else _) = _
  rw [if_neg (Nat.not_lt.2 within), if_pos live]; rfl

theorem exec_hdmRead_early {a n : Nat} {s : State} (within : a + n ≤ 2 ^ 40) (awake : s.awake = true)
    (early : s.live = false) : Machine.exec (.hdmRead a n) s =
      .next (settle s (emit (.hdmData a (List.replicate n 0) false) (beginCycle s))) := by
  show (if a + n > 2 ^ 40 then _ else if s.live then _ else _) = _
  rw [if_neg (Nat.not_lt.2 within), early, if_neg Bool.false_ne_true, if_pos awake]; rfl

theorem exec_hdmWrite_within {a : Nat} {d : List Byte} (within : a + d.length ≤ 2 ^ 40) (s : State) :
    Machine.exec (.hdmWrite a d) s = runLive (hostStore a d) s := by
  show (if a + d.length > 2 ^ 40 then _ else _) = _
  rw [if_neg (Nat.not_lt.2 within)]

/-- A read of a module that is READY. -/
theorem hdmRead_ready {a n : Nat} {s : State} (within : a + n ≤ 2 ^ 40) (live : s.live = true) :
    ∃ t rest, Machine.exec (.hdmRead a n) s = .next t ∧ HostOnly { s with bias := t.bias } t ∧
      t.bias = (hostBias a n s).bias ∧ t.out = s.out ++ hdmAnswer a n s :: rest := by
  have start : HostOnly (hostBias a n s) (hostBias a n (beginCycle s)) := beginCycle_hostOnly (hostBias a n s)
  have settled := settle_hostOnly s (emit (hdmAnswer a n (hostBias a n (beginCycle s))) (hostBias a n (beginCycle s))) rfl
  have frame := start.trans ((hostOnly_emit _ _).trans settled)
  obtain ⟨rest, answered⟩ := settled.emitted
  rw [exec_hdmRead_ready within live]
  refine ⟨_, rest, rfl, ?_, frame.bias, answered⟩
  rw [frame.bias]
  exact frame

/-- A read of a module that is not READY yet. -/
theorem hdmRead_early {a n : Nat} {s : State} (within : a + n ≤ 2 ^ 40) (awake : s.awake = true) (early : s.live = false) :
    ∃ t rest, Machine.exec (.hdmRead a n) s = .next t ∧ HostOnly s t ∧
      t.out = s.out ++ .hdmData a (List.replicate n 0) false :: rest := by
  have settled := settle_hostOnly s (emit (.hdmData a (List.replicate n 0) false) (beginCycle s)) rfl
  obtain ⟨rest, answered⟩ := settled.emitted
  rw [exec_hdmRead_early within awake early]
  exact ⟨_, rest, rfl, (beginCycle_hostOnly s).trans ((hostOnly_emit _ _).trans settled), answered⟩

/-- A read of the HDM window, before READY and after. -/
theorem hdmRead_answers {a n : Nat} {s : State} (awake : s.awake = true) (within : a + n ≤ 2 ^ 40) :
    ∃ t rest, Machine.exec (.hdmRead a n) s = .next t ∧ HostOnly { s with bias := t.bias } t ∧
      (s.boot.ready = false → t.bias = s.bias) ∧
      (s.boot.ready = true → ∀ p, p ∈ t.bias ↔ p ∈ s.bias ∧ (n = 0 ∨ p < a / 2 ^ 21 ∨ (a + n - 1) / 2 ^ 21 < p)) ∧
      t.out = s.out ++ (if s.boot.ready then hdmAnswer a n s else .hdmData a (List.replicate n 0) false) :: rest := by
  cases ready : s.boot.ready with
  | true =>
    obtain ⟨t, rest, step, frame, bias, out⟩ := hdmRead_ready within (live_of_ready awake ready)
    exact ⟨t, rest, step, frame, (absurd ·.symm Bool.false_ne_true), fun _ p => by rw [bias, mem_hostBias], out⟩
  | false =>
    obtain ⟨t, rest, step, frame, out⟩ := hdmRead_early within awake (not_live_of_not_ready ready)
    refine ⟨t, rest, step, ?_, fun _ => frame.bias, (absurd · Bool.false_ne_true), out⟩
    rw [frame.bias]
    exact frame

/-- A write inside one range is stored. -/
theorem hdmWrite_stores {a : Nat} {d : List Byte} {s : State} (within : a + d.length ≤ 2 ^ 40) (live : s.live = true)
    (wf : Memory.wf s = true) (inside : inOneRange a d.length = true) :
    ∃ t, Machine.exec (.hdmWrite a d) s = .next t ∧ memRead t a d.length = d ∧ MemoryOutside a d.length s t ∧
      HostOnly { s with hdm := t.hdm, poison := t.poison, bias := t.bias } t ∧
      (∀ p, p ∈ t.bias ↔ p ∈ s.bias ∧ (d.length = 0 ∨ p < a / 2 ^ 21 ∨ (a + d.length - 1) / 2 ^ 21 < p)) ∧
      ∀ u, u ∈ t.poison ↔ u ∈ s.poison ∧ ¬ (a ≤ u ∧ u + 64 ≤ a + d.length) := by
  have start : HostOnly (memWrite a d (hostBias a d.length s)) (memWrite a d (hostBias a d.length (beginCycle s))) :=
    beginCycle_hostOnly (memWrite a d (hostBias a d.length s))
  have frame := start.trans (settle_hostOnly s (memWrite a d (hostBias a d.length (beginCycle s))) rfl)
  have stored : hostStore a d (beginCycle s) = memWrite a d (hostBias a d.length (beginCycle s)) := if_pos inside
  have hdm : _ = (memWrite a d s).hdm := frame.hdm
  rw [exec_hdmWrite_within within, runLive_eq _ s live, stored]
  generalize settle s (memWrite a d (hostBias a d.length (beginCycle s))) = t at *
  refine ⟨t, rfl, ?_, .of_hdm hdm, ?_, fun p => ?_, fun u => ?_⟩
  · rw [memRead, funext (memByte_of_hdm hdm)]
    exact memRead_memWrite wf a d
  · rw [frame.hdm, frame.poison, frame.bias]
    exact frame
  · rw [frame.bias]
    exact mem_hostBias a d.length s p
  · rw [frame.poison]
    exact mem_memWrite_poison a d s u

/-- A write that is not inside one range is dropped and logged (R411). -/
theorem hdmWrite_drops {a : Nat} {d : List Byte} {s : State} (within : a + d.length ≤ 2 ^ 40) (live : s.live = true)
    (wf : tabWf resetWord s.regs = true) (hole : inOneRange a d.length = false) :
    ∃ t, Machine.exec (.hdmWrite a d) s = .next t ∧ HostOnly s t ∧ fld t oIrqRaw 1 1 = 1 ∧
      (none ∈ s.glb.log → Logged 0x1A a s t) := by
  have dropped : hostStore a d (beginCycle s) =
      raise 1 (logEv 0x1A stFormat agHub { port := 0x10, arg := a } (beginCycle s)) := by
    rw [hostStore, hole, if_neg Bool.false_ne_true]
  rw [exec_hdmWrite_within within, runLive_eq _ s live, dropped]
  exact ⟨_, rfl, settle_logs_and_raises wf 0x1A stFormat agHub { port := 0x10, arg := a } (by decide)⟩

/-- Settles O14: FILL by the ranges of R428, a read of the HDM window by READY, a write by READY and by its range. -/
theorem hostMemoryActs : Obligations.HostMemoryActs := by
  unfold Obligations.HostMemoryActs
  refine ⟨fun h dst len v s ready tables => ⟨fun good => ?_, fun bad => ?_⟩, ?_⟩
  · exact exec_fill_stores good v ready tables.1
  · exact exec_fill_refuses bad v ready
  · rintro a _ d s awake ⟨wfMem, wfRegs, -, -⟩ within rfl
    refine ⟨hdmRead_answers awake within, fun ready inside => ?_, fun ready hole => ?_, fun early => ?_⟩
    · exact hdmWrite_stores within (live_of_ready awake ready) wfMem inside
    · exact hdmWrite_drops within (live_of_ready awake ready) wfRegs hole
    · rw [exec_hdmWrite_within within, runLive, not_live_of_not_ready early, if_neg Bool.false_ne_true]

end Sys2Proof

namespace Sys2Proof.Machine

/-! ### Register reads (R472, R520 to R522) -/

/-- What a register read may change: stored fields, latched words, the global block, the flag maps and the free draws. -/
def ReadSide (s t : State) : Prop :=
  t = { s with regs := t.regs, latches := t.latches, glb := t.glb, flg := t.flg, free := t.free }

theorem ReadSide.refl (s : State) : ReadSide s s := rfl

theorem ReadSide.trans {s t u : State} (h : ReadSide s t) (g : ReadSide t u) : ReadSide s u := by
  unfold ReadSide at *
  rw [g, h]

theorem ReadSide.out {s t : State} (h : ReadSide s t) : t.out = s.out := by rw [h]
theorem ReadSide.str {s t : State} (h : ReadSide s t) : t.str = s.str := by rw [h]

theorem ReadSide.ite (p : Prop) [Decidable p] {s t : State} (h : ReadSide s t) : ReadSide s (if p then t else s) := by
  split
  · exact h
  · exact .refl s

theorem readSide_regPut (off v : Nat) (s : State) : ReadSide s (regPut off v s) := rfl

theorem latchWords_readSide (l : List Nat) (s : State) : ReadSide s (l.foldl (fun s o =>
    { s with latches := tabSet latchReset s.latches o (BitVec.ofNat 32 (liveWord s o)) }) s) := by
  induction l generalizing s with
  | nil => exact .refl s
  | cons o l ih => exact ReadSide.trans (t := { s with latches := _ }) rfl (ih _)

theorem readExtra_readSide (off : Nat) (s : State) : ReadSide s (readExtra off s) := by
  unfold readExtra
  split
  · exact .ite _ (t := modVec _ _ s) rfl
  · exact .ite _ (t := modMap _ _ s) rfl
  · exact .ite _ (t := nextStatWord s) (readSide_regPut _ _ s)
  · exact .ite _ (t := { s with free := s.free + 2 }) rfl
  · exact .refl s

theorem readEffect_readSide (off : Nat) (s : State) : ReadSide s (readEffect off s) := by
  unfold readEffect
  exact (latchWords_readSide (latchGroup off) s).trans (.trans (.ite _ (readSide_regPut _ _ _)) (readExtra_readSide off _))

theorem barRead_glb_early {off : Nat} {s : State} (early : s.boot.ready = false) (glb : off < 0x100000) :
    barRead 1 off s = ([readValue s off], readEffect off s) := by
  rw [barRead, early, if_neg Bool.false_ne_true, readEarly, decide_eq_true glb]
  rfl

theorem barRead_other_early {off : Nat} {s : State} (early : s.boot.ready = false) (other : 0x100000 ≤ off) :
    barRead 1 off s = ([0], s) := by
  rw [barRead, early, if_neg Bool.false_ne_true, readEarly, decide_eq_false (Nat.not_lt.2 other)]
  rfl

/-- One aligned word inside BAR0. -/
theorem accessOk_word {off : Nat} (aligned : off % 4 = 0) (inside : off < barEnd) : accessOk off 1 = true := by
  have ends : off + 4 * 1 ≤ barEnd := by
    unfold barEnd at *
    omega
  rw [accessOk, aligned, decide_eq_true ends]
  rfl

/-- REGISTER_READ of one word is one hub cycle that leaves the word on the host bus. -/
theorem exec_registerRead_word {off : Nat} {s m : State} {w : Word} (aligned : off % 4 = 0) (inside : off < barEnd)
    (awake : s.awake = true) (read : barRead 1 off (beginCycle s) = ([w], m)) :
    Machine.exec (.registerRead off 1) s = .next (settle s (emit (.regData off [w]) m)) := by
  show (if accessOk off 1 then _ else _) = _
  rw [if_pos (accessOk_word aligned inside), runAwake_eq _ s awake, registerRead, read]

theorem registerRead_glb_early {off : Nat} {s : State} (awake : s.awake = true) (early : s.boot.ready = false)
    (aligned : off % 4 = 0) (glb : off < 0x100000) :
    ∃ t rest, Machine.exec (.registerRead off 1) s = .next t ∧ t.out = s.out ++ .regData off [readValue s off] :: rest := by
  have side := readEffect_readSide off (beginCycle s)
  have settled := settle_hostOnly s (emit (.regData off [readValue s off]) (readEffect off (beginCycle s)))
    (congrArg Str.now side.str)
  obtain ⟨rest, answered⟩ := settled.emitted
  rw [side.out] at answered
  have inside : off < barEnd := Nat.lt_trans glb (by decide)
  exact ⟨_, rest, exec_registerRead_word aligned inside awake (barRead_glb_early early glb), answered⟩

theorem registerRead_other_early {off : Nat} {s : State} (awake : s.awake = true) (early : s.boot.ready = false)
    (aligned : off % 4 = 0) (other : 0x100000 ≤ off) (inside : off < barEnd) :
    ∃ t rest, Machine.exec (.registerRead off 1) s = .next t ∧ t.out = s.out ++ .regData off [0] :: rest ∧ HostOnly s t := by
  have settled := settle_hostOnly s (emit (.regData off [0]) (beginCycle s)) rfl
  obtain ⟨rest, answered⟩ := settled.emitted
  exact ⟨_, rest, exec_registerRead_word aligned inside awake (barRead_other_early early other), answered,
    (beginCycle_hostOnly s).trans ((hostOnly_emit _ _).trans settled)⟩

/-! ### Commands that reach only a module that is READY (R472) -/

theorem runLive_early (f : State → State) {s : State} (early : s.boot.ready = false) : runLive f s = .next s := by
  rw [runLive, not_live_of_not_ready early, if_neg Bool.false_ne_true]

theorem registerWrite_early {s : State} (early : s.boot.ready = false) (off : Nat) (l : List (Word × Nat)) :
    Machine.exec (.registerWrite off l) s = .next s := by
  show (if accessOk off l.length then _ else _) = _
  rw [runLive_early _ early, ite_self]

theorem hdmWrite_early {s : State} (early : s.boot.ready = false) (a : Nat) (d : List Byte) :
    Machine.exec (.hdmWrite a d) s = .next s := by
  show (if a + d.length > 2 ^ 40 then _ else _) = _
  rw [runLive_early _ early, ite_self]

end Sys2Proof.Machine

namespace Sys2Proof
open Machine

/-- Settles O5: reads of BAR0 by the block they fall in, reads of the HDM window, and writes, which need READY. -/
theorem beforeReady : Obligations.BeforeReady := by
  unfold Obligations.BeforeReady
  intro s awake early
  refine ⟨fun off aligned glb => ?_, fun off aligned other inside => ?_, fun off l => ?_, fun a n within => ?_, fun a d => ?_⟩
  · exact registerRead_glb_early awake early aligned glb
  · exact registerRead_other_early awake early aligned other inside
  · exact registerWrite_early early off l
  · obtain ⟨t, rest, step, frame, out⟩ := hdmRead_early within awake (not_live_of_not_ready early)
    exact ⟨t, rest, step, out, frame⟩
  · exact hdmWrite_early early a d

end Sys2Proof
